-- ==== Sys2Proof/Word.lean ====
section
/-! DEFINITION. The word types of the NG288: a byte, a 64-bit register (R15) and a 32-byte memory sector. -/

namespace Sys2Proof

/-- One byte; the device is little-endian everywhere it holds data. [00_scope.md R14] -/
abbrev Byte := BitVec 8

/-- The value of a register. [00_scope.md R15] -/
abbrev Word := BitVec 64

end Sys2Proof
end

