-- ==== Sys2Proof/Machine/Wire.lean ====
section
/-! DEFINITION. What crosses the Ethernet ports: WCT and RoCE v2 packets with the fields their receivers use
(13_network.md R320, R336). -/

namespace Sys2Proof.Machine

/-- What frames of both transports carry around their own headers. [13_network.md R315, R320, R336] -/
structure NetHdr where
  /-- port it uses; 4 bits; 13_network.md R320; none -/
  port : Nat
  /-- source MAC address; 48 bits; 13_network.md R315; none -/
  smac : Nat
  /-- destination MAC address; 48 bits; 13_network.md Table 13.4; none -/
  dmac : Nat
  /-- VLAN tags, outermost first, as (VID, PCP); 12 + 3 bits each; 13_network.md R315, R320; none -/
  vlans : List (Nat × Nat)
  /-- EtherType; 16 bits; 13_network.md R315; none -/
  etherType : Nat
  /-- protocol that the IP header carries; 8 bits, 17 for UDP; 13_network.md R315, R320; none -/
  proto : Nat
  /-- IPv4 TTL or IPv6 hop limit; 8 bits; 13_network.md R320; none -/
  ttl : Nat
  /-- IPv4 DF; 1 bit; 13_network.md R320; none -/
  df : Bool
  /-- source IP address; 128 bits; 13_network.md R320; none -/
  srcIp : Nat
  /-- destination IP address; 128 bits; 13_network.md R320; none -/
  dstIp : Nat
  /-- UDP source port; 16 bits; 13_network.md R320; none -/
  sport : Nat
  /-- UDP destination port; 16 bits; 13_network.md R320, R336; none -/
  dport : Nat
  /-- IP DSCP; 6 bits; 13_network.md R320; none -/
  dscp : Nat
  /-- CE mark (received) or ECT(0) (sent, false); 1 bit; 13_network.md R319; none -/
  ce : Bool
  /-- UDP checksum, 0 where there is none; 16 bits; 13_network.md R320; none -/
  csum : Nat
  /-- the IPv4 header checksum, and the UDP checksum of a RoCE v2 packet that has one, are right; 1 bit; 13_network.md R320; none -/
  ipOk : Bool
  /-- symbols that the FEC corrected in the codewords it came in; count; 13_network.md R315, Table 13.10; none -/
  fecCorr : Nat
  /-- uncorrectable codewords that touch it; count; 13_network.md R315, Table 13.10; none -/
  fecBad : Nat
  deriving DecidableEq, Repr

/-- The frame carries IPv6. [13_network.md R315] -/
def NetHdr.v6 (n : NetHdr) : Bool := n.etherType = 0x86DD

/-- The frame carries IPv4 or IPv6. [13_network.md R315] -/
def NetHdr.isIp (n : NetHdr) : Bool := n.v6 || n.etherType = 0x0800

/-- The frame carries UDP. [13_network.md R320] -/
def NetHdr.isUdp (n : NetHdr) : Bool := n.isIp && n.proto = 17

/-- A WCT packet on the wire, either way. [13_network.md R320] -/
structure WctPkt where
  /-- the headers around it; NetHdr; 13_network.md R320; none -/
  net : NetHdr
  /-- WCT header; 256 bits; 13_network.md Table 13.3; none -/
  hdr : Nat
  /-- payload; bytes; 13_network.md R320; none -/
  payload : List Byte
  /-- end-to-end CRC; 32 bits; 13_network.md R320; none -/
  crc : Nat
  deriving DecidableEq, Repr

/-- A RoCE v2 packet, either way, with the fields the responder uses. [13_network.md R336 to R338] -/
structure RocePkt where
  /-- the headers around it; NetHdr; 13_network.md R336; none -/
  net : NetHdr
  /-- the ICRC is right; 1 bit; 13_network.md R336; none -/
  icrcOk : Bool
  /-- BTH opcode of the RC service; 8 bits; 13_network.md R336; none -/
  opcode : Nat
  /-- destination context (QPN); 24 bits; 13_network.md R336; none -/
  qpn : Nat
  /-- BTH PSN; 24 bits; 13_network.md R337; none -/
  psn : Nat
  /-- BTH acknowledge request; 1 bit; 13_network.md R336; none -/
  ackReq : Bool
  /-- RETH virtual address; 64 bits; 13_network.md R337; none -/
  va : Nat
  /-- RETH R_Key; 32 bits; 13_network.md R337; none -/
  rkey : Nat
  /-- RETH DMA length; 32 bits; 13_network.md R337; none -/
  len : Nat
  /-- AETH syndrome of a response; 8 bits; 13_network.md R337; none -/
  syndrome : Nat
  /-- payload; bytes; 13_network.md R336; none -/
  payload : List Byte
  deriving DecidableEq, Repr

end Sys2Proof.Machine
end

