-- ==== Sys2Proof/Syntax.lean ====
section
/-! DEFINITION. The commands of the block: one constructor per row of the table, in its order, with the operands that
name where the command acts and the data the outside world supplies. -/

namespace Sys2Proof

/-- A command. The comment of each constructor gives its row, its rule and its operands. -/
inductive Instr where
  /-- DISPATCH (R98); tile. -/
  | dispatch (p : Fin 288)
  /-- DESC_FETCH (R96); tile and stream. -/
  | descFetch (p : Fin 288) (k : Fin 16)
  /-- NOP (R99); tile. -/
  | collieNop (p : Fin 288)
  /-- TOKEN_WAIT (R111); tile. -/
  | tokenWait (p : Fin 288)
  /-- TOKEN_SET (R111); tile. -/
  | tokenSet (p : Fin 288)
  /-- LOOP (R105); tile. -/
  | collieLoop (p : Fin 288)
  /-- STOP (R104); tile. -/
  | collieStop (p : Fin 288)
  /-- COMMAND_COMPLETE (R100); tile and unit queue of Table 4.1. -/
  | commandComplete (p : Fin 288) (u : Fin 5)
  /-- TILE_STOPPED (R117); tile. -/
  | tileStopped (p : Fin 288)
  /-- RUN (R107); tile. -/
  | tileRun (p : Fin 288)
  /-- TILE_ABORT (R118); tile. -/
  | tileAbort (p : Fin 288)
  /-- CLR_FAULT (R119); tile. -/
  | clrFault (p : Fin 288)
  /-- ARM (R352); tile. -/
  | tileArm (p : Fin 288)
  /-- TILE_STREAM_TAIL_WRITE (R95); tile, stream, value. -/
  | streamTailWrite (p : Fin 288) (k : Fin 16) (v : BitVec 20)
  /-- TILE_STREAM_HEAD_WRITE (R105); tile, stream, value. -/
  | streamHeadWrite (p : Fin 288) (k : Fin 16) (v : BitVec 20)
  /-- FLT_TOKEN_TIMEOUT (R113); tile and stream. -/
  | tokenTimeout (p : Fin 288) (k : Fin 16)
  /-- DEADLOCK_EVAL (R114); tile. -/
  | deadlockEval (p : Fin 288)
  /-- HELD_WRITE_RELEASE (R110); tile. -/
  | heldWriteRelease (p : Fin 288)
  /-- GARNET_LOAD (R66); tile. -/
  | garnetLoad (p : Fin 288)
  /-- GARNET_LOAD_END (R66); tile. -/
  | garnetLoadEnd (p : Fin 288)
  /-- GARNET_SWAP (R69); tile. -/
  | garnetSwap (p : Fin 288)
  /-- GARNET_RUN (R72); tile. -/
  | garnetRun (p : Fin 288)
  /-- RESULT_WRITE (R78); tile. -/
  | resultWrite (p : Fin 288)
  /-- COPY (R127); tile. -/
  | vCopy (p : Fin 288)
  /-- ADD (R124); tile. -/
  | vAdd (p : Fin 288)
  /-- SUB (R124); tile. -/
  | vSub (p : Fin 288)
  /-- MUL (R124); tile. -/
  | vMul (p : Fin 288)
  /-- FMA (R124); tile. -/
  | vFma (p : Fin 288)
  /-- SCALE (R127); tile. -/
  | vScale (p : Fin 288)
  /-- MAX (R125); tile. -/
  | vMax (p : Fin 288)
  /-- MIN (R125); tile. -/
  | vMin (p : Fin 288)
  /-- RELU (R125); tile. -/
  | vRelu (p : Fin 288)
  /-- EXP (R128); tile. -/
  | vExp (p : Fin 288)
  /-- LOG (R128); tile. -/
  | vLog (p : Fin 288)
  /-- RECIP (R128); tile. -/
  | vRecip (p : Fin 288)
  /-- RSQRT (R128); tile. -/
  | vRsqrt (p : Fin 288)
  /-- SQRT (R128); tile. -/
  | vSqrt (p : Fin 288)
  /-- SIGMOID (R128); tile. -/
  | vSigmoid (p : Fin 288)
  /-- SILU (R128); tile. -/
  | vSilu (p : Fin 288)
  /-- TANH (R128); tile. -/
  | vTanh (p : Fin 288)
  /-- GLU (R127); tile. -/
  | vGlu (p : Fin 288)
  /-- SUM (R129); tile. -/
  | vSum (p : Fin 288)
  /-- SUMSQ (R129); tile. -/
  | vSumsq (p : Fin 288)
  /-- MAXR (R130); tile. -/
  | vMaxr (p : Fin 288)
  /-- ARGMAX (R130); tile. -/
  | vArgmax (p : Fin 288)
  /-- SOFTMAX (R131); tile. -/
  | vSoftmax (p : Fin 288)
  /-- RMSNORM (R132); tile. -/
  | vRmsnorm (p : Fin 288)
  /-- LAYERNORM (R132); tile. -/
  | vLayernorm (p : Fin 288)
  /-- QUANT (R133); tile. -/
  | vQuant (p : Fin 288)
  /-- COMBINE (R56); tile. -/
  | vCombine (p : Fin 288)
  /-- SAMPLE (R136); tile. -/
  | vSample (p : Fin 288)
  /-- DMA_READ (R153); tile. -/
  | dmaRead (p : Fin 288)
  /-- DMA_WRITE (R153); tile. -/
  | dmaWrite (p : Fin 288)
  /-- DMA_GATHER (R154); tile. -/
  | dmaGather (p : Fin 288)
  /-- DMA_SCATTER (R155); tile. -/
  | dmaScatter (p : Fin 288)
  /-- DMA_MULTICAST (R156); tile. -/
  | dmaMulticast (p : Fin 288)
  /-- KV_APPEND (R157); tile. -/
  | kvAppend (p : Fin 288)
  /-- PART_TIMEOUT (R158); tile. -/
  | partTimeout (p : Fin 288)
  /-- JASPER_START (R222); tile. -/
  | jasperStart (p : Fin 288)
  /-- JASPER_LOCK (R228); tile. -/
  | jasperLock (p : Fin 288)
  /-- ROWOP (R214); tile and number of the step. -/
  | jRowop (p : Fin 288) (n : Fin 1024)
  /-- LOADA (R220); tile and number of the step. -/
  | jLoada (p : Fin 288) (n : Fin 1024)
  /-- LOADE (R220); tile and number of the step. -/
  | jLoade (p : Fin 288) (n : Fin 1024)
  /-- POP (R218); tile and number of the step. -/
  | jPop (p : Fin 288) (n : Fin 1024)
  /-- BLOCK (R220); tile and number of the step. -/
  | jBlock (p : Fin 288) (n : Fin 1024)
  /-- OUT (R220); tile and number of the step. -/
  | jOut (p : Fin 288) (n : Fin 1024)
  /-- SEAL (R230); tile and number of the step. -/
  | jSeal (p : Fin 288) (n : Fin 1024)
  /-- VEC (R226); tile and number of the step. -/
  | jVec (p : Fin 288) (n : Fin 1024)
  /-- PROGRAM_END (R232); tile. -/
  | programEnd (p : Fin 288)
  /-- FLT_JASPER_TIMEOUT (R233); tile. -/
  | jasperTimeout (p : Fin 288)
  /-- SLOT_BOUNDARY (R304); tile and channel. -/
  | slotBoundary (p : Fin 288) (c : Fin 8)
  /-- REFRESH (R172); tile and channel. -/
  | refresh (p : Fin 288) (c : Fin 8)
  /-- BURST_PARITY_RESULT (R180); tile, channel, and whether the parity of the burst was right. -/
  | burstParity (p : Fin 288) (c : Fin 8) (ok : Bool)
  /-- ROW_RECOVERY (R193); tile and channel. -/
  | rowRecovery (p : Fin 288) (c : Fin 8)
  /-- ECC_STORM_PERIOD (R209); tile. -/
  | eccStormPeriod (p : Fin 288)
  /-- ROW_REMAPPED (R201); tile and channel. -/
  | rowRemapped (p : Fin 288) (c : Fin 8)
  /-- SCRUB (R198); tile and channel. -/
  | scrub (p : Fin 288) (c : Fin 8)
  /-- FIELD_LOG_APPEND (R206). -/
  | fieldLogAppend
  /-- BAND_DOWN (R171); region. -/
  | bandDown (g : Fin 16)
  /-- RD (R274); number of the message. -/
  | msgRd (m : Nat)
  /-- WR (R274); number of the message. -/
  | msgWr (m : Nat)
  /-- RDATA (R274); number of the message; whether its header word fails Whippet parity, and the sectors whose words fail it (R291). -/
  | msgRdata (m : Nat) (hdr : Bool) (bad : BitVec 64)
  /-- WACK (R274); number of the message. -/
  | msgWack (m : Nat)
  /-- NOEP (R282); number of the message. -/
  | msgNoep (m : Nat)
  /-- SPW (R285); number of the message. -/
  | msgSpw (m : Nat)
  /-- VRD (R295); number of the message. -/
  | msgVrd (m : Nat)
  /-- VWR (R295); number of the message. -/
  | msgVwr (m : Nat)
  /-- MGMT (R274); number of the message. -/
  | msgMgmt (m : Nat)
  /-- FLIT_RECEIVE (R279); directed link, and the bits the line inverts (on the link from the customer die: the flit it sends). -/
  | flitReceive (l : Fin 1794) (x : BitVec 512)
  /-- LINK_REPLAY (R280); directed link. -/
  | linkReplay (l : Fin 1794)
  /-- RETRY_TIMEOUT (R280); directed link. -/
  | retryTimeout (l : Fin 1794)
  /-- LINK_RETRAIN (R281); directed link, whether the retrain succeeds, and on the customer site the rate it reaches. -/
  | linkRetrain (l : Fin 1794) (ok : Bool) (rate : Fin 6)
  /-- MC_STALL (R286); tile of the receiver. -/
  | mcStall (p : Fin 288)
  /-- ACCOUNTING_PERIOD (R303); of the link outputs (else of the vault channels). -/
  | accountingPeriod (link : Bool)
  /-- OVER_MASK (R307); region. -/
  | overMask (g : Fin 16)
  /-- QOS_GUARANTEE_WRITE (R310); BAR0 offset and value. -/
  | qosWrite (off : Fin 67108864) (v : BitVec 64)
  /-- DATA (R322); packet received. -/
  | wctData (pk : Machine.WctPkt)
  /-- ACK (R324); packet received. -/
  | wctAck (pk : Machine.WctPkt)
  /-- NAK (R325); packet received. -/
  | wctNak (pk : Machine.WctPkt)
  /-- COLL_PACKET (R333); packet received. -/
  | collPacket (pk : Machine.WctPkt)
  /-- ACK_TIMER (R323); context. -/
  | ackTimer (x : Fin 40960)
  /-- RTO (R324); context. -/
  | wctRto (x : Fin 40960)
  /-- RNR_WAIT (R325); context. -/
  | rnrWait (x : Fin 40960)
  /-- HOLD (R325); context. -/
  | wctHold (x : Fin 40960)
  /-- CC_PERIOD (R327); context. -/
  | ccPeriod (x : Fin 40960)
  /-- RDMA_WRITE (R336); packet received. -/
  | rdmaWrite (pk : Machine.RocePkt)
  /-- RDMA_READ_REQUEST (R336); packet received. -/
  | rdmaReadRequest (pk : Machine.RocePkt)
  /-- PAUSE (R318); port, priority and quanta. -/
  | pause (i : Fin 16) (pri : Fin 8) (q : BitVec 16)
  /-- PTP_EVENT (R340); port, received (else sent), message type, sequenceId and correctionField. -/
  | ptpEvent (i : Fin 16) (rx : Bool) (ty : BitVec 4) (sq : BitVec 16) (corr : BitVec 64)
  /-- NET_LINK_DOWN (R317); port. -/
  | netLinkDown (i : Fin 16)
  /-- PORT_RETRAIN (R317); port, and whether it comes up. -/
  | portRetrain (i : Fin 16) (up : Bool)
  /-- KELPIE_CTX_LOAD (R321); context. -/
  | ctxLoad (x : Fin 40960)
  /-- KELPIE_CTX_READ (R321); context. -/
  | ctxRead (x : Fin 40960)
  /-- KELPIE_CTX_RESET (R321); context. -/
  | ctxReset (x : Fin 40960)
  /-- KQ_TAIL_WRITE (R328); work queue and value. -/
  | kqTailWrite (q : Fin 1024) (v : BitVec 16)
  /-- WRITE (R328); work queue. -/
  | wqeWrite (q : Fin 1024)
  /-- COLL (R331); work queue. -/
  | wqeColl (q : Fin 1024)
  /-- WAIT (R330); work queue. -/
  | wqeWait (q : Fin 1024)
  /-- WQE_COMPLETE (R330); work queue. -/
  | wqeComplete (q : Fin 1024)
  /-- CLEAR (R330); work queue. -/
  | kqClear (q : Fin 1024)
  /-- SYNC_ARM (R341). -/
  | syncArm
  /-- DISARM (R341). -/
  | syncDisarm
  /-- DRIVE (R341). -/
  | syncDrive
  /-- SYNC_IN_EDGE (R341). -/
  | syncInEdge
  /-- PTP_START_TIME (R341). -/
  | ptpStartTime
  /-- PTP_STEP (R339); value written. -/
  | ptpStep (v : BitVec 64)
  /-- PTP_SEC_READ (R339). -/
  | ptpSecRead
  /-- HUB_START_GO (R353). -/
  | hubStartGo
  /-- REGION_START (R354); region. -/
  | regionStart (g : Fin 16)
  /-- HUB_MODE_WRITE (R347); value written. -/
  | hubModeWrite (v : BitVec 64)
  /-- OPAL_OPEN (R357). -/
  | opalOpen
  /-- OPAL_CLOSE (R357). -/
  | opalClose
  /-- OPAL_SIGN_DONE (R358). -/
  | opalSignDone
  /-- LIVE_UPDATE (R242); entry written. -/
  | liveUpdate (v : BitVec 64)
  /-- UPD_ACK (R242). -/
  | updAck
  /-- AGATE_REBUILD (R243). -/
  | agateRebuild
  /-- AGATE_COPY_END (R243). -/
  | agateCopyEnd
  /-- AGATE_ABORT (R245). -/
  | agateAbort
  /-- AGATE_SHD_DATA_WRITE (R243); entry written. -/
  | agateShdDataWrite (v : BitVec 64)
  /-- RETARGET (R244); value written to the retarget register. -/
  | agateRetarget (v : BitVec 64)
  /-- SWEEP_END (R244). -/
  | sweepEnd
  /-- SWAP (R246); value written. -/
  | agateSwap (v : BitVec 64)
  /-- EXCHANGE (R246). -/
  | agateExchange
  /-- AGATE_SWAPPED (R246). -/
  | agateSwapped
  /-- OPEN (R253). -/
  | topazOpen
  /-- CLOSE (R253). -/
  | topazClose
  /-- READ (R253). -/
  | topazRead
  /-- TRUNCATE (R253). -/
  | topazTruncate
  /-- TOPAZ_POOL_PUSH (R255); logical tile and value. -/
  | topazPoolPush (t : Fin 288) (v : BitVec 64)
  /-- APPEND_RESOLVE (R260); tile and number of the append. -/
  | appendResolve (p : Fin 288) (a : Nat)
  /-- APPEND_DONE (R261); tile and number of the append. -/
  | appendDone (p : Fin 288) (a : Nat)
  /-- FENCE (R363); tile. -/
  | fence (p : Fin 288)
  /-- QUIESCE (R370). -/
  | quiesce
  /-- BIND (R366). -/
  | bhBind
  /-- REBUILD (R370). -/
  | bhRebuild
  /-- RELEASE (R370). -/
  | bhRelease
  /-- PARITY_BUILD (R368). -/
  | parityBuild
  /-- PARITY_VERIFY (R368). -/
  | parityVerify
  /-- REGION_BIND_WRITE (R365); region, index and value. -/
  | regionBindWrite (g : Fin 16) (k : Fin 18) (v : BitVec 64)
  /-- REGION_STANDBY_WRITE (R365); region and value. -/
  | regionStandbyWrite (g : Fin 16) (v : BitVec 64)
  /-- REGION_FAULT (R377); region and fault code. -/
  | regionFault (g : Fin 16) (code : BitVec 8)
  /-- DRAIN (R380); die. -/
  | dieDrain (d : Fin 4)
  /-- DIE_DRAINED (R380); die. -/
  | dieDrained (d : Fin 4)
  /-- DIE_RESET (R380); die, and whether the memory test is full. -/
  | dieReset (d : Fin 4) (full : Bool)
  /-- DIE_READY (R380); die, its bridges up, and what its training, self-test and memory test found. -/
  | dieReady (d : Fin 4) (up : BitVec 3) (bad : List (Nat × Nat × List Nat)) (ecc : List (Nat × Nat)) (rows : List (Nat × Nat × Nat))
  /-- CLOCK_LOSS (R378); die. -/
  | clockLoss (d : Fin 4)
  /-- DIE_LOST (R379); die and cause. -/
  | dieLost (d : Fin 4) (cause : BitVec 4)
  /-- THERMAL_SAMPLE (R389); raw reading of each of the 1,000 sensors, in 1/8 degree. -/
  | thermalSample (raw : List Int)
  /-- SENSOR_SELF_CHECK (R386); sensor, its raw reading and its raw reading with the junction swapped. -/
  | sensorSelfCheck (i : Fin 1000) (base : Int) (swapped : Int)
  /-- MODEL_STEP (R394). -/
  | modelStep
  /-- POWER_ESTIMATE (R395). -/
  | powerEstimate
  /-- RAIL_TELEMETRY (R474); VOUT_MV, IOUT and STATUS of each rail, none where the read failed. -/
  | railTelemetry (rd : List (Option (Nat × Nat × Nat)))
  /-- TRAY_REPORT (R401); report frame. -/
  | trayReport (f : BitVec 64)
  /-- DEMAND (R401). -/
  | demand
  /-- TRAY_REPORT_MISSING (R404). -/
  | trayReportMissing
  /-- HUSKY_STOP (R405). -/
  | huskyStop
  /-- STOP_COMPLETE (R405). -/
  | stopComplete
  /-- RESUME (R406). -/
  | huskyResume
  /-- POWER_ON (R409); domain. -/
  | powerOn (n : Fin 325)
  /-- POWER_OFF (R409); domain. -/
  | powerOff (n : Fin 325)
  /-- DOMAIN_ON (R409); domain. -/
  | domainOn (n : Fin 325)
  /-- SUPPLY_FAULT (R410); domain. -/
  | supplyFault (n : Fin 325)
  /-- THERMTRIP (R407). -/
  | thermtrip
  /-- COLD_RESET (R478); BOOT_MODE strap. -/
  | coldReset (strap : Fin 4)
  /-- WARM_RESET (R413); BOOT_MODE strap. -/
  | warmReset (strap : Fin 4)
  /-- PERST (R479). -/
  | perst
  /-- VERIFY (R466); bytes in BAR4. -/
  | mbxVerify (img : List Byte)
  /-- REPORT (R469). -/
  | mbxReport
  /-- REPORT_DONE (R469). -/
  | reportDone
  /-- DEBUG_INSTRUCTION (R468); whether DEBUG_EVER reads back set. -/
  | debugInstruction (burnt : Bool)
  /-- POWER_CHECK (R429); rail readings, broken sensors, and first valid tray report. -/
  | powerCheck (rails : List (Nat × Nat × Nat)) (broken : List Nat) (rep : Option (BitVec 64))
  /-- CLOCKS (R427); PLLs locked, dies de-skewed. -/
  | clocks (pll : Bool) (deskew : BitVec 4)
  /-- FUSES (R204); fuse read succeeded. -/
  | fuses (ok : Bool)
  /-- DIE_LINKS (R293); bridges up, regions with a failed Onyx link; the customer site, its rate, width and lanes repaired. -/
  | dieLinks (up : BitVec 8) (onyxBad : BitVec 16) (site : Fin 3) (rate : Fin 6) (half : Bool) (rep : Fin 32)
  /-- VAULT_TRAIN (R182); channels with failing connections. -/
  | vaultTrain (bad : List (Nat × Nat × List Nat))
  /-- ECC_SELFTEST (R208); checkers that fail. -/
  | eccSelftest (bad : List (Nat × Nat))
  /-- MEMTEST (R430); failing rows, regions below B2, whether an orderly stop ended it. -/
  | memtest (rows : List (Nat × Nat × Nat)) (low : BitVec 16) (stopped : Bool)
  /-- FLOORPLAN (R431). -/
  | floorplan
  /-- NET_TRAIN (R427); ports up. -/
  | netTrain (up : BitVec 16)
  /-- READY (R425). -/
  | seqReady
  /-- STEP_DONE (R427). -/
  | stepDone
  /-- STEP_LIMIT (R427). -/
  | stepLimit
  /-- HUB_CFG_WRITE (R421); flash program and read-back succeed. -/
  | cfgWrite (flashOk : Bool)
  /-- HUB_CFG_SWAP (R424). -/
  | cfgSwap
  /-- QUIET_POINT_TEST (R424). -/
  | quietPoint
  /-- SQ_TAIL (R439); ring, index, and the entries the host has placed in BAR4 from the old tail on. -/
  | sqTail (r : Fin 64) (v : BitVec 16) (ents : List (BitVec 512))
  /-- CQ_HEAD (R439); ring and index. -/
  | cqHead (r : Fin 64) (v : BitVec 16)
  /-- EVENT_HEAD (R439); index. -/
  | eventHead (v : BitVec 16)
  /-- HOST_NOP (R442); ring. -/
  | hostNop (r : Fin 64)
  /-- PLAN_LOAD (R445); ring. -/
  | planLoad (r : Fin 64)
  /-- PLAN_UNLOAD (R445); ring. -/
  | planUnload (r : Fin 64)
  /-- PLAN_RUN (R446); ring. -/
  | planRun (r : Fin 64)
  /-- PLAN_RUN_DONE (R446); ring. -/
  | planRunDone (r : Fin 64)
  /-- ABORT (R448); ring. -/
  | hostAbort (r : Fin 64)
  /-- HOST_COPY (R442); ring, bytes read from host memory, and whether the host bus answered. -/
  | hostCopy (r : Fin 64) (data : List Byte) (ok : Bool)
  /-- FW_UPDATE (R465); ring, and whether the program and read-back succeed. -/
  | fwUpdate (r : Fin 64) (ok : Bool)
  /-- HOST_RING_ENABLE (R438); ring and value written. -/
  | ringEnable (r : Fin 64) (v : BitVec 64)
  /-- HOST_EVT_ENABLE (R438); value written. -/
  | evtEnable (v : BitVec 64)
  /-- NEG_GO (R441). -/
  | negGo
  /-- COALESCE_TIMER (R440); ring, 64 for the event ring. -/
  | coalesceTimer (r : Fin 65)
  /-- BAR2_READ (R435); offset and bytes. -/
  | bar2Read (o : BitVec 36) (n : Fin 4097)
  /-- BAR2_WRITE (R435); offset, bytes and EP. -/
  | bar2Write (o : BitVec 36) (data : List Byte) (ep : Bool)
  /-- PCIE_LINK_DOWN (R436); Bus Master Enable clears (else the link goes down). -/
  | pcieLinkDown (bmeOnly : Bool)
  /-- TRAP (R452); compartment. -/
  | trap (k : Fin 5)
  /-- CHECK_IN_TIMEOUT (R452); compartment. -/
  | checkInTimeout (k : Fin 5)
  /-- FW_RESTART (R454); compartment. -/
  | fwRestart (k : Fin 5)
  /-- COUNTER_CLEAR (R455); BAR0 offset. -/
  | counterClear (off : Nat)
  /-- COUNTER_LOW_READ (R456); requester and BAR0 offset. -/
  | counterLowRead (rq : Fin 5) (off : Nat)
  /-- REGISTER_WRITE (R15); BAR0 offset, a 32-bit access, and the value. -/
  | registerWrite (off : Nat) (half : Bool) (v : BitVec 64)
  /-- RETX_GAP (R324); context. -/
  | retxGap (x : Fin 40960)
  /-- PAUSE_END (R318); port and priority. -/
  | pauseEnd (i : Fin 16) (pri : Fin 8)
  /-- SYNC_OUT_PULSE_END (R341). -/
  | syncOutPulseEnd
  /-- RESET_N_ASSERTED (R478). -/
  | resetAsserted
  /-- MANAGEMENT_RAIL_REMOVED (R481). -/
  | mgmtRailRemoved
  /-- PCIE_LINK_UP (R436). -/
  | pcieLinkUp
  /-- MASTIFF_FAULT (R454). -/
  | mastiffFault
  deriving DecidableEq, Repr

end Sys2Proof
end

