-- ==== Sys2Proof/Machine/Bits.lean ====
section
/-! DEFINITION. Bit fields, sign extension, little-endian byte lists (R14), sparse maps and the byte memory in its canonical form. -/

namespace Sys2Proof.Machine

/-- Bits [lo + w - 1 : lo] of a number. [00_scope.md R10] -/
def bitsOf (x lo w : Nat) : Nat := x / 2 ^ lo % 2 ^ w

/-- `x` with bits [lo + w - 1 : lo] replaced by the low `w` bits of `v`. [00_scope.md R10] -/
def setBits (x lo w v : Nat) : Nat :=
  x / 2 ^ (lo + w) * 2 ^ (lo + w) + v % 2 ^ w * 2 ^ lo + x % 2 ^ lo

/-- Bit `i` of a number. -/
def bitOf (x i : Nat) : Bool := x / 2 ^ i % 2 = 1

/-- The two's complement integer that the low `w` bits of `n` spell. -/
def sext (w n : Nat) : Int :=
  if n % 2 ^ w < 2 ^ (w - 1) then (n % 2 ^ w : Nat) else (n % 2 ^ w : Nat) - (2 ^ w : Nat)

/-- The low `w` bits of the two's complement form of `i`. -/
def ofInt (w : Nat) (i : Int) : Nat := (i % (2 ^ w : Nat)).toNat

/-- 1 for true and 0 for false: a flag as a one-bit field. -/
def flag (b : Bool) : Nat := if b then 1 else 0

/-- The number that a little-endian byte list spells. [00_scope.md R14] -/
def leNat : List Byte → Nat
  | [] => 0
  | b :: bs => b.toNat + 256 * leNat bs

/-- The low `n` bytes of a number, little-endian. [00_scope.md R14] -/
def leBytes : Nat → Nat → List Byte
  | 0, _ => []
  | n + 1, x => BitVec.ofNat 8 x :: leBytes n (x / 256)

/-- Number of one bits among the low `w` bits of `n`. -/
def popcount : Nat → Nat → Nat
  | 0, _ => 0
  | w + 1, n => n % 2 + popcount w (n / 2)

/-- 1 when an odd number of the low `w` bits of `n` are 1. -/
def parityOf (w n : Nat) : Nat := popcount w n % 2

/-- The list cut into pieces of `n` elements; the last may be shorter. -/
def chunks {α : Type} (n : Nat) : Nat → List α → List (List α)
  | 0, _ => []
  | k + 1, l => if l.isEmpty then [] else l.take n :: chunks n k (l.drop n)

/-- Smallest element of a list that satisfies `f`, where the list is rising. -/
def firstSat (f : Nat → Bool) (l : List Nat) : Option Nat := l.find? f

/-! ### Sparse maps -/

/-- A finite map on numbers: pairs with strictly rising keys. -/
abbrev SMap (α : Type) := List (Nat × α)

/-- The value held at `k`, if any. -/
def smFind {α : Type} : SMap α → Nat → Option α
  | [], _ => none
  | (a, v) :: m, k => if a = k then some v else if k < a then none else smFind m k

/-- The value at `k`, or `d`. -/
def smGet {α : Type} (m : SMap α) (k : Nat) (d : α) : α := (smFind m k).getD d

/-- `m` with `v` at `k`. -/
def smSet {α : Type} : SMap α → Nat → α → SMap α
  | [], k, v => [(k, v)]
  | (a, w) :: m, k, v =>
    if k < a then (k, v) :: (a, w) :: m
    else if k = a then (k, v) :: m
    else (a, w) :: smSet m k v

/-- `m` with nothing at `k`. -/
def smDel {α : Type} : SMap α → Nat → SMap α
  | [], _ => []
  | (a, w) :: m, k => if k < a then (a, w) :: m else if k = a then m else (a, w) :: smDel m k

/-- `m` with nothing at the `n` keys from `k` on. -/
def smDelRange {α : Type} (m : SMap α) (k n : Nat) : SMap α :=
  m.filter fun x => x.1 < k || k + n ≤ x.1

/-- Every key is at least `lo` and above the one before it. -/
def smSortedFrom {α : Type} : Nat → SMap α → Bool
  | _, [] => true
  | lo, (a, _) :: m => decide (lo ≤ a) && smSortedFrom (a + 1) m

/-- The keys of a sparse map rise strictly. -/
def smSorted {α : Type} (m : SMap α) : Bool := smSortedFrom 0 m

/-! ### Byte memory -/

/-- A memory of bytes: (address, byte) pairs, addresses strictly rising, no byte equal to the 0 that an
unlisted address reads as (log 2). -/
abbrev Memory := List Host.Cell

/-- What an address that nothing has written reads as: DESIGN CHOICE 0 (log 2). -/
def emptyByte : Byte := 0

/-- The byte at an address. -/
def memGet (m : Memory) (a : Nat) : Byte := smGet m a emptyByte

/-- `m` with byte `b` at address `a`, in canonical form. -/
def memSet (m : Memory) (a : Nat) (b : Byte) : Memory :=
  if b = emptyByte then smDel m a else smSet m a b

/-- `n` bytes from address `a` on. -/
def memRead (m : Memory) (a : Nat) : Nat → List Byte
  | 0 => []
  | n + 1 => memGet m a :: memRead m (a + 1) n

/-- `m` with the bytes stored from address `a` on. -/
def memWrite (m : Memory) (a : Nat) : List Byte → Memory
  | [] => m
  | b :: bs => memWrite (memSet m a b) (a + 1) bs

/-- Every address is at least `lo` and above the one before it, and no listed byte is the empty byte. -/
def memWfFrom : Nat → Memory → Bool
  | _, [] => true
  | lo, (a, b) :: m => decide (lo ≤ a) && decide (b ≠ emptyByte) && memWfFrom (a + 1) m

/-- The canonical form: addresses strictly rising, no listed byte equal to what an unlisted address reads as. -/
def Memory.wf (m : Memory) : Bool := memWfFrom 0 m

/-- `m` with every byte of the `n` addresses from `a` on lost: they read as the empty byte again. -/
def memLose (m : Memory) (a n : Nat) : Memory := smDelRange m a n

/-! ### Lists used as queues -/

/-- `l` with element `i` replaced by `f` of it. -/
def listModify {α : Type} (f : α → α) : Nat → List α → List α
  | _, [] => []
  | 0, x :: xs => f x :: xs
  | i + 1, x :: xs => x :: listModify f i xs

/-- `l` with `f` applied to the elements that `p` selects. -/
def mapIf {α : Type} (p : α → Bool) (f : α → α) (l : List α) : List α :=
  l.map fun x => if p x then f x else x

/-- The sum of the list. -/
def sumNat (l : List Nat) : Nat := l.foldl (· + ·) 0

end Sys2Proof.Machine
end

