-- ==== Sys2Proof/Machine/Codes.lean ====
section
/-! DEFINITION. The codes of the device: the light code (R189, R190), the page code (R191), the CRC-32 of flits
and packets (R273) and SHA3-512 (R204, R356). -/

namespace Sys2Proof.Machine

/-! ### Light code -/

/-- The byte values with exactly `n` bits set, ascending. -/
def bytesOfWeight (n : Nat) : List Nat := (List.range 256).filter fun x => popcount 8 x = n

/-- Columns h_0 to h_63. [08_ecc_repair.md R189] -/
def lightCols : List Nat := bytesOfWeight 3 ++ [0x1F, 0x2F, 0x37, 0x3B, 0x3D, 0x3E, 0x4F, 0x57]

/-- XOR of the columns of the set bits of `x`. -/
def xorCols : List Nat → Nat → Nat
  | [], _ => 0
  | h :: hs, x => Nat.xor (if x % 2 = 1 then h else 0) (xorCols hs (x / 2))

/-- The check byte of a 64-bit word. [08_ecc_repair.md R189] -/
def lightCheck (x : Nat) : Nat := xorCols lightCols x

/-- What the light code makes of a word. -/
inductive LightOut where
  | clean
  | corrected (data : Nat)
  | bad
  deriving DecidableEq, Repr

/-- Decoding of a word with its stored check byte. [08_ecc_repair.md R190] -/
def lightDecode (x chk : Nat) : LightOut :=
  let syn := Nat.xor (lightCheck x) chk
  if syn = 0 then .clean
  else if lightCols.contains syn then .corrected (Nat.xor x (2 ^ lightCols.findIdx (fun h => h = syn)))
  else if popcount 8 syn = 1 then .corrected x
  else .bad

/-! ### Page code -/

/-- Product in GF(2^8) with x^8 + x^4 + x^3 + x^2 + 1, over `n` bits of `b`. [08_ecc_repair.md R191] -/
def gfMulBits : Nat → Nat → Nat → Nat
  | 0, _, _ => 0
  | n + 1, a, b =>
    let a2 := 2 * a
    Nat.xor (if b % 2 = 1 then a else 0)
      (gfMulBits n (if 256 ≤ a2 then Nat.xor a2 0x11D else a2) (b / 2))

/-- Product in GF(2^8). [08_ecc_repair.md R191] -/
def gfMul (a b : Nat) : Nat := gfMulBits 8 a b

/-- a^n in GF(2^8). -/
def gfPow (a : Nat) : Nat → Nat
  | 0 => 1
  | n + 1 => gfMul a (gfPow a n)

/-- Inverse in GF(2^8): a^254. -/
def gfInv (a : Nat) : Nat :=
  let a2 := gfMul a a
  let a4 := gfMul a2 a2
  let a8 := gfMul a4 a4
  let a16 := gfMul a8 a8
  let a32 := gfMul a16 a16
  let a64 := gfMul a32 a32
  let a128 := gfMul a64 a64
  gfMul a128 (gfMul a64 (gfMul a32 (gfMul a16 (gfMul a8 (gfMul a4 a2)))))

/-- Value of a polynomial (lowest coefficient first) at `x`. -/
def gfEval (x : Nat) : List Nat → Nat
  | [] => 0
  | c :: cs => Nat.xor c (gfMul x (gfEval x cs))

/-- Sum of two polynomials. -/
def gfAdd : List Nat → List Nat → List Nat
  | [], b => b
  | a, [] => a
  | a :: as, b :: bs => Nat.xor a b :: gfAdd as bs

/-- Product of two polynomials. -/
def gfPolyMul : List Nat → List Nat → List Nat
  | [], _ => []
  | a :: as, b => gfAdd (b.map (gfMul a)) (0 :: gfPolyMul as b)

/-- g(x) = (x + α^0) … (x + α^7), lowest coefficient first. [08_ecc_repair.md R191] -/
def rsGen : List Nat := (List.range 8).foldl (fun g i => gfPolyMul [gfPow 2 i, 1] g) [1]

/-- One division step: remainder `r` (8 symbols, lowest first) after the next message symbol. -/
def rsStep (r : List Nat) (m : Nat) : List Nat :=
  let f := Nat.xor m (r.getD 7 0)
  gfAdd (0 :: r.take 7) ((rsGen.take 8).map (gfMul f))

/-- The check symbols p_0 to p_7 of message symbols m_0 to m_127. [08_ecc_repair.md R191] -/
def rsCheck (msg : List Nat) : List Nat := msg.foldl rsStep (List.replicate 8 0)

/-- Syndromes at α^0 to α^7 of a codeword given lowest coefficient first. -/
def rsSyndromes (cw : List Nat) : List Nat := (List.range 8).map fun i => gfEval (gfPow 2 i) cw

/-- State of the Berlekamp–Massey iteration. -/
structure BM where
  c : List Nat
  b : List Nat
  l : Nat
  m : Nat
  bb : Nat
  deriving DecidableEq, Repr

/-- One Berlekamp–Massey iteration for syndrome `n`. -/
def bmStep (syn : List Nat) (st : BM) (n : Nat) : BM :=
  let d := (List.range (st.l + 1)).foldl (fun a i => Nat.xor a (gfMul (st.c.getD i 0) (syn.getD (n - i) 0))) 0
  if d = 0 then { st with m := st.m + 1 }
  else
    let k := gfMul d (gfInv st.bb)
    let c' := gfAdd st.c (List.replicate st.m 0 ++ st.b.map (gfMul k))
    if 2 * st.l ≤ n then ⟨c', st.c, n + 1 - st.l, 1, d⟩ else { st with c := c', m := st.m + 1 }

/-- The odd-power terms of a polynomial: its derivative in characteristic 2. -/
def gfDeriv (p : List Nat) : List Nat := (p.drop 1).zipIdx.map fun x => if x.2 % 2 = 0 then x.1 else 0

/-- The codeword (136 symbols, lowest coefficient first) decoded to the codeword within four symbol errors,
or none. [08_ecc_repair.md R191] -/
def rsDecode (cw : List Nat) : Option (List Nat) :=
  let syn := rsSyndromes cw
  if syn.all (fun x => x = 0) then some cw
  else
    let st := (List.range 8).foldl (bmStep syn) ⟨[1], [1], 0, 1, 1⟩
    let loc := st.c
    if 4 < st.l then none
    else
      let omega := (gfPolyMul syn loc).take 8
      let pos := (List.range 136).filter fun j => gfEval (gfInv (gfPow 2 j)) loc = 0
      if pos.length ≠ st.l then none
      else
        let der := gfDeriv loc
        let fixd := cw.zipIdx.map fun x =>
          if pos.contains x.2 then
            let xi := gfInv (gfPow 2 x.2)
            Nat.xor x.1 (gfMul (gfPow 2 x.2) (gfMul (gfEval xi omega) (gfInv (gfEval xi der))))
          else x.1
        if (rsSyndromes fixd).all (fun x => x = 0) then some fixd else none

/-- Message symbols of codeword `k` of a row. [08_ecc_repair.md R191] -/
def pageMsg (k : Nat) (row : List Nat) : List Nat :=
  (row.zipIdx.filter fun x => x.2 % 16 = k).map Prod.fst

/-- The 128 page-code bytes of a row of 2,048 bytes. [08_ecc_repair.md R191] -/
def pageCode (row : List Nat) : List Nat := (List.range 16).flatMap fun k => rsCheck (pageMsg k row)

/-- The row restored by all 16 codewords, or none when one fails. [08_ecc_repair.md R191, R193] -/
def pageDecode (row code : List Nat) : Option (List Nat) :=
  let cws := (List.range 16).map fun k =>
    rsDecode (((code.drop (8 * k)).take 8) ++ (pageMsg k row).reverse)
  if cws.all Option.isSome then
    let msgs := cws.map fun c => ((c.getD []).drop 8).reverse
    some ((List.range 128).flatMap fun j => msgs.map fun m => m.getD j 0)
  else none

/-! ### CRC-32 -/

/-- `n` bit steps of the reflected CRC. -/
def crcBits : Nat → Nat → Nat
  | 0, c => c
  | n + 1, c => crcBits n (if c % 2 = 1 then Nat.xor (c / 2) 0xEDB88320 else c / 2)

/-- The CRC-32 of the IEEE 802.3 frame check sequence. [11_fabric.md R273] -/
def crc32 (bs : List Byte) : Nat :=
  Nat.xor (bs.foldl (fun c b => crcBits 8 (Nat.xor c b.toNat)) 0xFFFFFFFF) 0xFFFFFFFF

/-! ### SHA3-512

FIPS 202 gives the round constants and the rotation offsets by rules; the model computes them by those rules. A
state is five planes of five 64-bit lanes, plane y holding the lanes (0, y) to (4, y). -/

/-- A lane turned `n` places towards its top bit, `n` below 64. -/
def turnLane (n lane : Nat) : Nat :=
  let wide := lane <<< n
  wide % 2 ^ 64 ||| wide >>> 64

/-- The feedback register of FIPS 202's rc(t), seven places on, beside the iota word its bits gave: the bit of place
j goes to bit 2^j − 1. -/
def iotaWord : Nat → Nat → Nat → Nat → Nat × Nat
  | 0, _, reg, word => (reg, word)
  | left + 1, j, reg, word =>
    let moved := 2 * reg
    let next := if 256 ≤ moved then Nat.xor moved 0x171 else moved
    iotaWord left (j + 1) next (word + (reg % 2) <<< (2 ^ j - 1))

/-- The iota words of `n` rounds from feedback register `reg`. -/
def iotaWords : Nat → Nat → List Nat
  | 0, _ => []
  | n + 1, reg =>
    let x := iotaWord 7 0 reg 0
    x.2 :: iotaWords n x.1

/-- The rho walk: `n` steps from lane (x, y), whose offset is the `t`-th triangular number, to (y, 2x + 3y), which is
also where pi puts the lane. Each entry is the lane, its offset and its place after pi. -/
def rhoWalk : Nat → Nat → Nat → Nat → List ((Nat × Nat) × Nat × Nat × Nat)
  | 0, _, _, _ => []
  | n + 1, t, x, y =>
    let z := (2 * x + 3 * y) % 5
    ((x, y), t * (t + 1) / 2 % 64, y, z) :: rhoWalk n (t + 1) y z

/-- Theta: each lane takes the parities of the column before it and of the turned column after it. -/
def thetaPlanes (planes : List (List Nat)) : List (List Nat) :=
  let par := planes.foldl (List.zipWith Nat.xor) [0, 0, 0, 0, 0]
  let mix := List.zipWith (fun before after => Nat.xor before (turnLane 1 after)) (par.rotateLeft 4) (par.rotateLeft 1)
  planes.map (List.zipWith Nat.xor mix)

/-- Rho and pi together: each lane of the walk turned and put in its place; lane (0, 0) stays. -/
def rhoPi (walk : List ((Nat × Nat) × Nat × Nat × Nat)) (planes : List (List Nat)) : List (List Nat) :=
  walk.foldl (fun out w =>
    let lane := (planes.getD w.1.2 []).getD w.1.1 0
    out.modify w.2.2.2 fun plane => plane.set w.2.2.1 (turnLane w.2.1 lane)) planes

/-- Chi on one plane: a lane is complemented where the next is 0 and the one after it is 1. -/
def chiPlane (plane : List Nat) : List Nat :=
  List.zipWith Nat.xor plane
    (List.zipWith (fun next after => after - (next &&& after)) (plane.rotateLeft 1) (plane.rotateLeft 2))

/-- The permutation of FIPS 202 on 1,600 bits: 24 rounds of theta, rho and pi, chi, iota. [14_determinism.md R356] -/
def permute1600 (planes : List (List Nat)) : List (List Nat) :=
  let walk := rhoWalk 24 1 1 0
  (iotaWords 24 1).foldl (fun a word =>
    ((rhoPi walk (thetaPlanes a)).map chiPlane).modify 0 fun plane => plane.modify 0 (Nat.xor word)) planes

/-- A rate block of 72 bytes added to the state: lanes (0, 0) to (3, 1). -/
def absorbBlock (planes : List (List Nat)) (block : List Byte) : List (List Nat) :=
  let lanes := ((chunks 8 9 block).map leNat) ++ List.replicate 16 0
  permute1600 (List.zipWith (List.zipWith Nat.xor) planes (chunks 5 5 lanes))

/-- A message with the suffix 01 of SHA3 and the padding 10*1, in whole rate blocks of 72 bytes. -/
def sha3Pad (msg : List Byte) : List Byte :=
  match 71 - msg.length % 72 with
  | 0 => msg ++ [0x86#8]
  | zeros + 1 => msg ++ (0x06#8 :: List.replicate zeros 0#8) ++ [0x80#8]

/-- SHA3-512 of a message: 64 bytes. [14_determinism.md R356 (FIPS 202)] -/
def sha3_512 (msg : List Byte) : List Byte :=
  let padded := sha3Pad msg
  let last := (chunks 72 (padded.length / 72) padded).foldl absorbBlock (List.replicate 5 (List.replicate 5 0))
  (last.flatten.take 8).flatMap fun lane => leBytes 8 lane

end Sys2Proof.Machine
end

