-- ==== Sys2Proof/Machine/MlDsa.lean ====
section
/-! DEFINITION. ML-DSA-87 as FIPS 204 defines it, which R358, R462, R463 and R464 name: key generation, deterministic signing and
verification, over SHAKE128 and SHAKE256 of FIPS 202. A polynomial is the list of its 256 coefficients modulo q, lowest degree
first. [14_determinism.md R358; 19_security.md R462, R463, R464] -/

namespace Sys2Proof.Machine.MlDsa

/-! ### SHAKE (FIPS 202) -/

/-- A message with the suffix 1111 of SHAKE and the padding 10*1, in whole blocks of `rate` bytes. -/
def shakePad (rate : Nat) (msg : List Byte) : List Byte :=
  match rate - 1 - msg.length % rate with
  | 0 => msg ++ [0x9F#8]
  | zeros + 1 => msg ++ (0x1F#8 :: List.replicate zeros 0#8) ++ [0x80#8]

/-- A block of `rate` bytes added to the state. -/
def absorb (rate : Nat) (planes : List (List Nat)) (block : List Byte) : List (List Nat) :=
  let lanes := (chunks 8 (rate / 8) block).map leNat ++ List.replicate (25 - rate / 8) 0
  permute1600 (List.zipWith (List.zipWith Nat.xor) planes (chunks 5 5 lanes))

/-- `n` blocks of `rate` bytes taken from the state. -/
def squeeze (rate : Nat) : Nat → List (List Nat) → List Byte
  | 0, _ => []
  | n + 1, planes => (planes.flatten.take (rate / 8)).flatMap (leBytes 8) ++ squeeze rate n (permute1600 planes)

/-- The first `n` bytes of SHAKE with a rate of `rate` bytes. -/
def shake (rate : Nat) (msg : List Byte) (n : Nat) : List Byte :=
  let padded := shakePad rate msg
  let last := (chunks rate (padded.length / rate) padded).foldl (absorb rate) (List.replicate 5 (List.replicate 5 0))
  (squeeze rate ((n + rate - 1) / rate) last).take n

/-- H of FIPS 204: SHAKE256. -/
def hash (msg : List Byte) (n : Nat) : List Byte := shake 136 msg n

/-! ### Numbers modulo q -/

/-- The modulus. -/
def q : Nat := 8380417

/-- γ1. -/
def gamma1 : Nat := 2 ^ 19

/-- γ2 = (q − 1) / 32. -/
def gamma2 : Nat := 261888

/-- A residue as the number of least absolute value, the positive one of two (mod±). -/
def centred (a x : Nat) : Int := if x % a ≤ a / 2 then (x % a : Nat) else ((x % a : Nat) : Int) - a

/-- A whole number modulo q. -/
def toQ (x : Int) : Nat := (x % (q : Int)).toNat

/-- A power modulo q. -/
def powQ (a : Nat) : Nat → Nat
  | 0 => 1
  | n + 1 => powQ a n * a % q

/-- Two polynomials added. -/
def addP (a b : List Nat) : List Nat := a.zipWith (fun x y => (x + y) % q) b

/-- One polynomial less another. -/
def subP (a b : List Nat) : List Nat := a.zipWith (fun x y => (x + q - y) % q) b

/-- Two transforms multiplied. -/
def mulT (a b : List Nat) : List Nat := a.zipWith (fun x y => x * y % q) b

/-- The greatest absolute value of the coefficients (‖·‖∞). -/
def normP (a : List Nat) : Nat := a.foldl (fun m x => max m (centred q x).natAbs) 0

/-- The greatest absolute value over a vector. -/
def normV (v : List (List Nat)) : Nat := v.foldl (fun m a => max m (normP a)) 0

/-! ### The transform -/

/-- Eight bits in reverse order (BitRev8). -/
def rev8 (i : Nat) : Nat := (List.range 8).foldl (fun a j => a * 2 + i / 2 ^ j % 2) 0

/-- The powers of ζ = 1753, a 512th root of unity, from ζ^0 to ζ^511. -/
def zetas : List Nat := ((List.range 511).foldl (fun (x : Nat × List Nat) _ => let z := x.1 * 1753 % q; (z, z :: x.2)) (1, [1])).2.reverse

/-- The value of a polynomial at a point. -/
def evalP (a : List Nat) (x : Nat) : Nat := a.foldr (fun c y => (y * x + c) % q) 0

/-- NTT: the values at ζ^(2·BitRev8(i) + 1). (FIPS 204 Algorithm 41) -/
def ntt (a : List Nat) : List Nat :=
  let zs := zetas
  (List.range 256).map fun i => evalP a (zs.getD (2 * rev8 i + 1) 0)

/-- The inverse transform: 256⁻¹ times the values at the inverse roots. (FIPS 204 Algorithm 42) -/
def intt (t : List Nat) : List Nat :=
  let zs := zetas
  let u := (List.range 256).map fun e => t.getD (rev8 e) 0
  (List.range 256).map fun j =>
    let x := zs.getD ((512 - 2 * j) % 512) 0
    evalP u x * zs.getD ((512 - j) % 512) 0 % q * 8347681 % q

/-! ### Packing -/

/-- Numbers of `w` bits each, one after the other, as bytes. (FIPS 204 Algorithm 16) -/
def packBits (w : Nat) (l : List Nat) : List Byte :=
  leBytes (w * l.length / 8) (l.foldr (fun x a => a * 2 ^ w + x % 2 ^ w) 0)

/-- The `n` numbers of `w` bits each that bytes spell. (FIPS 204 Algorithm 18) -/
def unpackBits (w n : Nat) (bs : List Byte) : List Nat :=
  let x := leNat bs
  (List.range n).map fun i => x / 2 ^ (w * i) % 2 ^ w

/-- Coefficients at most `b`, packed as b less each. (FIPS 204 Algorithm 17) -/
def packFrom (b w : Nat) (a : List Nat) : List Byte := packBits w (a.map fun x => ((b : Int) - centred q x).toNat)

/-- The polynomial packed as b less each coefficient. (FIPS 204 Algorithm 19) -/
def unpackFrom (b w : Nat) (bs : List Byte) : List Nat := (unpackBits w 256 bs).map fun (x : Nat) => toQ ((b : Int) - (x : Int))

/-- The positions of the hints. (FIPS 204 Algorithm 20) -/
def packHint (h : List (List Bool)) : List Byte :=
  let at_ := h.map fun v => v.zipIdx.filterMap fun x => if x.1 then some x.2 else none
  let ones := at_.flatten
  let ends := (List.range 8).map fun i => (at_.take (i + 1)).flatten.length
  ((ones ++ List.replicate (75 - ones.length) 0) ++ ends).map fun x => BitVec.ofNat 8 x

/-- A list of positions rises. -/
def rises : List Nat → Bool
  | a :: b :: l => decide (a < b) && rises (b :: l)
  | _ => true

/-- The hints that 83 bytes spell, none where they are malformed. (FIPS 204 Algorithm 21) -/
def unpackHint (bs : List Byte) : Option (List (List Bool)) :=
  let ns := bs.map BitVec.toNat
  let ends := 0 :: ns.drop 75
  let parts := (List.range 8).map fun i => ((ns.take 75).take (ends.getD (i + 1) 0)).drop (ends.getD i 0)
  let ordered := (List.range 8).all fun i => decide (ends.getD i 0 ≤ ends.getD (i + 1) 0) && decide (ends.getD (i + 1) 0 ≤ 75)
  if ordered && parts.all rises && ((ns.take 75).drop (ends.getD 8 0)).all fun x => x = 0 then
    some (parts.map fun l => (List.range 256).map fun j => l.contains j)
  else none

/-! ### Sampling -/

/-- A polynomial of the matrix, as a transform: 3 bytes to a candidate, those below q in order. (FIPS 204 Algorithms 14, 30) -/
def rejNtt (seed : List Byte) : List Nat :=
  let cs := (chunks 3 1024 (shake 168 seed 3072)).map fun b => leNat b % 2 ^ 23
  (cs.filter fun z => decide (z < q)).take 256

/-- A polynomial with coefficients from −2 to 2. (FIPS 204 Algorithms 15, 31) -/
def rejBounded (seed : List Byte) : List Nat :=
  let hs := (hash seed 1024).flatMap fun b => [b.toNat % 16, b.toNat / 16]
  ((hs.filter fun b => decide (b < 15)).take 256).map fun b => toQ (2 - (b % 5 : Nat))

/-- The matrix, eight rows of seven transforms. (FIPS 204 Algorithm 32) -/
def expandA (rho : List Byte) : List (List (List Nat)) :=
  (List.range 8).map fun r => (List.range 7).map fun s => rejNtt (rho ++ [BitVec.ofNat 8 s, BitVec.ofNat 8 r])

/-- The secret vectors, seven polynomials and eight. (FIPS 204 Algorithm 33) -/
def expandS (rho : List Byte) : List (List Nat) × List (List Nat) :=
  let one := fun r => rejBounded (rho ++ leBytes 2 r)
  ((List.range 7).map one, (List.range 8).map fun r => one (r + 7))

/-- The mask of an attempt. (FIPS 204 Algorithm 34) -/
def expandMask (rho : List Byte) (kappa : Nat) : List (List Nat) :=
  (List.range 7).map fun r => unpackFrom gamma1 20 (hash (rho ++ leBytes 2 (kappa + r)) 640)

/-- The places and signs of the challenge, from the bytes after the first eight. (FIPS 204 Algorithm 29) -/
def ballSteps (signs : Nat) : List Nat → List Byte → List Nat → List Nat
  | [], _, c => c
  | i :: is, bs, c =>
    let rest := bs.dropWhile fun b => decide (i < b.toNat)
    let j := (rest.headD 0).toNat
    let c := (c.set i (c.getD j 0)).set j (if signs / 2 ^ (i - 196) % 2 = 1 then q - 1 else 1)
    ballSteps signs is (rest.drop 1) c

/-- The challenge: 60 coefficients of 1 or −1. (FIPS 204 Algorithm 29) -/
def inBall (seed : List Byte) : List Nat :=
  let bs := hash seed 1032
  ballSteps (leNat (bs.take 8)) ((List.range 60).map fun i => 196 + i) (bs.drop 8) (List.replicate 256 0)

/-! ### High and low bits -/

/-- The high part and the low part of a key coefficient. (FIPS 204 Algorithm 35) -/
def power2Round (r : Nat) : Nat × Int :=
  let r0 := centred (2 ^ 13) r
  (((r : Int) - r0).toNat / 2 ^ 13, r0)

/-- The high part and the low part of a coefficient. (FIPS 204 Algorithm 36) -/
def decompose (r : Nat) : Nat × Int :=
  let r0 := centred (2 * gamma2) r
  if (r : Int) - r0 = q - 1 then (0, r0 - 1) else (((r : Int) - r0).toNat / (2 * gamma2), r0)

/-- HighBits of a vector. (FIPS 204 Algorithm 37) -/
def highV (v : List (List Nat)) : List (List Nat) := v.map fun a => a.map fun x => (decompose x).1

/-- LowBits of a vector, modulo q. (FIPS 204 Algorithm 38) -/
def lowV (v : List (List Nat)) : List (List Nat) := v.map fun a => a.map fun x => toQ (decompose x).2

/-- The hints by which adding `z` to `r` changes the high part. (FIPS 204 Algorithm 39) -/
def makeHint (z r : List (List Nat)) : List (List Bool) :=
  z.zipWith (fun a b => a.zipWith (fun x y => decide ((decompose y).1 ≠ (decompose ((x + y) % q)).1)) b) r

/-- The high part that a hint gives. (FIPS 204 Algorithm 40) -/
def useHint (h : Bool) (r : Nat) : Nat :=
  let x := decompose r
  if h then (if 0 < x.2 then (x.1 + 1) % 16 else (x.1 + 15) % 16) else x.1

/-- The high parts as bytes. (FIPS 204 Algorithm 28) -/
def w1Encode (v : List (List Nat)) : List Byte := v.flatMap (packBits 4)

/-! ### Vectors -/

/-- The matrix times a vector of transforms. (FIPS 204 Algorithm 48) -/
def matMul (a : List (List (List Nat))) (v : List (List Nat)) : List (List Nat) :=
  a.map fun row => (row.zipWith mulT v).foldl addP (List.replicate 256 0)

/-- A transform times each of a vector of transforms, as polynomials. -/
def scaleV (c : List Nat) (v : List (List Nat)) : List (List Nat) := v.map fun a => intt (mulT c a)

/-- Two vectors added. -/
def addV (a b : List (List Nat)) : List (List Nat) := a.zipWith addP b

/-- One vector less another. -/
def subV (a b : List (List Nat)) : List (List Nat) := a.zipWith subP b

/-! ### Keys -/

/-- KeyGen_internal: the public key of 2,592 bytes and the private key of 4,896. (FIPS 204 Algorithms 6, 22, 24)
[19_security.md R462] -/
@[irreducible] def keyGen (seed : List Byte) : List Byte × List Byte :=
  let x := hash (seed ++ [8#8, 7#8]) 128
  let rho := x.take 32
  let s := expandS ((x.drop 32).take 64)
  let t := addV ((matMul (expandA rho) (s.1.map ntt)).map intt) s.2
  let t1 := t.map fun a => a.map fun c => (power2Round c).1
  let t0 := t.map fun a => a.map fun c => toQ (power2Round c).2
  let pk := rho ++ t1.flatMap (packBits 10)
  (pk, rho ++ x.drop 96 ++ hash pk 64 ++ s.1.flatMap (packFrom 2 3) ++ s.2.flatMap (packFrom 2 3) ++ t0.flatMap (packFrom 4096 13))

/-- Pieces of `n` bytes each, `k` of them. -/
def pieces (n k : Nat) (bs : List Byte) : List (List Byte) := chunks n k (bs.take (n * k))

/-- A message with its context, as ML-DSA.Sign and ML-DSA.Verify pass it on. (FIPS 204 Algorithms 2, 3) -/
def framed (ctx msg : List Byte) : List Byte := [0#8, BitVec.ofNat 8 ctx.length] ++ ctx ++ msg

/-! ### Signing -/

/-- What the attempts of one signature share. -/
structure SignKey where
  mat : List (List (List Nat))
  s1 : List (List Nat)
  s2 : List (List Nat)
  t0 : List (List Nat)
  mu : List Byte
  rho : List Byte
  deriving DecidableEq, Repr

/-- One attempt: the signature, or none where it is rejected. (FIPS 204 Algorithms 7, 26) -/
def attempt (k : SignKey) (kappa : Nat) : Option (List Byte) :=
  let y := expandMask k.rho kappa
  let w := (matMul k.mat (y.map ntt)).map intt
  let ch := hash (k.mu ++ w1Encode (highV w)) 64
  let c := ntt (inBall ch)
  let z := addV y (scaleV c k.s1)
  let low := subV w (scaleV c k.s2)
  let ct0 := scaleV c k.t0
  let h := makeHint (ct0.map fun a => a.map fun x => (q - x) % q) (addV low ct0)
  if gamma1 - 120 ≤ normV z ∨ gamma2 - 120 ≤ normV (lowV low) ∨ gamma2 ≤ normV ct0 ∨ 75 < (h.flatten.filter fun b => b).length then none
  else some (ch ++ z.flatMap (packFrom gamma1 20) ++ packHint h)

/-- The first attempt that is not rejected. FIPS 204 lets a signer stop after 814 attempts, which the chance of 2^-256 bounds; the
bound here lies above it. (FIPS 204 Algorithm 7, Appendix C) -/
def attempts (k : SignKey) : Nat → Nat → List Byte
  | 0, _ => []
  | n + 1, kappa => match attempt k kappa with
    | some sig => sig
    | none => attempts k n (kappa + 7)

/-- The deterministic signature, of 4,627 bytes, of a message under a private key and a context string. (FIPS 204 Algorithms 2, 7, 25)
[14_determinism.md R358; 19_security.md R463] -/
@[irreducible] def sign (sk ctx msg : List Byte) : List Byte :=
  let mu := hash ((sk.drop 64).take 64 ++ framed ctx msg) 64
  let small := fun (o k : Nat) => (pieces 96 k (sk.drop o)).map fun b => ntt (unpackFrom 2 3 b)
  let t0 := (pieces 416 8 (sk.drop 1568)).map fun b => ntt (unpackFrom 4096 13 b)
  let rho := hash ((sk.drop 32).take 32 ++ List.replicate 32 0#8 ++ mu) 64
  attempts ⟨expandA (sk.take 32), small 128 7, small 800 8, t0, mu, rho⟩ 1024 0

/-! ### Verification -/

/-- A signature of a message under a context string is valid for a public key. (FIPS 204 Algorithms 3, 8, 23, 27)
[19_security.md R464] -/
@[irreducible] def verify (pk ctx msg sig : List Byte) : Bool :=
  let mu := hash (hash pk 64 ++ framed ctx msg) 64
  let t1 := (pieces 320 8 (pk.drop 32)).map fun b => ntt ((unpackBits 10 256 b).map fun x => x * 2 ^ 13 % q)
  let ch := sig.take 64
  let z := (pieces 640 7 (sig.drop 64)).map (unpackFrom gamma1 20)
  match unpackHint (sig.drop 4544) with
  | none => false
  | some h =>
    let c := ntt (inBall ch)
    let w := (subV (matMul (expandA (pk.take 32)) (z.map ntt)) (t1.map (mulT c))).map intt
    let w1 := h.zipWith (fun hs a => hs.zipWith useHint a) w
    pk.length = 2592 && sig.length = 4627 && decide (normV z < gamma1 - 120) && hash (mu ++ w1Encode w1) 64 == ch

end Sys2Proof.Machine.MlDsa
end

