-- ==== Sys2Proof/Machine/Events.lean ====
section
/-! DEFINITION. The event codes of Table 21.5 that no earlier file names (21_register_index.md R496). -/

namespace Sys2Proof.Machine

/-- VAULT_UE. -/
def evtVaultUe : Nat := 0x0801
/-- ROW_REMAPPED. -/
def evtRowRemapped : Nat := 0x0802
/-- ROW_REMAP_DEFERRED. -/
def evtRowRemapDeferred : Nat := 0x0803
/-- FIELD_LOG_FULL. -/
def evtFieldLogFull : Nat := 0x0804
/-- AGATE_UE. -/
def evtAgateUe : Nat := 0x0A01
/-- AGATE_CONFLICT. -/
def evtAgateConflict : Nat := 0x0A02
/-- AGATE_SWAPPED. -/
def evtAgateSwapped : Nat := 0x0A03
/-- SEQ_POISON. -/
def evtSeqPoison : Nat := 0x0A04
/-- KV_POOL_LOW. -/
def evtKvPoolLow : Nat := 0x0A05
/-- FABRIC_RETRAIN. -/
def evtFabricRetrain : Nat := 0x0B01
/-- FABRIC_LINK_DOWN. -/
def evtFabricLinkDown : Nat := 0x0B02
/-- FABRIC_PROTOCOL. -/
def evtFabricProtocol : Nat := 0x0B03
/-- ONYX_LINK_DOWN. -/
def evtOnyxLinkDown : Nat := 0x0B04
/-- WHIPPET_PARITY. -/
def evtWhippetParity : Nat := 0x0B05
/-- GUARANTEE_DEFICIT. -/
def evtGuaranteeDeficit : Nat := 0x0C01
/-- GUARANTEE_RESTORED. -/
def evtGuaranteeRestored : Nat := 0x0C02
/-- NET_LINK_UP. -/
def evtNetLinkUp : Nat := 0x0D01
/-- NET_LINK_DOWN. -/
def evtNetLinkDown : Nat := 0x0D02
/-- WCT_CONN_FAILED. -/
def evtWctConnFailed : Nat := 0x0D03
/-- WCT_RX_ERROR. -/
def evtWctRxError : Nat := 0x0D04
/-- KQ_ERROR. -/
def evtKqError : Nat := 0x0D05
/-- SYNC_FIRED. -/
def evtSyncFired : Nat := 0x0D06
/-- REGION_START_LATE. -/
def evtRegionStartLate : Nat := 0x0E01
/-- TILE_FENCED. -/
def evtTileFenced : Nat := 0x0F01
/-- RECOVERY_DONE. -/
def evtRecoveryDone : Nat := 0x0F02
/-- PARITY_LOST. -/
def evtParityLost : Nat := 0x0F03
/-- CAPACITY_REDUCED. -/
def evtCapacityReduced : Nat := 0x0F04
/-- REGION_FENCED. -/
def evtRegionFenced : Nat := 0x0F05
/-- DEVICE_FAILED. -/
def evtDeviceFailed : Nat := 0x0F06
/-- DIE_DRAINED. -/
def evtDieDrained : Nat := 0x0F07
/-- DIE_READY. -/
def evtDieReady : Nat := 0x0F08
/-- THERM_THROTTLE. -/
def evtThermThrottle : Nat := 0x1001
/-- THERM_SENSOR_BROKEN. -/
def evtSensorBroken : Nat := 0x1002
/-- THERM_SENSOR_SUSPECT. -/
def evtSensorSuspect : Nat := 0x1003
/-- THERM_MODEL_DRIFT. -/
def evtModelDrift : Nat := 0x1004
/-- FLOW_LOW. -/
def evtFlowLow : Nat := 0x1005
/-- FLOW_IMPLAUSIBLE. -/
def evtFlowImplausible : Nat := 0x1006
/-- TRAY_LOST. -/
def evtTrayLost : Nat := 0x1007
/-- THERMAL_STOP. -/
def evtThermalStop : Nat := 0x1008
/-- STEP_DONE. -/
def evtStepDone : Nat := 0x1101
/-- STEP_FAILED. -/
def evtStepFailed : Nat := 0x1102
/-- DEVICE_READY. -/
def evtDeviceReady : Nat := 0x1103
/-- CFG_SWAPPED. -/
def evtCfgSwapped : Nat := 0x1104
/-- CFG_REJECTED. -/
def evtCfgRejected : Nat := 0x1105
/-- FW_RESTART. -/
def evtFwRestart : Nat := 0x1201
/-- RAIL_TELEMETRY_LOST. -/
def evtRailTelemetryLost : Nat := 0x1401

end Sys2Proof.Machine
end

