-- ==== Sys2Proof/Machine/Arith.lean ====
section
/-! DEFINITION. Number formats and exact arithmetic (02_arithmetic.md): float encodings and the one rounding,
quantisers, the bit-serial product, near and long accumulation, LA80 records and their conversion. -/

namespace Sys2Proof.Machine

/-! ### Float formats -/

/-- A float format by its precision in bits; exponents are those of binary32 in both formats. [02_arithmetic.md R36, R58] -/
inductive Fmt where
  | fp32 | bf16
  deriving DecidableEq, Repr

/-- Significant bits of a format. [02_arithmetic.md R58] -/
def fmtPrec : Fmt → Nat
  | .fp32 => 24
  | .bf16 => 8

/-- Bytes of one element of a format. -/
def fmtBytes : Fmt → Nat
  | .fp32 => 4
  | .bf16 => 2

/-- The exact value of a float: NaN, an infinity, or ± m × 2^e. -/
inductive FVal where
  | nan
  | inf (neg : Bool)
  | fin (neg : Bool) (m : Nat) (e : Int)
  deriving DecidableEq, Repr

/-- Encodings of infinity without the sign. -/
def fmtInf (f : Fmt) : Nat := 255 * 2 ^ (fmtPrec f - 1)

/-- The canonical quiet NaN. [02_arithmetic.md R59] -/
def fmtNaN : Fmt → Nat
  | .fp32 => 0x7FC00000
  | .bf16 => 0x7FC0

/-- Weight of the sign bit of a format. -/
def fmtSign (f : Fmt) : Nat := 256 * 2 ^ (fmtPrec f - 1)

/-- Exponent of the least subnormal of a format. [02_arithmetic.md R57, R58] -/
def fmtQmin (f : Fmt) : Int := -126 - ((fmtPrec f : Nat) - 1 : Int)

/-- The value that an encoding spells. [02_arithmetic.md R36, R58] -/
def decodeF (f : Fmt) (bits : Nat) : FVal :=
  let p := fmtPrec f
  let neg := decide (bits / fmtSign f % 2 = 1)
  let ex := bits / 2 ^ (p - 1) % 256
  let fr := bits % 2 ^ (p - 1)
  if ex = 255 then (if fr = 0 then .inf neg else .nan)
  else if ex = 0 then .fin neg fr (fmtQmin f)
  else .fin neg (fr + 2 ^ (p - 1)) (fmtQmin f + ((ex : Int) - 1))

/-- Quotient of a non-negative number by 2^sh rounded to nearest even; `sticky` says that the exact value lies
strictly above `m` and below `m + 1`. -/
def rneShift (m sh : Nat) (sticky : Bool) : Nat :=
  let q := m / 2 ^ sh
  let r := 2 * (m % 2 ^ sh)
  let h := 2 ^ sh
  if r > h || (decide (r = h) && (sticky || decide (q % 2 = 1))) then q + 1 else q

/-- A rounded encoding, with 1 when a finite value became an infinity. -/
structure Rounded where
  bits : Nat
  ovf : Bool
  deriving DecidableEq, Repr

/-- One roundTiesToEven of ± m × 2^e, with gradual underflow; `sticky` as in `rneShift`. [02_arithmetic.md R57, R58] -/
def roundMag (f : Fmt) (neg : Bool) (m : Nat) (e : Int) (sticky : Bool) : Rounded :=
  let p := fmtPrec f
  let s := if neg then fmtSign f else 0
  if m = 0 then ⟨s, false⟩
  else
    let q := max ((Nat.log2 m : Int) + e - ((p : Int) - 1)) (fmtQmin f)
    let mant := if q ≤ e then m * 2 ^ (e - q).toNat else rneShift m (q - e).toNat sticky
    let enc := (q - fmtQmin f).toNat * 2 ^ (p - 1) + mant
    if fmtInf f ≤ enc then ⟨s + fmtInf f, true⟩ else ⟨s + enc, false⟩

/-- The encoding of an exact value, rounded once. [02_arithmetic.md R57] -/
def encodeF (f : Fmt) : FVal → Nat
  | .nan => fmtNaN f
  | .inf neg => (if neg then fmtSign f else 0) + fmtInf f
  | .fin neg m e => (roundMag f neg m e false).bits

/-- The exact integer ± m of a finite value scaled to exponent `e0` ≤ its own. -/
def alignTo (e0 : Int) (neg : Bool) (m : Nat) (e : Int) : Int :=
  let v : Int := (m * 2 ^ (e - e0).toNat : Nat)
  if neg then -v else v

/-- `m × 2^e ≤ k`, exactly. -/
def scaledLe (m : Nat) (e : Int) (k : Nat) : Bool :=
  if 0 ≤ e then decide (m * 2 ^ e.toNat ≤ k) else decide (m ≤ k * 2 ^ (-e).toNat)

/-- roundTiesToEven of ± m × 2^e to an integer. [02_arithmetic.md R44] -/
def rneInt (neg : Bool) (m : Nat) (e : Int) : Int :=
  let v : Int := if 0 ≤ e then (m * 2 ^ e.toNat : Nat) else (rneShift m (-e).toNat false : Nat)
  if neg then -v else v

/-- Whether a value is NaN or infinite. -/
def nonfinite : FVal → Bool
  | .fin _ _ _ => false
  | _ => true

/-- `|a| < |b|` for finite values. -/
def magLt (a b : Nat × Int) : Bool :=
  if a.2 ≤ b.2 then decide (a.1 < b.1 * 2 ^ (b.2 - a.2).toNat) else decide (a.1 * 2 ^ (a.2 - b.2).toNat < b.1)

/-- The largest magnitude of a row, as (m, e); (0, 0) for an empty or zero row. [02_arithmetic.md R44] -/
def rowMax : List FVal → Nat × Int
  | [] => (0, 0)
  | .fin _ m e :: xs => let r := rowMax xs; if magLt r (m, e) then (m, e) else r
  | _ :: xs => rowMax xs

/-- Smallest e in [-128, 127] with m × 2^-e ≤ 127. [02_arithmetic.md R44, R46] -/
def quantExp (m : Nat) (e : Int) : Int :=
  match (List.range 256).find? (fun (i : Nat) => scaledLe m (e - ((i : Int) - 128)) 127) with
  | some i => (i : Int) - 128
  | none => 127

/-- The code of one finite element under exponent `p`. [02_arithmetic.md R44, R46] -/
def quantCode (p : Int) : FVal → Int
  | .fin neg m e => rneInt neg m (e - p)
  | _ => 0

/-- The two's complement byte of an integer code. -/
def codeByte (q : Int) : Byte := BitVec.ofInt 8 q

/-- What a token quantiser gives: codes, EXP and NONFINITE. -/
structure TokenQ where
  codes : List Int
  exp : Int
  nonfin : Bool
  deriving DecidableEq, Repr

/-- The token quantiser. [02_arithmetic.md R44] -/
def quantiseToken (xs : List FVal) : TokenQ :=
  if xs.any nonfinite then ⟨xs.map fun _ => 0, -128, true⟩
  else
    let m := rowMax xs
    if m.1 = 0 then ⟨xs.map fun _ => 0, -128, false⟩
    else
      let e := quantExp m.1 m.2
      ⟨xs.map (quantCode e), e, false⟩

/-- The token scale word. [02_arithmetic.md Table 2.2] -/
def scaleWord (e : Int) (nonfin : Bool) : Nat := ofInt 8 e + 256 * flag nonfin

/-- What the KV row quantiser gives: codes, the page exponent afterwards, clamped elements, a NaN or infinity met. -/
structure KvQ where
  codes : List Int
  p : Option Int
  clamps : Nat
  nonfin : Bool
  deriving DecidableEq, Repr

/-- The KV row quantiser for a page whose exponent is `p`, unset for `none`. [02_arithmetic.md R46] -/
def quantiseKv (xs : List FVal) (p : Option Int) (h : Nat) : KvQ :=
  if xs.any nonfinite then ⟨xs.map fun _ => 0, p, 0, true⟩
  else
    let m := rowMax xs
    let p' := match p with
      | some v => some v
      | none => if m.1 = 0 then none else some (min (quantExp m.1 m.2 + (h : Int)) 127)
    match p' with
    | none => ⟨xs.map fun _ => 0, none, 0, false⟩
    | some v =>
      let raw := xs.map (quantCode v)
      ⟨raw.map fun q => max (-127) (min 127 q), some v, (raw.filter fun q => decide (q < -127) || decide (127 < q)).length, false⟩

/-! ### The bit-serial product -/

/-- The activation value of a streamed code: 0x80 counts as -127. [02_arithmetic.md R42] -/
def actVal (c : Nat) : Int := if c % 256 = 128 then -127 else sext 8 c

/-- Value of a weight code of precision `b`. [02_arithmetic.md R37, R38] -/
def weightVal (b : Nat) (int1 : Bool) (w : Nat) : Int :=
  if int1 then 1 - 2 * ((w % 2 : Nat) : Int) else sext b w

/-- Plane sum of plane `j`. [02_arithmetic.md R47] -/
def planeSum (int1 : Bool) (j : Nat) : List (Int × Nat) → Int
  | [] => 0
  | (a, w) :: r =>
    let bit : Int := (w / 2 ^ j % 2 : Nat)
    (if int1 then a * (1 - 2 * bit) else a * bit) + planeSum int1 j r

/-- Weight at which plane `j` enters the block register. [02_arithmetic.md R47] -/
def planeWeight (b : Nat) (int1 : Bool) (j : Nat) : Int :=
  if int1 then 1 else if j + 1 = b then -((2 ^ j : Nat) : Int) else (2 ^ j : Nat)

/-- The block register after all planes: the exact sum S. [02_arithmetic.md R47, R48] -/
def blockSum (b : Nat) (int1 : Bool) (l : List (Int × Nat)) : Int :=
  (List.range b).foldl (fun s j => s + planeWeight b int1 j * planeSum int1 j l) 0

/-! ### Accumulation -/

/-- Accumulation state of one output element. [02_arithmetic.md R49; 03_garnet_array.md R74] -/
structure Acc where
  /-- near accumulator NA; 48 bits two's complement; 02_arithmetic.md R49; DESIGN CHOICE 0 (log 3) -/
  na : Int
  /-- its reference exponent E_N; 8 bits two's complement; 02_arithmetic.md R49; DESIGN CHOICE 0 (log 3) -/
  eN : Int
  /-- the empty mark of NA; 1 bit; 02_arithmetic.md R49; DESIGN CHOICE 1 (log 3) -/
  empty : Bool
  /-- long accumulator LA; 80 bits two's complement; 02_arithmetic.md R49; DESIGN CHOICE 0 (log 3) -/
  la : Int
  /-- element flag SAT_N; 1 bit; 02_arithmetic.md R51; DESIGN CHOICE 0 (log 3) -/
  satN : Bool
  /-- element flag SAT_L; 1 bit; 02_arithmetic.md R51; DESIGN CHOICE 0 (log 3) -/
  satL : Bool
  /-- element flag NONFINITE; 1 bit; 02_arithmetic.md R59; DESIGN CHOICE 0 (log 3) -/
  nonfin : Bool
  /-- element flag ACT_CLAMP; 1 bit; 02_arithmetic.md Table 2.4; DESIGN CHOICE 0 (log 3) -/
  clamp : Bool
  deriving DecidableEq, Repr

/-- State at accumulate-start. [02_arithmetic.md R49] -/
def accStart : Acc := ⟨0, 0, true, 0, false, false, false, false⟩

/-- Largest value of add48. [02_arithmetic.md R51] -/
def max48 : Int := 140737488355327

/-- Largest value of add80. [02_arithmetic.md R51] -/
def max80 : Int := 604462909807314587353087

/-- Whether a true sum fits the signed width. [02_arithmetic.md R51] -/
def fits (mx v : Int) : Bool := decide (-mx ≤ v) && decide (v ≤ mx)

/-- Whether a block exponent is inside the window of floor `f`. [02_arithmetic.md R49, R50] -/
def scaleOk (f e : Int) : Bool := decide (f ≤ e) && decide (e ≤ f + 42)

/-- flush(): add the near accumulator to the long one. [02_arithmetic.md R49, R51] -/
def accFlush (f : Int) (a : Acc) : Acc :=
  let v := a.la + a.na * ((2 ^ (a.eN - f).toNat : Nat) : Int)
  if fits max80 v then { a with la := v, empty := true }
  else { a with la := max80, satL := true, empty := true }

/-- block(S, e) for an exponent inside the window; a frozen element does not change. [02_arithmetic.md R49, R51] -/
def accBlock (f : Int) (a : Acc) (sum e : Int) : Acc :=
  if a.satN || a.satL then a
  else
    let b :=
      if a.empty then { a with eN := e, na := 0, empty := false }
      else if e < a.eN || e > a.eN + 10 then { accFlush f a with eN := e, na := 0, empty := false }
      else a
    if b.satL then b
    else
      let v := b.na + sum * ((2 ^ (e - b.eN).toNat : Nat) : Int)
      if fits max48 v then { b with na := v } else { b with na := max48, satN := true }

/-- Accumulate-end: flush a non-empty NA; a frozen element takes the fixed value. [02_arithmetic.md R49, R51] -/
def accEnd (f : Int) (a : Acc) : Acc :=
  if a.satN then { a with satL := true, la := max80, empty := true }
  else if a.satL then a
  else if a.empty then a else accFlush f a

/-! ### Records and conversion -/

/-- An LA80 record. [02_arithmetic.md Table 2.4] -/
structure La80 where
  la : Int
  e : Int
  satN : Bool
  satL : Bool
  nonfin : Bool
  clamp : Bool
  deriving DecidableEq, Repr

/-- The record that 128 bits spell; reserved bits are ignored. [02_arithmetic.md R55, Table 2.4] -/
def decodeLa (x : Nat) : La80 :=
  ⟨sext 80 (bitsOf x 0 80), sext 16 (bitsOf x 80 16), bitOf x 96, bitOf x 97, bitOf x 98, bitOf x 99⟩

/-- The 128 bits of a record, reserved bits zero. [02_arithmetic.md R55, Table 2.4] -/
def encodeLa (r : La80) : Nat :=
  ofInt 80 r.la + 2 ^ 80 * ofInt 16 r.e + 2 ^ 96 * flag r.satN + 2 ^ 97 * flag r.satL
    + 2 ^ 98 * flag r.nonfin + 2 ^ 99 * flag r.clamp

/-- The record of an accumulated element with token exponent `ex`. [02_arithmetic.md R49, R55] -/
def accRecord (f ex : Int) (a : Acc) : La80 := ⟨a.la, f + ex, a.satN, a.satL, a.nonfin, a.clamp⟩

/-- Combination of two records. [02_arithmetic.md R56] -/
def combineLa (a b : La80) : La80 :=
  let e := min a.e b.e
  let x := a.la * ((2 ^ (a.e - e).toNat : Nat) : Int)
  let y := b.la * ((2 ^ (b.e - e).toNat : Nat) : Int)
  let out := !(fits max80 x && fits max80 y && fits max80 (x + y))
  let satN := a.satN || b.satN
  let satL := a.satL || b.satL || out
  ⟨if satN || satL then max80 else x + y, e, satN, satL, a.nonfin || b.nonfin, a.clamp || b.clamp⟩

/-- The single conversion of a record to a float. [02_arithmetic.md R57, R58, R59] -/
def convertLa (f : Fmt) (r : La80) : Rounded :=
  if r.satN || r.satL || r.nonfin then ⟨fmtNaN f, false⟩
  else roundMag f (decide (r.la < 0)) r.la.natAbs r.e false

end Sys2Proof.Machine
end

