-- ==== Sys2Proof/Machine/Float.lean ====
section
/-! DEFINITION. Beryl's floating-point steps (05_beryl_vector.md R124 to R136): each step rounds its exact result
once and says which flags it raises. -/

namespace Sys2Proof.Machine

/-- The flags of R126 a step raises. [05_beryl_vector.md R125, R126] -/
structure FFlags where
  invalid : Bool
  divzero : Bool
  ovf : Bool
  unf : Bool
  deriving DecidableEq, Repr

/-- No flag. -/
def noFlags : FFlags := ⟨false, false, false, false⟩

/-- Flags raised by either step. -/
def orFlags (a b : FFlags) : FFlags :=
  ⟨a.invalid || b.invalid, a.divzero || b.divzero, a.ovf || b.ovf, a.unf || b.unf⟩

/-- What an internal step reports: INVALID and DIVZERO only. [05_beryl_vector.md R126] -/
def innerFlags (a : FFlags) : FFlags := { a with ovf := false, unf := false }

/-- The result of a step: its rounded value and flags. -/
structure FStep where
  v : FVal
  fl : FFlags
  deriving DecidableEq, Repr

/-- A NaN result sets INVALID. [05_beryl_vector.md R125] -/
def nanStep : FStep := ⟨.nan, { noFlags with invalid := true }⟩

/-- A result that needs no rounding and raises nothing. -/
def exactStep (v : FVal) : FStep := ⟨v, noFlags⟩

/-- One rounding of ± m × 2^e (`sticky` as in `rneShift`), with OVF and UNF. [05_beryl_vector.md R124, R126] -/
def roundStep (f : Fmt) (neg : Bool) (m : Nat) (e : Int) (sticky : Bool) : FStep :=
  let r := roundMag f neg m e sticky
  let mag := r.bits % fmtSign f
  let sub := decide (m ≠ 0) && decide (mag < 2 ^ (fmtPrec f - 1))
  ⟨decodeF f r.bits, ⟨false, false, r.ovf, sub⟩⟩

/-- Sign of a value. -/
def fNeg : FVal → Bool
  | .nan => false
  | .inf n => n
  | .fin n _ _ => n

/-- The value with its sign changed. -/
def fFlip : FVal → FVal
  | .nan => .nan
  | .inf n => .inf !n
  | .fin n m e => .fin (!n) m e

/-- A finite sum, rounded once; an exact zero is -0 only when both terms are negative. [05_beryl_vector.md R125] -/
def addFin (f : Fmt) (na : Bool) (ma : Nat) (ea : Int) (nb : Bool) (mb : Nat) (eb : Int) : FStep :=
  let e := min ea eb
  let s := alignTo e na ma ea + alignTo e nb mb eb
  if s = 0 then exactStep (.fin (na && nb) 0 0) else roundStep f (decide (s < 0)) s.natAbs e false

/-- A + B. [05_beryl_vector.md R124, R125] -/
def fAdd (f : Fmt) : FVal → FVal → FStep
  | .nan, _ => nanStep
  | _, .nan => nanStep
  | .inf a, .inf b => if a = b then exactStep (.inf a) else nanStep
  | .inf a, _ => exactStep (.inf a)
  | _, .inf b => exactStep (.inf b)
  | .fin na ma ea, .fin nb mb eb => addFin f na ma ea nb mb eb

/-- A - B. [05_beryl_vector.md R124] -/
def fSub (f : Fmt) (a b : FVal) : FStep := fAdd f a (fFlip b)

/-- A × B. [05_beryl_vector.md R124, R125] -/
def fMul (f : Fmt) : FVal → FVal → FStep
  | .nan, _ => nanStep
  | _, .nan => nanStep
  | .inf a, .inf b => exactStep (.inf (a != b))
  | .inf a, .fin nb m _ => if m = 0 then nanStep else exactStep (.inf (a != nb))
  | .fin na m _, .inf b => if m = 0 then nanStep else exactStep (.inf (na != b))
  | .fin na ma ea, .fin nb mb eb => roundStep f (na != nb) (ma * mb) (ea + eb) false

/-- A × B + C rounded once. [05_beryl_vector.md R124, R127] -/
def fFma (f : Fmt) : FVal → FVal → FVal → FStep
  | .fin na ma ea, .fin nb mb eb, .fin nc mc ec => addFin f (na != nb) (ma * mb) (ea + eb) nc mc ec
  | a, b, c =>
    match fMul .fp32 a b with
    | ⟨.nan, _⟩ => nanStep
    | ⟨.inf n, _⟩ =>
      if nonfinite a || nonfinite b then fAdd f (.inf n) c else (match c with
        | .nan => nanStep
        | v => exactStep v)
    | ⟨.fin _ _ _, _⟩ => match c with
      | .nan => nanStep
      | v => exactStep v

/-- A / B, correctly rounded. DESIGN CHOICE (log 69): a step that divides a non-zero value by zero sets DIVZERO and not OVF. [05_beryl_vector.md R126, R128] -/
def fDiv (f : Fmt) : FVal → FVal → FStep
  | .nan, _ => nanStep
  | _, .nan => nanStep
  | .inf _, .inf _ => nanStep
  | .inf a, .fin nb _ _ => exactStep (.inf (a != nb))
  | .fin na _ _, .inf b => exactStep (.fin (na != b) 0 0)
  | .fin na ma ea, .fin nb mb eb =>
    if mb = 0 then
      (if ma = 0 then nanStep else ⟨.inf (na != nb), { noFlags with divzero := true }⟩)
    else
      let num := ma * 2 ^ 64
      roundStep f (na != nb) (num / mb) (ea - eb - 64) (decide (num % mb ≠ 0))

/-- 1. -/
def fOne : FVal := .fin false 1 0

/-- 1 / A. [05_beryl_vector.md R128] -/
def fRecip (f : Fmt) (a : FVal) : FStep := fDiv f fOne a

/-- Integer square root by bits `k - 1` to 0. -/
def isqrtBits (n : Nat) : Nat → Nat → Nat
  | 0, r => r
  | k + 1, r => if (r + 2 ^ k) * (r + 2 ^ k) ≤ n then isqrtBits n k (r + 2 ^ k) else isqrtBits n k r

/-- m × 2^e as m' × 2^(2 k). -/
def evenExp (m : Nat) (e : Int) : Nat × Int :=
  if e % 2 = 0 then (m, e / 2) else (2 * m, (e - 1) / 2)

/-- √A. [05_beryl_vector.md R128] -/
def fSqrt (f : Fmt) : FVal → FStep
  | .nan => nanStep
  | .inf n => if n then nanStep else exactStep (.inf false)
  | .fin n m e =>
    if m = 0 then exactStep (.fin n 0 0)
    else if n then nanStep
    else
      let r := evenExp m e
      let x := r.1 * 2 ^ 64
      let q := isqrtBits x 48 0
      roundStep f false q (r.2 - 32) (decide (q * q ≠ x))

/-- 1 / √A. [05_beryl_vector.md R128] -/
def fRsqrt (f : Fmt) : FVal → FStep
  | .nan => nanStep
  | .inf n => if n then nanStep else exactStep (.fin false 0 0)
  | .fin n m e =>
    if m = 0 then ⟨.inf n, { noFlags with divzero := true }⟩
    else if n then nanStep
    else
      let r := evenExp m e
      let q := isqrtBits (2 ^ 128 / r.1) 66 0
      roundStep f false q (-r.2 - 64) (decide (q * q * r.1 ≠ 2 ^ 128))

/-- Fixed-point position of the EXP and LOG evaluations: far beyond what decides a binary32 rounding (DEDUCED, log 14). -/
def fxBits : Nat := 200

/-- ln 2 at 2^-200. -/
def fxLn2 : Nat := 1113844574712631719546256151097547306333272293549090750737802

/-- Σ r^i / i! at 2^-200 for r in [0, ln 2), by Horner's rule from term `n` down. -/
def fxExp (r : Nat) : Nat → Nat
  | 0 => 2 ^ 200
  | n + 1 => fxExpTerm r n (2 ^ 200)
where
  /-- One Horner step per term, from the last to the first. -/
  fxExpTerm (r : Nat) : Nat → Nat → Nat
    | 0, acc => acc
    | k + 1, acc => fxExpTerm r k (2 ^ 200 + r * acc / ((k + 1) * 2 ^ 200))

/-- e^A, correctly rounded. [05_beryl_vector.md R128] -/
def fExp (f : Fmt) : FVal → FStep
  | .nan => nanStep
  | .inf n => if n then exactStep (.fin false 0 0) else exactStep (.inf false)
  | .fin n m e =>
    if m = 0 then exactStep fOne
    else if !scaledLe m e 128 then
      (if n then roundStep f false 1 (-300) true else roundStep f false 1 300 true)
    else if scaledLe m (e + 40) 1 then
      (if n then roundStep f false (2 ^ 60 - 1) (-60) true else roundStep f false (2 ^ 60) (-60) true)
    else
      let x := alignTo (-200) n m e
      let k := x / (fxLn2 : Int)
      let r := (x - k * (fxLn2 : Int)).toNat
      roundStep f false (fxExp r 61) (k - 200) true

/-- 2 atanh z at 2^-200 for the odd powers of z from 1, `n` terms; `p` is the current power. -/
def fxAtanh2 (z2 : Nat) : Nat → Nat → Nat → Nat
  | 0, _, _ => 0
  | n + 1, i, p => 2 * p / (2 * i + 1) + fxAtanh2 z2 n (i + 1) (p * z2 / 2 ^ 200)

/-- ln A, correctly rounded. [05_beryl_vector.md R128] -/
def fLog (f : Fmt) : FVal → FStep
  | .nan => nanStep
  | .inf n => if n then nanStep else exactStep (.inf false)
  | .fin n m e =>
    if m = 0 then ⟨.inf true, { noFlags with divzero := true }⟩
    else if n then nanStep
    else
      let k : Int := (Nat.log2 m : Int) + e
      let y := m * 2 ^ 200 / 2 ^ (Nat.log2 m)
      let z := (y - 2 ^ 200) * 2 ^ 200 / (y + 2 ^ 200)
      let l : Int := k * (fxLn2 : Int) + (fxAtanh2 (z * z / 2 ^ 200) 70 0 z : Nat)
      if l = 0 then exactStep (.fin false 0 0)
      else roundStep f (decide (l < 0)) l.natAbs (-200) true

/-- Numeric order of non-NaN values; the two zeros are equal. -/
def fLt : FVal → FVal → Bool
  | .nan, _ => false
  | _, .nan => false
  | .inf a, .inf b => a && !b
  | .inf a, .fin _ _ _ => a
  | .fin _ _ _, .inf b => !b
  | .fin na ma ea, .fin nb mb eb => decide (alignTo (min ea eb) na ma ea < alignTo (min ea eb) nb mb eb)

/-- Whether the value is a zero. -/
def fIsZero : FVal → Bool
  | .fin _ m _ => decide (m = 0)
  | _ => false

/-- The value unchanged, rounded to the format (exact for a value of the format). -/
def fKeep (f : Fmt) : FVal → FStep
  | .nan => nanStep
  | .inf n => exactStep (.inf n)
  | .fin n m e => roundStep f n m e false

/-- max(A, B), +0 for zeros of different sign. [05_beryl_vector.md R125] -/
def fMaxV (a b : FVal) : FVal :=
  if a = .nan || b = .nan then .nan
  else if fIsZero a && fIsZero b then .fin (fNeg a && fNeg b) 0 0
  else if fLt a b then b else a

/-- min(A, B), -0 for zeros of different sign. [05_beryl_vector.md R125] -/
def fMinV (a b : FVal) : FVal :=
  if a = .nan || b = .nan then .nan
  else if fIsZero a && fIsZero b then .fin (fNeg a || fNeg b) 0 0
  else if fLt b a then b else a

/-- A step that continues with the value of another, whose flags it keeps as internal ones. [05_beryl_vector.md R126] -/
def thenStep (a : FStep) (k : FVal → FStep) : FStep :=
  let r := k a.v
  ⟨r.v, orFlags (innerFlags a.fl) r.fl⟩

/-- SIGMOID. [05_beryl_vector.md R128] -/
def fSigmoid (x : FVal) : FStep :=
  thenStep (thenStep (fExp .fp32 (fFlip x)) fun t => fAdd .fp32 fOne t) fun u => fRecip .fp32 u

/-- SILU. [05_beryl_vector.md R128] -/
def fSilu (x : FVal) : FStep :=
  if x = .inf true then exactStep (.fin true 0 0)
  else thenStep (fSigmoid x) fun g => fMul .fp32 x g

/-- Twice the magnitude, negated. -/
def fNegTwice : FVal → FVal
  | .nan => .nan
  | .inf _ => .inf true
  | .fin _ m e => .fin true m (e + 1)

/-- The value with the given sign. -/
def fWithSign (n : Bool) : FVal → FVal
  | .nan => .nan
  | .inf _ => .inf n
  | .fin _ m e => .fin n m e

/-- TANH. [05_beryl_vector.md R128] -/
def fTanh (x : FVal) : FStep :=
  match x with
  | .nan => nanStep
  | .inf n => thenStep (fExp .fp32 (.inf true)) fun e => fTanhTail n e
  | .fin n m e =>
    if !(scaledLe 1 (-12 - e) m) then fKeep .fp32 x
    else thenStep (fExp .fp32 (fNegTwice x)) fun t => fTanhTail n t
where
  /-- The division of TANH and the sign of its operand. -/
  fTanhTail (n : Bool) (e : FVal) : FStep :=
    let a := fSub .fp32 fOne e
    let b := fAdd .fp32 fOne e
    let y := fDiv .fp32 a.v b.v
    ⟨fWithSign n y.v, orFlags (innerFlags (orFlags a.fl b.fl)) y.fl⟩

/-- GLU: SILU(A) × B. [05_beryl_vector.md R127] -/
def fGlu (a b : FVal) : FStep := thenStep (fSilu a) fun g => fMul .fp32 g b

/-- The last FP32 value of a multi-step operation rounded to the output format. [05_beryl_vector.md R124] -/
def toOut (f : Fmt) (a : FStep) : FStep :=
  match f with
  | .fp32 => a
  | .bf16 => let r := fKeep .bf16 a.v; ⟨r.v, orFlags a.fl r.fl⟩

/-! ### Reductions -/

/-- A running value with the internal flags met so far. -/
structure FAcc where
  v : FVal
  fl : FFlags
  deriving DecidableEq, Repr

/-- -0. -/
def fNegZero : FVal := .fin true 0 0

/-- One lane of R129: its elements in ascending order. -/
def laneSum (sq : Bool) (acc : FStep) : List FVal → FStep
  | [] => acc
  | x :: xs =>
    let r := if sq then fFma .fp32 x x acc.v else fAdd .fp32 acc.v x
    laneSum sq ⟨r.v, orFlags (innerFlags acc.fl) r.fl⟩ xs

/-- Elements i of the row with i mod lanes = lane. -/
def laneElems (lanes lane : Nat) (xs : List FVal) : List FVal :=
  (xs.zipIdx.filter fun x => decide (x.2 % lanes = lane)).map Prod.fst

/-- One level of the combination: neighbours added with one rounding. -/
def pairUp : List FStep → List FStep
  | a :: b :: r =>
    let s := fAdd .fp32 a.v b.v
    ⟨s.v, orFlags (innerFlags (orFlags a.fl b.fl)) s.fl⟩ :: pairUp r
  | l => l

/-- `k` levels of the combination. -/
def pairLevels : Nat → List FStep → List FStep
  | 0, l => l
  | k + 1, l => pairLevels k (pairUp l)

/-- Sum in the canonical order over 2^k lanes, before the rounding to the output format. [05_beryl_vector.md R129; 09_jasper.md R226] -/
def reduceSum (k : Nat) (sq : Bool) (xs : List FVal) : FStep :=
  let lanes := (List.range (2 ^ k)).map fun l => laneSum sq (exactStep fNegZero) (laneElems (2 ^ k) l xs)
  (pairLevels k lanes).headD (exactStep fNegZero)

/-- Largest element by R125, NaN when the row holds one. [05_beryl_vector.md R130] -/
def rowMaxR : List FVal → FVal
  | [] => .inf true
  | [x] => x
  | x :: xs => fMaxV x (rowMaxR xs)

/-- Index of the first NaN, or the lowest index of the maximum. [05_beryl_vector.md R130] -/
def argMaxR (xs : List FVal) : Nat :=
  if xs.any (fun x => x = .nan) then xs.findIdx fun x => x = .nan
  else
    let m := rowMaxR xs
    xs.findIdx fun x => !fLt x m

/-- What a row operation gives: N results (or one) with the flags raised, and whether the row was masked. -/
structure RowOut where
  vs : List FVal
  fl : FFlags
  masked : Bool
  deriving DecidableEq, Repr

/-- e[i] of SOFTMAX and SAMPLE. [05_beryl_vector.md R131, R136] -/
def softExp (m s x : FVal) : FStep :=
  if x = .inf true then exactStep (.fin false 0 0)
  else thenStep (thenStep (fSub .fp32 x m) fun d => fMul .fp32 s d) fun d => fExp .fp32 d

/-- Flags of a list of steps, as internal ones. -/
def innerAll (l : List FStep) : FFlags := l.foldl (fun a x => orFlags a (innerFlags x.fl)) noFlags

/-- Flags of a list of steps whose results are written. -/
def outerAll (l : List FStep) : FFlags := l.foldl (fun a x => orFlags a x.fl) noFlags

/-- SOFTMAX of one row with 2^k lanes. [05_beryl_vector.md R131] -/
def softmaxRow (k : Nat) (f : Fmt) (s : FVal) (xs : List FVal) : RowOut :=
  let m := rowMaxR xs
  if m = .nan || m = .inf false then ⟨xs.map fun _ => .nan, nanStep.fl, false⟩
  else if m = .inf true then ⟨xs.map fun _ => .fin false 0 0, noFlags, true⟩
  else
    let es := xs.map (softExp m s)
    let sum := reduceSum k false (es.map FStep.v)
    let r := fRecip .fp32 sum.v
    let ys := es.map fun e => toOut f (fMul .fp32 e.v r.v)
    ⟨ys.map FStep.v, orFlags (orFlags (innerAll es) (innerFlags (orFlags sum.fl r.fl))) (outerAll ys), false⟩

/-- The exact value of a natural number. -/
def fNat (n : Nat) : FVal := .fin false n 0

/-- RMSNORM of one row. [05_beryl_vector.md R132] -/
def rmsnormRow (k : Nat) (f : Fmt) (eps : FVal) (xs gs : List FVal) : RowOut :=
  let ss := reduceSum k true xs
  let q := fDiv .fp32 ss.v (fNat xs.length)
  let qe := fAdd .fp32 q.v eps
  let kk := fRsqrt .fp32 qe.v
  let ys := (xs.zip gs).map fun p => toOut f (thenStep (fMul .fp32 p.1 kk.v) fun t => fMul .fp32 t p.2)
  ⟨ys.map FStep.v, orFlags (innerAll [ss, q, qe, kk]) (outerAll ys), false⟩

/-- LAYERNORM of one row. [05_beryl_vector.md R132] -/
def layernormRow (k : Nat) (f : Fmt) (eps : FVal) (xs gs cs : List FVal) : RowOut :=
  let sm := reduceSum k false xs
  let mu := fDiv .fp32 sm.v (fNat xs.length)
  let ds := xs.map fun x => fSub .fp32 x mu.v
  let ss := reduceSum k true (ds.map FStep.v)
  let v := fDiv .fp32 ss.v (fNat xs.length)
  let ve := fAdd .fp32 v.v eps
  let kk := fRsqrt .fp32 ve.v
  let ys := ((ds.map FStep.v).zip (gs.zip cs)).map fun p =>
    toOut f (thenStep (fMul .fp32 p.1 kk.v) fun t => fFma .fp32 t p.2.1 p.2.2)
  ⟨ys.map FStep.v, orFlags (orFlags (innerAll [sm, mu, ss, v, ve, kk]) (innerAll ds)) (outerAll ys), false⟩

/-! ### Sampling -/

/-- One Philox-4×32 round. [05_beryl_vector.md R134] -/
def philoxRound (c0 c1 c2 c3 k0 k1 : Nat) : Nat × Nat × Nat × Nat :=
  let p0 := 0xD2511F53 * c0
  let p1 := 0xCD9E8D57 * c2
  (Nat.xor (Nat.xor (p1 / 2 ^ 32) c1) k0, p1 % 2 ^ 32, Nat.xor (Nat.xor (p0 / 2 ^ 32) c3) k1, p0 % 2 ^ 32)

/-- `n` Philox rounds with the key schedule; the first output word. [05_beryl_vector.md R134] -/
def philox : Nat → Nat → Nat → Nat → Nat → Nat → Nat → Nat
  | 0, c0, _, _, _, _, _ => c0
  | n + 1, c0, c1, c2, c3, k0, k1 =>
    let r := philoxRound c0 c1 c2 c3 k0 k1
    philox n r.1 r.2.1 r.2.2.1 r.2.2.2 ((k0 + 0x9E3779B9) % 2 ^ 32) ((k1 + 0xBB67AE85) % 2 ^ 32)

/-- The uniform variate u of one draw. [05_beryl_vector.md R134] -/
def basenji (seed pos seq draw : Nat) : FVal :=
  let o := philox 10 (pos % 2 ^ 32) (seq % 2 ^ 32) (draw % 2 ^ 32) 0 (seed % 2 ^ 32) (seed / 2 ^ 32 % 2 ^ 32)
  .fin false (o / 256) (-24)

/-- What SAMPLE gives for one row. -/
structure SampleOut where
  idx : Nat
  fl : FFlags
  masked : Bool
  drawn : Bool
  deriving DecidableEq, Repr

/-- Running sums C[k] of the block sums. [05_beryl_vector.md R136] -/
def prefixSums (c : FStep) : List FStep → List FStep
  | [] => []
  | b :: bs =>
    let s := fAdd .fp32 c.v b.v
    let s' : FStep := ⟨s.v, innerFlags s.fl⟩
    s' :: prefixSums s' bs

/-- The walk inside block k*: the index at which the running sum passes the target. [05_beryl_vector.md R136] -/
def sampleWalk (target : FVal) (p : FVal) (i : Nat) : List FVal → Option Nat
  | [] => none
  | e :: es =>
    let s := (fAdd .fp32 p e).v
    if fLt target s then some i else sampleWalk target s (i + 1) es

/-- Largest index whose value is above zero. -/
def lastPositive (l : List FVal) : Nat :=
  (l.zipIdx.foldl (fun a x => if fLt (.fin false 0 0) x.1 then x.2 else a) 0)

/-- SAMPLE of one row with its 32-byte record. DESIGN CHOICE (log 69): non-zero reserved bits of the record are judged before the
row, so such a row of -inf sets INVALID and not MASKED_ROW. [05_beryl_vector.md R135, R136] -/
def sampleRow (rec : Nat) (xs : List FVal) : SampleOut :=
  let bad : SampleOut := ⟨0xFFFFFFFF, nanStep.fl, false, false⟩
  let s := decodeF .fp32 (bitsOf rec 160 32)
  let m := rowMaxR xs
  if bitsOf rec 84 12 ≠ 0 || bitsOf rec 192 64 ≠ 0 then bad
  else if m = .nan || m = .inf false || nonfinite s || fLt s (.fin false 0 0) then bad
  else if m = .inf true then ⟨0xFFFFFFFF, noFlags, true, false⟩
  else if fIsZero s then ⟨argMaxR xs, noFlags, false, false⟩
  else
    let es := xs.map (softExp m s)
    let ev := es.map FStep.v
    let blocks := chunks 64 (ev.length + 1) ev
    let bsum := blocks.map fun b => reduceSum 6 false b
    let cs := prefixSums (exactStep (.fin false 0 0)) bsum
    let u := basenji (bitsOf rec 0 64) (bitsOf rec 96 32) (bitsOf rec 64 20) (bitsOf rec 128 32)
    let target := (fMul .fp32 u (cs.getLastD (exactStep (.fin false 0 0))).v).v
    let found := cs.findIdx fun c => fLt target c.v
    let k := if found < cs.length then found else lastPositive (bsum.map FStep.v)
    let p : FVal := if k = 0 then .fin false 0 0 else (cs.getD (k - 1) (exactStep (.fin false 0 0))).v
    let blk := blocks.getD k []
    let idx := match sampleWalk target p 0 blk with
      | some i => 64 * k + i
      | none => 64 * k + lastPositive blk
    ⟨idx, orFlags (innerAll es) (innerAll bsum), false, true⟩

end Sys2Proof.Machine
end

