-- ==== Sys2Proof/Config.lean ====
section
/-! DEFINITION. What an implementation fixes and the manual leaves open: constants without a value that any proof could
see. Each is named in the assumption log. -/

namespace Sys2Proof.Config

/-! ### Values the manual does not state (log 7) -/

/-- The logical-tile field of an event about a physical tile that no logical tile is bound to, at a device time. -/
opaque unboundLogical (p time : Nat) : Nat

/-- The command fields (STREAM, INDEX or TAG, as `which` says) of a fault record that concerns no command of the tile. -/
opaque noCommand (which time : Nat) : Nat

/-- TILE_FAULT_INFO of a fault whose chapter gives it no contents. -/
opaque noInfo (code time : Nat) : Nat

/-- T_START (`which` 0) or T_END (1) of a result record when no plan tile has run. -/
opaque noTime (which time : Nat) : Nat

/-- Byte `i` of the `n`-th datum that never arrived intact: what a read that exhausted its retries delivers. -/
opaque lostByte (n i : Nat) : BitVec 8

/-- BOOT_MODE as sampled at the `n`-th warm reset that a register write starts. -/
opaque bootStrap (n : Nat) : Nat

/-- The flash reads back as programmed at the `n`-th HUB_CFG_CTRL.WRITE that a register write starts. -/
opaque flashGood (n : Nat) : Bool

/-- Reference clock `k` (0 REFCLK_HUB, 1 and 2 REFCLK_NET0 and REFCLK_NET1, 3 PE_REFCLK) is present and within tolerance at a draw. -/
opaque refGood (k n : Nat) : Bool

/-- Regions that a MEMTEST which the reset of one die runs tests below band B2, at a draw, one bit for each. -/
opaque lowBand (n : Nat) : BitVec 16

/-- Pause quanta of the `n`-th XOFF that Kelpie sends. -/
opaque xoffQuanta (n : Nat) : Nat

/-- A retrain of the customer site at a device time ends at half width. -/
opaque siteHalf (time : Nat) : Bool

/-- Lanes that a retrain of the customer site at a device time has repaired. -/
opaque siteLanes (time : Nat) : BitVec 5

/-- UDP checksum of the PTP event message that the control compartment hands over at a draw, where it goes over UDP on IPv6. -/
opaque ptpCsum (n : Nat) : Option (BitVec 16)

/-- Residence time that Kelpie adds to a one-step Sync message, in units of the correctionField. -/
opaque residence (n : Nat) : Nat

/-! ### Factory calibration of Husky (log 7) -/

/-- Energy of one plane cycle of tile `p`, in pJ. -/
opaque planePj (p : Nat) : Nat

/-- Energy of one Beryl element group of tile `p`, in pJ. -/
opaque groupPj (p : Nat) : Nat

/-- Energy of one vault burst of tile `p`, in pJ. -/
opaque burstPj (p : Nat) : Nat

/-- Energy of one Jasper step of tile `p`, in pJ. -/
opaque stepPj (p : Nat) : Nat

/-- Static power of domain `n` while it is on, in mW. -/
opaque staticMw (n : Nat) : Nat

/-- Power of a busy tile at full duty, in mW. -/
opaque tileFullMw (p : Nat) : Nat

/-- Power of the device outside its tiles before any rail has been measured, in mW. -/
opaque baseMw : Nat

/-- Slope of the temperature of node `n` of region `g` that the network predicts with the tiles at the given powers, in
1/1,000 °C/s. -/
opaque rcSlope (g n : Nat) (nodes : List Int) (mw : List Nat) (inlet : Int) (flow : Nat) : Int

/-- Temperature of node `n` of region `g` (tiles 0 to 17, DRAM layers 18 to 25, cold plate 26) after 100 µs (or, with `ahead`,
after 5 ms), in 1/8 °C, from its nodes, the tiles' powers, the inlet temperature and the effective flow. -/
opaque rcNode (ahead : Bool) (g n : Nat) (nodes : List Int) (mw : List Nat) (inlet : Int) (flow : Nat) : Int

/-! ### Security (log 7) -/

/-- The fuse words other than ID_SEED as bytes, in fuse-word order: the manual does not lay the words out. -/
opaque fuseWords (vendorKeyHash serial svn dbgArm debugEver hubId mapHash : Nat) : List (BitVec 8)

end Sys2Proof.Config
end

