-- ==== Sys2Proof/Machine/Regs.lean ====
section
/-! DEFINITION. The register map: every register of the manual's field tables with its BAR0 offset, replication,
fields, access codes and reset values (21_register_index.md R492 to R494 and the tables of each chapter). -/

namespace Sys2Proof.Machine

/-- A register: BAR0 offset of its first instance, the two replication strides with their counts, and its reset value
(a field the spec resets to a fuse or strap value is 0 here and is set in State.reset). [00_scope.md R15, R19] -/
structure Reg where
  base : Nat
  s1 : Nat
  c1 : Nat
  s2 : Nat
  c2 : Nat
  reset : Nat
  deriving DecidableEq, Repr

/-- A field of a register. [00_scope.md R10] -/
structure Fld where
  reg : Reg
  lo : Nat
  w : Nat
  deriving DecidableEq, Repr

/-- Access codes. [00_scope.md Table 0.5] -/
inductive Access where
  | ro | rw | wo | w1c | w1s | rws
  deriving DecidableEq, Repr

/-- A register with its fields and access codes, and whether it is a counter (R494). -/
structure RegInfo where
  reg : Reg
  counter : Bool
  fields : List (Fld × Access)
  deriving DecidableEq, Repr

/-- Offset of instance (i, j) of a register. -/
def regOff (r : Reg) (i j : Nat) : Nat := r.base + i * r.s1 + j * r.s2

/-- The largest value of COUNT. [18_host_firmware.md R455] -/
def countMax : Nat := 0x7FFFFFFFFFFFFFFF

/-- 00_scope.md Table 0.3 R9 -/
def HUB_ID : Reg := ⟨0x00000000, 0x0, 1, 0x0, 1, 0x288000000000001⟩
/-- DEVICE of HUB_ID, RO. -/
def HUB_ID__DEVICE : Fld := ⟨HUB_ID, 48, 16⟩
/-- GRADE of HUB_ID, RO. -/
def HUB_ID__GRADE : Fld := ⟨HUB_ID, 44, 4⟩
/-- OPT_J of HUB_ID, RO. -/
def HUB_ID__OPT_J : Fld := ⟨HUB_ID, 43, 1⟩
/-- OPT_U of HUB_ID, RO. -/
def HUB_ID__OPT_U : Fld := ⟨HUB_ID, 42, 1⟩
/-- STEP_MAJOR of HUB_ID, RO. -/
def HUB_ID__STEP_MAJOR : Fld := ⟨HUB_ID, 24, 8⟩
/-- STEP_MINOR of HUB_ID, RO. -/
def HUB_ID__STEP_MINOR : Fld := ⟨HUB_ID, 16, 8⟩
/-- FAMILY of HUB_ID, RO. -/
def HUB_ID__FAMILY : Fld := ⟨HUB_ID, 0, 16⟩
/-- 14_determinism.md Table 14.1 R346 -/
def HUB_MODE : Reg := ⟨0x00000010, 0x0, 1, 0x0, 1, 0x0⟩
/-- STRICT of HUB_MODE, RW. -/
def HUB_MODE__STRICT : Fld := ⟨HUB_MODE, 0, 1⟩
/-- MODE_ERR of HUB_MODE, W1C. -/
def HUB_MODE__MODE_ERR : Fld := ⟨HUB_MODE, 1, 1⟩
/-- 02_arithmetic.md Table 2.6 R60 -/
def TILE_ARITH_STATUS : Reg := ⟨0x02003000, 0x10000, 288, 0x0, 1, 0x0⟩
/-- SAT_N of TILE_ARITH_STATUS, W1C. -/
def TILE_ARITH_STATUS__SAT_N : Fld := ⟨TILE_ARITH_STATUS, 0, 1⟩
/-- SAT_L of TILE_ARITH_STATUS, W1C. -/
def TILE_ARITH_STATUS__SAT_L : Fld := ⟨TILE_ARITH_STATUS, 1, 1⟩
/-- ACT_CLAMP of TILE_ARITH_STATUS, W1C. -/
def TILE_ARITH_STATUS__ACT_CLAMP : Fld := ⟨TILE_ARITH_STATUS, 2, 1⟩
/-- KV_CLAMP of TILE_ARITH_STATUS, W1C. -/
def TILE_ARITH_STATUS__KV_CLAMP : Fld := ⟨TILE_ARITH_STATUS, 3, 1⟩
/-- NONFINITE of TILE_ARITH_STATUS, W1C. -/
def TILE_ARITH_STATUS__NONFINITE : Fld := ⟨TILE_ARITH_STATUS, 4, 1⟩
/-- CONV_OVF of TILE_ARITH_STATUS, W1C. -/
def TILE_ARITH_STATUS__CONV_OVF : Fld := ⟨TILE_ARITH_STATUS, 5, 1⟩
/-- SCALE_RANGE of TILE_ARITH_STATUS, W1C. -/
def TILE_ARITH_STATUS__SCALE_RANGE : Fld := ⟨TILE_ARITH_STATUS, 6, 1⟩
/-- 02_arithmetic.md Table 2.7 R61 -/
def TILE_SAT_COUNT : Reg := ⟨0x02003008, 0x10000, 288, 0x0, 1, 0x0⟩
/-- COUNT of TILE_SAT_COUNT, RO. -/
def TILE_SAT_COUNT__COUNT : Fld := ⟨TILE_SAT_COUNT, 0, 63⟩
/-- SAT of TILE_SAT_COUNT, RO. -/
def TILE_SAT_COUNT__SAT : Fld := ⟨TILE_SAT_COUNT, 63, 1⟩
/-- 02_arithmetic.md Table 2.7 R61 -/
def TILE_ACT_CLAMP_COUNT : Reg := ⟨0x02003010, 0x10000, 288, 0x0, 1, 0x0⟩
/-- COUNT of TILE_ACT_CLAMP_COUNT, RO. -/
def TILE_ACT_CLAMP_COUNT__COUNT : Fld := ⟨TILE_ACT_CLAMP_COUNT, 0, 63⟩
/-- SAT of TILE_ACT_CLAMP_COUNT, RO. -/
def TILE_ACT_CLAMP_COUNT__SAT : Fld := ⟨TILE_ACT_CLAMP_COUNT, 63, 1⟩
/-- 02_arithmetic.md Table 2.7 R61 -/
def TILE_KV_CLAMP_COUNT : Reg := ⟨0x02003018, 0x10000, 288, 0x0, 1, 0x0⟩
/-- COUNT of TILE_KV_CLAMP_COUNT, RO. -/
def TILE_KV_CLAMP_COUNT__COUNT : Fld := ⟨TILE_KV_CLAMP_COUNT, 0, 63⟩
/-- SAT of TILE_KV_CLAMP_COUNT, RO. -/
def TILE_KV_CLAMP_COUNT__SAT : Fld := ⟨TILE_KV_CLAMP_COUNT, 63, 1⟩
/-- 03_garnet_array.md Table 3.7 R88 -/
def TILE_GARNET_CTRL : Reg := ⟨0x02003100, 0x10000, 288, 0x0, 1, 0x3⟩
/-- SKIP_EN of TILE_GARNET_CTRL, RW. -/
def TILE_GARNET_CTRL__SKIP_EN : Fld := ⟨TILE_GARNET_CTRL, 0, 1⟩
/-- GATE_EN of TILE_GARNET_CTRL, RW. -/
def TILE_GARNET_CTRL__GATE_EN : Fld := ⟨TILE_GARNET_CTRL, 1, 1⟩
/-- INJ_ARM of TILE_GARNET_CTRL, RW. -/
def TILE_GARNET_CTRL__INJ_ARM : Fld := ⟨TILE_GARNET_CTRL, 2, 1⟩
/-- INJ_COL of TILE_GARNET_CTRL, RW. -/
def TILE_GARNET_CTRL__INJ_COL : Fld := ⟨TILE_GARNET_CTRL, 8, 7⟩
/-- INJ_ROW of TILE_GARNET_CTRL, RW. -/
def TILE_GARNET_CTRL__INJ_ROW : Fld := ⟨TILE_GARNET_CTRL, 16, 7⟩
/-- 03_garnet_array.md Table 3.8 R89 -/
def TILE_GARNET_STATUS : Reg := ⟨0x02003108, 0x10000, 288, 0x0, 1, 0x0⟩
/-- ACT_LOADED of TILE_GARNET_STATUS, RO. -/
def TILE_GARNET_STATUS__ACT_LOADED : Fld := ⟨TILE_GARNET_STATUS, 0, 1⟩
/-- SHD_LOADED of TILE_GARNET_STATUS, RO. -/
def TILE_GARNET_STATUS__SHD_LOADED : Fld := ⟨TILE_GARNET_STATUS, 1, 1⟩
/-- ACT_PREC of TILE_GARNET_STATUS, RO. -/
def TILE_GARNET_STATUS__ACT_PREC : Fld := ⟨TILE_GARNET_STATUS, 2, 4⟩
/-- ACT_FMT of TILE_GARNET_STATUS, RO. -/
def TILE_GARNET_STATUS__ACT_FMT : Fld := ⟨TILE_GARNET_STATUS, 6, 1⟩
/-- ACT_SCALE of TILE_GARNET_STATUS, RO. -/
def TILE_GARNET_STATUS__ACT_SCALE : Fld := ⟨TILE_GARNET_STATUS, 7, 1⟩
/-- SHD_PREC of TILE_GARNET_STATUS, RO. -/
def TILE_GARNET_STATUS__SHD_PREC : Fld := ⟨TILE_GARNET_STATUS, 8, 4⟩
/-- SHD_FMT of TILE_GARNET_STATUS, RO. -/
def TILE_GARNET_STATUS__SHD_FMT : Fld := ⟨TILE_GARNET_STATUS, 12, 1⟩
/-- SHD_SCALE of TILE_GARNET_STATUS, RO. -/
def TILE_GARNET_STATUS__SHD_SCALE : Fld := ⟨TILE_GARNET_STATUS, 13, 1⟩
/-- ACT_PLANES of TILE_GARNET_STATUS, RO. -/
def TILE_GARNET_STATUS__ACT_PLANES : Fld := ⟨TILE_GARNET_STATUS, 16, 8⟩
/-- SHD_PLANES of TILE_GARNET_STATUS, RO. -/
def TILE_GARNET_STATUS__SHD_PLANES : Fld := ⟨TILE_GARNET_STATUS, 24, 8⟩
/-- LOAD_BUSY of TILE_GARNET_STATUS, RO. -/
def TILE_GARNET_STATUS__LOAD_BUSY : Fld := ⟨TILE_GARNET_STATUS, 32, 1⟩
/-- SWAP_PENDING of TILE_GARNET_STATUS, RO. -/
def TILE_GARNET_STATUS__SWAP_PENDING : Fld := ⟨TILE_GARNET_STATUS, 33, 1⟩
/-- RUN_BUSY of TILE_GARNET_STATUS, RO. -/
def TILE_GARNET_STATUS__RUN_BUSY : Fld := ⟨TILE_GARNET_STATUS, 34, 1⟩
/-- GROUP_OPEN of TILE_GARNET_STATUS, RO. -/
def TILE_GARNET_STATUS__GROUP_OPEN : Fld := ⟨TILE_GARNET_STATUS, 35, 1⟩
/-- GROUP_TOKENS of TILE_GARNET_STATUS, RO. -/
def TILE_GARNET_STATUS__GROUP_TOKENS : Fld := ⟨TILE_GARNET_STATUS, 36, 7⟩
/-- GROUP_NCOLS of TILE_GARNET_STATUS, RO. -/
def TILE_GARNET_STATUS__GROUP_NCOLS : Fld := ⟨TILE_GARNET_STATUS, 43, 8⟩
/-- HALTED of TILE_GARNET_STATUS, RO. -/
def TILE_GARNET_STATUS__HALTED : Fld := ⟨TILE_GARNET_STATUS, 51, 1⟩
/-- BANK of TILE_GARNET_STATUS, RO. -/
def TILE_GARNET_STATUS__BANK : Fld := ⟨TILE_GARNET_STATUS, 52, 1⟩
/-- 03_garnet_array.md R90 -/
def TILE_GARNET_COLBAD : Reg := ⟨0x02003110, 0x10000, 288, 0x8, 2, 0x0⟩
/-- COLBAD of TILE_GARNET_COLBAD, RWS. -/
def TILE_GARNET_COLBAD__COLBAD : Fld := ⟨TILE_GARNET_COLBAD, 0, 64⟩
/-- 03_garnet_array.md Table 3.9 R91 -/
def TILE_GARNET_PARITY_LOG : Reg := ⟨0x02003120, 0x10000, 288, 0x0, 1, 0x0⟩
/-- VALID of TILE_GARNET_PARITY_LOG, RWS. -/
def TILE_GARNET_PARITY_LOG__VALID : Fld := ⟨TILE_GARNET_PARITY_LOG, 0, 1⟩
/-- MULTI of TILE_GARNET_PARITY_LOG, RWS. -/
def TILE_GARNET_PARITY_LOG__MULTI : Fld := ⟨TILE_GARNET_PARITY_LOG, 1, 1⟩
/-- COL of TILE_GARNET_PARITY_LOG, RWS. -/
def TILE_GARNET_PARITY_LOG__COL : Fld := ⟨TILE_GARNET_PARITY_LOG, 8, 7⟩
/-- ROW of TILE_GARNET_PARITY_LOG, RWS. -/
def TILE_GARNET_PARITY_LOG__ROW : Fld := ⟨TILE_GARNET_PARITY_LOG, 16, 7⟩
/-- BANK of TILE_GARNET_PARITY_LOG, RWS. -/
def TILE_GARNET_PARITY_LOG__BANK : Fld := ⟨TILE_GARNET_PARITY_LOG, 23, 1⟩
/-- 03_garnet_array.md Table 3.10 R92 -/
def TILE_GARNET_PLANE_COUNT : Reg := ⟨0x02003140, 0x10000, 288, 0x0, 1, 0x0⟩
/-- COUNT of TILE_GARNET_PLANE_COUNT, RO. -/
def TILE_GARNET_PLANE_COUNT__COUNT : Fld := ⟨TILE_GARNET_PLANE_COUNT, 0, 63⟩
/-- SAT of TILE_GARNET_PLANE_COUNT, RO. -/
def TILE_GARNET_PLANE_COUNT__SAT : Fld := ⟨TILE_GARNET_PLANE_COUNT, 63, 1⟩
/-- 03_garnet_array.md Table 3.10 R92 -/
def TILE_GARNET_SKIP_COUNT : Reg := ⟨0x02003148, 0x10000, 288, 0x0, 1, 0x0⟩
/-- COUNT of TILE_GARNET_SKIP_COUNT, RO. -/
def TILE_GARNET_SKIP_COUNT__COUNT : Fld := ⟨TILE_GARNET_SKIP_COUNT, 0, 63⟩
/-- SAT of TILE_GARNET_SKIP_COUNT, RO. -/
def TILE_GARNET_SKIP_COUNT__SAT : Fld := ⟨TILE_GARNET_SKIP_COUNT, 63, 1⟩
/-- 03_garnet_array.md Table 3.10 R92 -/
def TILE_GARNET_SWAP_COUNT : Reg := ⟨0x02003150, 0x10000, 288, 0x0, 1, 0x0⟩
/-- COUNT of TILE_GARNET_SWAP_COUNT, RO. -/
def TILE_GARNET_SWAP_COUNT__COUNT : Fld := ⟨TILE_GARNET_SWAP_COUNT, 0, 63⟩
/-- SAT of TILE_GARNET_SWAP_COUNT, RO. -/
def TILE_GARNET_SWAP_COUNT__SAT : Fld := ⟨TILE_GARNET_SWAP_COUNT, 63, 1⟩
/-- 03_garnet_array.md Table 3.10 R92 -/
def TILE_GARNET_SWAP_WAIT : Reg := ⟨0x02003158, 0x10000, 288, 0x0, 1, 0x0⟩
/-- COUNT of TILE_GARNET_SWAP_WAIT, RO. -/
def TILE_GARNET_SWAP_WAIT__COUNT : Fld := ⟨TILE_GARNET_SWAP_WAIT, 0, 63⟩
/-- SAT of TILE_GARNET_SWAP_WAIT, RO. -/
def TILE_GARNET_SWAP_WAIT__SAT : Fld := ⟨TILE_GARNET_SWAP_WAIT, 63, 1⟩
/-- 03_garnet_array.md Table 3.10 R92 -/
def TILE_GARNET_GATED_COUNT : Reg := ⟨0x02003160, 0x10000, 288, 0x0, 1, 0x0⟩
/-- COUNT of TILE_GARNET_GATED_COUNT, RO. -/
def TILE_GARNET_GATED_COUNT__COUNT : Fld := ⟨TILE_GARNET_GATED_COUNT, 0, 63⟩
/-- SAT of TILE_GARNET_GATED_COUNT, RO. -/
def TILE_GARNET_GATED_COUNT__SAT : Fld := ⟨TILE_GARNET_GATED_COUNT, 63, 1⟩
/-- 03_garnet_array.md Table 3.10 R92 -/
def TILE_GARNET_PARITY_COUNT : Reg := ⟨0x02003168, 0x10000, 288, 0x0, 1, 0x0⟩
/-- COUNT of TILE_GARNET_PARITY_COUNT, RO. -/
def TILE_GARNET_PARITY_COUNT__COUNT : Fld := ⟨TILE_GARNET_PARITY_COUNT, 0, 63⟩
/-- SAT of TILE_GARNET_PARITY_COUNT, RO. -/
def TILE_GARNET_PARITY_COUNT__SAT : Fld := ⟨TILE_GARNET_PARITY_COUNT, 63, 1⟩
/-- 04_tile_commands.md Table 4.16 R119 -/
def TILE_COLLIE_CTRL : Reg := ⟨0x02001000, 0x10000, 288, 0x0, 1, 0x0⟩
/-- RUN of TILE_COLLIE_CTRL, W1S. -/
def TILE_COLLIE_CTRL__RUN : Fld := ⟨TILE_COLLIE_CTRL, 0, 1⟩
/-- ABORT of TILE_COLLIE_CTRL, WO. -/
def TILE_COLLIE_CTRL__ABORT : Fld := ⟨TILE_COLLIE_CTRL, 1, 1⟩
/-- STRICT_SLOTS of TILE_COLLIE_CTRL, RW. -/
def TILE_COLLIE_CTRL__STRICT_SLOTS : Fld := ⟨TILE_COLLIE_CTRL, 2, 1⟩
/-- CLR_FAULT of TILE_COLLIE_CTRL, WO. -/
def TILE_COLLIE_CTRL__CLR_FAULT : Fld := ⟨TILE_COLLIE_CTRL, 3, 1⟩
/-- ARM of TILE_COLLIE_CTRL, RW. -/
def TILE_COLLIE_CTRL__ARM : Fld := ⟨TILE_COLLIE_CTRL, 4, 1⟩
/-- 04_tile_commands.md Table 4.17 R119 -/
def TILE_COLLIE_STATUS : Reg := ⟨0x02001008, 0x10000, 288, 0x0, 1, 0x4⟩
/-- STATE of TILE_COLLIE_STATUS, RO. -/
def TILE_COLLIE_STATUS__STATE : Fld := ⟨TILE_COLLIE_STATUS, 0, 2⟩
/-- QUIET of TILE_COLLIE_STATUS, RO. -/
def TILE_COLLIE_STATUS__QUIET : Fld := ⟨TILE_COLLIE_STATUS, 2, 1⟩
/-- CFG_ERR of TILE_COLLIE_STATUS, W1C. -/
def TILE_COLLIE_STATUS__CFG_ERR : Fld := ⟨TILE_COLLIE_STATUS, 3, 1⟩
/-- ABORTED of TILE_COLLIE_STATUS, RO. -/
def TILE_COLLIE_STATUS__ABORTED : Fld := ⟨TILE_COLLIE_STATUS, 4, 1⟩
/-- FAULTED of TILE_COLLIE_STATUS, RO. -/
def TILE_COLLIE_STATUS__FAULTED : Fld := ⟨TILE_COLLIE_STATUS, 5, 1⟩
/-- DONE_MASK of TILE_COLLIE_STATUS, RO. -/
def TILE_COLLIE_STATUS__DONE_MASK : Fld := ⟨TILE_COLLIE_STATUS, 16, 16⟩
/-- BLOCK_MASK of TILE_COLLIE_STATUS, RO. -/
def TILE_COLLIE_STATUS__BLOCK_MASK : Fld := ⟨TILE_COLLIE_STATUS, 32, 16⟩
/-- 04_tile_commands.md Table 4.18 R119 -/
def TILE_COLLIE_WD : Reg := ⟨0x02001010, 0x10000, 288, 0x0, 1, 0xA000003E8⟩
/-- TOKEN_LIMIT of TILE_COLLIE_WD, RW. -/
def TILE_COLLIE_WD__TOKEN_LIMIT : Fld := ⟨TILE_COLLIE_WD, 0, 20⟩
/-- DL_LIMIT of TILE_COLLIE_WD, RW. -/
def TILE_COLLIE_WD__DL_LIMIT : Fld := ⟨TILE_COLLIE_WD, 32, 12⟩
/-- 04_tile_commands.md Table 4.19 R119 -/
def TILE_FAULT : Reg := ⟨0x02001018, 0x10000, 288, 0x0, 1, 0x0⟩
/-- VALID of TILE_FAULT, RO. -/
def TILE_FAULT__VALID : Fld := ⟨TILE_FAULT, 0, 1⟩
/-- MULTI of TILE_FAULT, RO. -/
def TILE_FAULT__MULTI : Fld := ⟨TILE_FAULT, 1, 1⟩
/-- CLASS of TILE_FAULT, RO. -/
def TILE_FAULT__CLASS : Fld := ⟨TILE_FAULT, 2, 1⟩
/-- CODE of TILE_FAULT, RO. -/
def TILE_FAULT__CODE : Fld := ⟨TILE_FAULT, 8, 8⟩
/-- STREAM of TILE_FAULT, RO. -/
def TILE_FAULT__STREAM : Fld := ⟨TILE_FAULT, 16, 4⟩
/-- UNIT of TILE_FAULT, RO. -/
def TILE_FAULT__UNIT : Fld := ⟨TILE_FAULT, 20, 4⟩
/-- INDEX of TILE_FAULT, RO. -/
def TILE_FAULT__INDEX : Fld := ⟨TILE_FAULT, 24, 20⟩
/-- TAG of TILE_FAULT, RO. -/
def TILE_FAULT__TAG : Fld := ⟨TILE_FAULT, 44, 12⟩
/-- 04_tile_commands.md Table 4.20 R119 -/
def TILE_FAULT_INFO : Reg := ⟨0x02001020, 0x10000, 288, 0x0, 1, 0x0⟩
/-- INFO of TILE_FAULT_INFO, RO. -/
def TILE_FAULT_INFO__INFO : Fld := ⟨TILE_FAULT_INFO, 0, 64⟩
/-- 04_tile_commands.md Table 4.21 R119 -/
def TILE_STREAM_CFG : Reg := ⟨0x02001100, 0x10000, 288, 0x40, 16, 0x600⟩
/-- ENABLE of TILE_STREAM_CFG, RW. -/
def TILE_STREAM_CFG__ENABLE : Fld := ⟨TILE_STREAM_CFG, 0, 1⟩
/-- PRIO of TILE_STREAM_CFG, RW. -/
def TILE_STREAM_CFG__PRIO : Fld := ⟨TILE_STREAM_CFG, 1, 2⟩
/-- CLASS of TILE_STREAM_CFG, RW. -/
def TILE_STREAM_CFG__CLASS : Fld := ⟨TILE_STREAM_CFG, 3, 3⟩
/-- LOG2SIZE of TILE_STREAM_CFG, RW. -/
def TILE_STREAM_CFG__LOG2SIZE : Fld := ⟨TILE_STREAM_CFG, 8, 5⟩
/-- BASE of TILE_STREAM_CFG, RW. -/
def TILE_STREAM_CFG__BASE : Fld := ⟨TILE_STREAM_CFG, 16, 38⟩
/-- 04_tile_commands.md Table 4.22 R119 -/
def TILE_STREAM_HEAD : Reg := ⟨0x02001108, 0x10000, 288, 0x40, 16, 0x0⟩
/-- HEAD of TILE_STREAM_HEAD, RW. -/
def TILE_STREAM_HEAD__HEAD : Fld := ⟨TILE_STREAM_HEAD, 0, 20⟩
/-- LOOP_ACTIVE of TILE_STREAM_HEAD, RO. -/
def TILE_STREAM_HEAD__LOOP_ACTIVE : Fld := ⟨TILE_STREAM_HEAD, 20, 1⟩
/-- LOOP_CNT of TILE_STREAM_HEAD, RO. -/
def TILE_STREAM_HEAD__LOOP_CNT : Fld := ⟨TILE_STREAM_HEAD, 32, 16⟩
/-- 04_tile_commands.md Table 4.22 R119 -/
def TILE_STREAM_TAIL : Reg := ⟨0x02001110, 0x10000, 288, 0x40, 16, 0x0⟩
/-- TAIL of TILE_STREAM_TAIL, RW. -/
def TILE_STREAM_TAIL__TAIL : Fld := ⟨TILE_STREAM_TAIL, 0, 20⟩
/-- 04_tile_commands.md Table 4.23 R119 -/
def TILE_STREAM_STATUS : Reg := ⟨0x02001118, 0x10000, 288, 0x40, 16, 0x0⟩
/-- STATE of TILE_STREAM_STATUS, RO. -/
def TILE_STREAM_STATUS__STATE : Fld := ⟨TILE_STREAM_STATUS, 0, 3⟩
/-- BLOCK_SLOT of TILE_STREAM_STATUS, RO. -/
def TILE_STREAM_STATUS__BLOCK_SLOT : Fld := ⟨TILE_STREAM_STATUS, 8, 6⟩
/-- BLOCK_ON of TILE_STREAM_STATUS, RO. -/
def TILE_STREAM_STATUS__BLOCK_ON : Fld := ⟨TILE_STREAM_STATUS, 14, 1⟩
/-- BLOCK_US of TILE_STREAM_STATUS, RO. -/
def TILE_STREAM_STATUS__BLOCK_US : Fld := ⟨TILE_STREAM_STATUS, 32, 20⟩
/-- 04_tile_commands.md R100 -/
def TILE_STREAM_DONE : Reg := ⟨0x02001120, 0x10000, 288, 0x40, 16, 0x0⟩
/-- COUNT of TILE_STREAM_DONE, RO. -/
def TILE_STREAM_DONE__COUNT : Fld := ⟨TILE_STREAM_DONE, 0, 63⟩
/-- SAT of TILE_STREAM_DONE, RO. -/
def TILE_STREAM_DONE__SAT : Fld := ⟨TILE_STREAM_DONE, 63, 1⟩
/-- 04_tile_commands.md Table 4.24 R119 -/
def TILE_SLOT_CFG : Reg := ⟨0x02001800, 0x10000, 288, 0x10, 64, 0x0⟩
/-- BASE of TILE_SLOT_CFG, RW. -/
def TILE_SLOT_CFG__BASE : Fld := ⟨TILE_SLOT_CFG, 0, 14⟩
/-- SIZE of TILE_SLOT_CFG, RW. -/
def TILE_SLOT_CFG__SIZE : Fld := ⟨TILE_SLOT_CFG, 16, 14⟩
/-- PRODUCER of TILE_SLOT_CFG, RW. -/
def TILE_SLOT_CFG__PRODUCER : Fld := ⟨TILE_SLOT_CFG, 32, 5⟩
/-- CONSUMER of TILE_SLOT_CFG, RW. -/
def TILE_SLOT_CFG__CONSUMER : Fld := ⟨TILE_SLOT_CFG, 40, 4⟩
/-- INIT_FULL of TILE_SLOT_CFG, RW. -/
def TILE_SLOT_CFG__INIT_FULL : Fld := ⟨TILE_SLOT_CFG, 48, 1⟩
/-- VALID of TILE_SLOT_CFG, RW. -/
def TILE_SLOT_CFG__VALID : Fld := ⟨TILE_SLOT_CFG, 63, 1⟩
/-- 04_tile_commands.md Table 4.25 R119 -/
def TILE_SLOT_STATE : Reg := ⟨0x02001808, 0x10000, 288, 0x10, 64, 0x0⟩
/-- STATE of TILE_SLOT_STATE, RO. -/
def TILE_SLOT_STATE__STATE : Fld := ⟨TILE_SLOT_STATE, 0, 2⟩
/-- ERR of TILE_SLOT_STATE, W1C. -/
def TILE_SLOT_STATE__ERR : Fld := ⟨TILE_SLOT_STATE, 2, 1⟩
/-- P_WAIT of TILE_SLOT_STATE, RO. -/
def TILE_SLOT_STATE__P_WAIT : Fld := ⟨TILE_SLOT_STATE, 3, 1⟩
/-- C_WAIT of TILE_SLOT_STATE, RO. -/
def TILE_SLOT_STATE__C_WAIT : Fld := ⟨TILE_SLOT_STATE, 4, 1⟩
/-- 04_tile_commands.md Table 4.26 R120 -/
def TILE_DISPATCH_COUNT : Reg := ⟨0x02001040, 0x10000, 288, 0x0, 1, 0x0⟩
/-- COUNT of TILE_DISPATCH_COUNT, RO. -/
def TILE_DISPATCH_COUNT__COUNT : Fld := ⟨TILE_DISPATCH_COUNT, 0, 63⟩
/-- SAT of TILE_DISPATCH_COUNT, RO. -/
def TILE_DISPATCH_COUNT__SAT : Fld := ⟨TILE_DISPATCH_COUNT, 63, 1⟩
/-- 04_tile_commands.md Table 4.26 R120 -/
def TILE_TOKEN_STALL_COUNT : Reg := ⟨0x02001048, 0x10000, 288, 0x0, 1, 0x0⟩
/-- COUNT of TILE_TOKEN_STALL_COUNT, RO. -/
def TILE_TOKEN_STALL_COUNT__COUNT : Fld := ⟨TILE_TOKEN_STALL_COUNT, 0, 63⟩
/-- SAT of TILE_TOKEN_STALL_COUNT, RO. -/
def TILE_TOKEN_STALL_COUNT__SAT : Fld := ⟨TILE_TOKEN_STALL_COUNT, 63, 1⟩
/-- 04_tile_commands.md Table 4.26 R120 -/
def TILE_RAW_EMPTY_COUNT : Reg := ⟨0x02001050, 0x10000, 288, 0x0, 1, 0x0⟩
/-- COUNT of TILE_RAW_EMPTY_COUNT, RO. -/
def TILE_RAW_EMPTY_COUNT__COUNT : Fld := ⟨TILE_RAW_EMPTY_COUNT, 0, 63⟩
/-- SAT of TILE_RAW_EMPTY_COUNT, RO. -/
def TILE_RAW_EMPTY_COUNT__SAT : Fld := ⟨TILE_RAW_EMPTY_COUNT, 63, 1⟩
/-- 04_tile_commands.md Table 4.26 R120 -/
def TILE_FAULT_COUNT : Reg := ⟨0x02001058, 0x10000, 288, 0x0, 1, 0x0⟩
/-- COUNT of TILE_FAULT_COUNT, RO. -/
def TILE_FAULT_COUNT__COUNT : Fld := ⟨TILE_FAULT_COUNT, 0, 63⟩
/-- SAT of TILE_FAULT_COUNT, RO. -/
def TILE_FAULT_COUNT__SAT : Fld := ⟨TILE_FAULT_COUNT, 63, 1⟩
/-- 05_beryl_vector.md Table 5.7 R140 -/
def TILE_BERYL_STATUS : Reg := ⟨0x02003400, 0x10000, 288, 0x0, 1, 0x0⟩
/-- INVALID of TILE_BERYL_STATUS, W1C. -/
def TILE_BERYL_STATUS__INVALID : Fld := ⟨TILE_BERYL_STATUS, 0, 1⟩
/-- DIVZERO of TILE_BERYL_STATUS, W1C. -/
def TILE_BERYL_STATUS__DIVZERO : Fld := ⟨TILE_BERYL_STATUS, 1, 1⟩
/-- OVF of TILE_BERYL_STATUS, W1C. -/
def TILE_BERYL_STATUS__OVF : Fld := ⟨TILE_BERYL_STATUS, 2, 1⟩
/-- UNF of TILE_BERYL_STATUS, W1C. -/
def TILE_BERYL_STATUS__UNF : Fld := ⟨TILE_BERYL_STATUS, 3, 1⟩
/-- MASKED_ROW of TILE_BERYL_STATUS, W1C. -/
def TILE_BERYL_STATUS__MASKED_ROW : Fld := ⟨TILE_BERYL_STATUS, 4, 1⟩
/-- BUSY of TILE_BERYL_STATUS, RO. -/
def TILE_BERYL_STATUS__BUSY : Fld := ⟨TILE_BERYL_STATUS, 5, 1⟩
/-- 05_beryl_vector.md Table 5.8 R141 -/
def TILE_BERYL_OP_COUNT : Reg := ⟨0x02003408, 0x10000, 288, 0x0, 1, 0x0⟩
/-- COUNT of TILE_BERYL_OP_COUNT, RO. -/
def TILE_BERYL_OP_COUNT__COUNT : Fld := ⟨TILE_BERYL_OP_COUNT, 0, 63⟩
/-- SAT of TILE_BERYL_OP_COUNT, RO. -/
def TILE_BERYL_OP_COUNT__SAT : Fld := ⟨TILE_BERYL_OP_COUNT, 63, 1⟩
/-- 05_beryl_vector.md Table 5.8 R141 -/
def TILE_BERYL_ELEM_COUNT : Reg := ⟨0x02003410, 0x10000, 288, 0x0, 1, 0x0⟩
/-- COUNT of TILE_BERYL_ELEM_COUNT, RO. -/
def TILE_BERYL_ELEM_COUNT__COUNT : Fld := ⟨TILE_BERYL_ELEM_COUNT, 0, 63⟩
/-- SAT of TILE_BERYL_ELEM_COUNT, RO. -/
def TILE_BERYL_ELEM_COUNT__SAT : Fld := ⟨TILE_BERYL_ELEM_COUNT, 63, 1⟩
/-- 05_beryl_vector.md Table 5.8 R141 -/
def TILE_BERYL_NAN_COUNT : Reg := ⟨0x02003418, 0x10000, 288, 0x0, 1, 0x0⟩
/-- COUNT of TILE_BERYL_NAN_COUNT, RO. -/
def TILE_BERYL_NAN_COUNT__COUNT : Fld := ⟨TILE_BERYL_NAN_COUNT, 0, 63⟩
/-- SAT of TILE_BERYL_NAN_COUNT, RO. -/
def TILE_BERYL_NAN_COUNT__SAT : Fld := ⟨TILE_BERYL_NAN_COUNT, 63, 1⟩
/-- 05_beryl_vector.md Table 5.8 R141 -/
def TILE_BERYL_SAMPLE_COUNT : Reg := ⟨0x02003420, 0x10000, 288, 0x0, 1, 0x0⟩
/-- COUNT of TILE_BERYL_SAMPLE_COUNT, RO. -/
def TILE_BERYL_SAMPLE_COUNT__COUNT : Fld := ⟨TILE_BERYL_SAMPLE_COUNT, 0, 63⟩
/-- SAT of TILE_BERYL_SAMPLE_COUNT, RO. -/
def TILE_BERYL_SAMPLE_COUNT__SAT : Fld := ⟨TILE_BERYL_SAMPLE_COUNT, 63, 1⟩
/-- 06_spinel_dma.md Table 6.9 R161 -/
def TILE_SPINEL_CTRL : Reg := ⟨0x02003800, 0x10000, 288, 0x0, 1, 0x0⟩
/-- INJ_ARM of TILE_SPINEL_CTRL, RW. -/
def TILE_SPINEL_CTRL__INJ_ARM : Fld := ⟨TILE_SPINEL_CTRL, 0, 1⟩
/-- INJ_DOUBLE of TILE_SPINEL_CTRL, RW. -/
def TILE_SPINEL_CTRL__INJ_DOUBLE : Fld := ⟨TILE_SPINEL_CTRL, 1, 1⟩
/-- INJ_WORD of TILE_SPINEL_CTRL, RW. -/
def TILE_SPINEL_CTRL__INJ_WORD : Fld := ⟨TILE_SPINEL_CTRL, 16, 14⟩
/-- 06_spinel_dma.md Table 6.10 R161 -/
def TILE_SPINEL_ECC_LOG : Reg := ⟨0x02003808, 0x10000, 288, 0x0, 1, 0x0⟩
/-- VALID of TILE_SPINEL_ECC_LOG, RWS. -/
def TILE_SPINEL_ECC_LOG__VALID : Fld := ⟨TILE_SPINEL_ECC_LOG, 0, 1⟩
/-- MULTI of TILE_SPINEL_ECC_LOG, RWS. -/
def TILE_SPINEL_ECC_LOG__MULTI : Fld := ⟨TILE_SPINEL_ECC_LOG, 1, 1⟩
/-- WORD of TILE_SPINEL_ECC_LOG, RWS. -/
def TILE_SPINEL_ECC_LOG__WORD : Fld := ⟨TILE_SPINEL_ECC_LOG, 16, 14⟩
/-- QUARTER of TILE_SPINEL_ECC_LOG, RWS. -/
def TILE_SPINEL_ECC_LOG__QUARTER : Fld := ⟨TILE_SPINEL_ECC_LOG, 30, 2⟩
/-- BANK of TILE_SPINEL_ECC_LOG, RWS. -/
def TILE_SPINEL_ECC_LOG__BANK : Fld := ⟨TILE_SPINEL_ECC_LOG, 32, 5⟩
/-- 06_spinel_dma.md Table 6.11 R161 -/
def TILE_DMA_CTRL : Reg := ⟨0x02004000, 0x10000, 288, 0x0, 1, 0x100064⟩
/-- REMOTE_TIMEOUT of TILE_DMA_CTRL, RW. -/
def TILE_DMA_CTRL__REMOTE_TIMEOUT : Fld := ⟨TILE_DMA_CTRL, 0, 16⟩
/-- MERGE_OPEN of TILE_DMA_CTRL, RW. -/
def TILE_DMA_CTRL__MERGE_OPEN : Fld := ⟨TILE_DMA_CTRL, 16, 5⟩
/-- 06_spinel_dma.md Table 6.12 R161 -/
def TILE_DMA_STATUS : Reg := ⟨0x02004008, 0x10000, 288, 0x0, 1, 0x0⟩
/-- BUSY of TILE_DMA_STATUS, RO. -/
def TILE_DMA_STATUS__BUSY : Fld := ⟨TILE_DMA_STATUS, 0, 1⟩
/-- QUEUED of TILE_DMA_STATUS, RO. -/
def TILE_DMA_STATUS__QUEUED : Fld := ⟨TILE_DMA_STATUS, 1, 5⟩
/-- ACTIVE of TILE_DMA_STATUS, RO. -/
def TILE_DMA_STATUS__ACTIVE : Fld := ⟨TILE_DMA_STATUS, 6, 3⟩
/-- 06_spinel_dma.md R162 -/
def TILE_DMA_LAST : Reg := ⟨0x02004100, 0x10000, 288, 0x8, 16, 0x0⟩
/-- STATUS of TILE_DMA_LAST, RO. -/
def TILE_DMA_LAST__STATUS : Fld := ⟨TILE_DMA_LAST, 0, 64⟩
/-- 06_spinel_dma.md Table 6.13 R163 -/
def TILE_SPINEL_CE_COUNT : Reg := ⟨0x02003840, 0x10000, 288, 0x0, 1, 0x0⟩
/-- COUNT of TILE_SPINEL_CE_COUNT, RO. -/
def TILE_SPINEL_CE_COUNT__COUNT : Fld := ⟨TILE_SPINEL_CE_COUNT, 0, 63⟩
/-- SAT of TILE_SPINEL_CE_COUNT, RO. -/
def TILE_SPINEL_CE_COUNT__SAT : Fld := ⟨TILE_SPINEL_CE_COUNT, 63, 1⟩
/-- 06_spinel_dma.md Table 6.13 R163 -/
def TILE_SPINEL_UE_COUNT : Reg := ⟨0x02003848, 0x10000, 288, 0x0, 1, 0x0⟩
/-- COUNT of TILE_SPINEL_UE_COUNT, RO. -/
def TILE_SPINEL_UE_COUNT__COUNT : Fld := ⟨TILE_SPINEL_UE_COUNT, 0, 63⟩
/-- SAT of TILE_SPINEL_UE_COUNT, RO. -/
def TILE_SPINEL_UE_COUNT__SAT : Fld := ⟨TILE_SPINEL_UE_COUNT, 63, 1⟩
/-- 06_spinel_dma.md Table 6.13 R163 -/
def TILE_SPINEL_D_DEFER_COUNT : Reg := ⟨0x02003850, 0x10000, 288, 0x0, 1, 0x0⟩
/-- COUNT of TILE_SPINEL_D_DEFER_COUNT, RO. -/
def TILE_SPINEL_D_DEFER_COUNT__COUNT : Fld := ⟨TILE_SPINEL_D_DEFER_COUNT, 0, 63⟩
/-- SAT of TILE_SPINEL_D_DEFER_COUNT, RO. -/
def TILE_SPINEL_D_DEFER_COUNT__SAT : Fld := ⟨TILE_SPINEL_D_DEFER_COUNT, 63, 1⟩
/-- 06_spinel_dma.md Table 6.13 R163 -/
def TILE_SPINEL_E_REFUSE_COUNT : Reg := ⟨0x02003858, 0x10000, 288, 0x0, 1, 0x0⟩
/-- COUNT of TILE_SPINEL_E_REFUSE_COUNT, RO. -/
def TILE_SPINEL_E_REFUSE_COUNT__COUNT : Fld := ⟨TILE_SPINEL_E_REFUSE_COUNT, 0, 63⟩
/-- SAT of TILE_SPINEL_E_REFUSE_COUNT, RO. -/
def TILE_SPINEL_E_REFUSE_COUNT__SAT : Fld := ⟨TILE_SPINEL_E_REFUSE_COUNT, 63, 1⟩
/-- 06_spinel_dma.md Table 6.13 R163 -/
def TILE_DMA_SECTOR_COUNT : Reg := ⟨0x02004040, 0x10000, 288, 0x0, 1, 0x0⟩
/-- COUNT of TILE_DMA_SECTOR_COUNT, RO. -/
def TILE_DMA_SECTOR_COUNT__COUNT : Fld := ⟨TILE_DMA_SECTOR_COUNT, 0, 63⟩
/-- SAT of TILE_DMA_SECTOR_COUNT, RO. -/
def TILE_DMA_SECTOR_COUNT__SAT : Fld := ⟨TILE_DMA_SECTOR_COUNT, 63, 1⟩
/-- 06_spinel_dma.md Table 6.13 R163 -/
def TILE_DMA_BURST_COUNT : Reg := ⟨0x02004048, 0x10000, 288, 0x0, 1, 0x0⟩
/-- COUNT of TILE_DMA_BURST_COUNT, RO. -/
def TILE_DMA_BURST_COUNT__COUNT : Fld := ⟨TILE_DMA_BURST_COUNT, 0, 63⟩
/-- SAT of TILE_DMA_BURST_COUNT, RO. -/
def TILE_DMA_BURST_COUNT__SAT : Fld := ⟨TILE_DMA_BURST_COUNT, 63, 1⟩
/-- 06_spinel_dma.md Table 6.13 R163 -/
def TILE_DMA_REMOTE_COUNT : Reg := ⟨0x02004050, 0x10000, 288, 0x0, 1, 0x0⟩
/-- COUNT of TILE_DMA_REMOTE_COUNT, RO. -/
def TILE_DMA_REMOTE_COUNT__COUNT : Fld := ⟨TILE_DMA_REMOTE_COUNT, 0, 63⟩
/-- SAT of TILE_DMA_REMOTE_COUNT, RO. -/
def TILE_DMA_REMOTE_COUNT__SAT : Fld := ⟨TILE_DMA_REMOTE_COUNT, 63, 1⟩
/-- 06_spinel_dma.md Table 6.13 R163 -/
def TILE_DMA_PART_FAIL_COUNT : Reg := ⟨0x02004058, 0x10000, 288, 0x0, 1, 0x0⟩
/-- COUNT of TILE_DMA_PART_FAIL_COUNT, RO. -/
def TILE_DMA_PART_FAIL_COUNT__COUNT : Fld := ⟨TILE_DMA_PART_FAIL_COUNT, 0, 63⟩
/-- SAT of TILE_DMA_PART_FAIL_COUNT, RO. -/
def TILE_DMA_PART_FAIL_COUNT__SAT : Fld := ⟨TILE_DMA_PART_FAIL_COUNT, 63, 1⟩
/-- 06_spinel_dma.md Table 6.13 R163 -/
def TILE_DMA_POISON_COUNT : Reg := ⟨0x02004060, 0x10000, 288, 0x0, 1, 0x0⟩
/-- COUNT of TILE_DMA_POISON_COUNT, RO. -/
def TILE_DMA_POISON_COUNT__COUNT : Fld := ⟨TILE_DMA_POISON_COUNT, 0, 63⟩
/-- SAT of TILE_DMA_POISON_COUNT, RO. -/
def TILE_DMA_POISON_COUNT__SAT : Fld := ⟨TILE_DMA_POISON_COUNT, 63, 1⟩
/-- 07_vaults.md Table 7.9 R187 -/
def TILE_VAULT_CTRL : Reg := ⟨0x02005000, 0x10000, 288, 0x0, 1, 0x31125⟩
/-- SPLIT_RD of TILE_VAULT_CTRL, RW. -/
def TILE_VAULT_CTRL__SPLIT_RD : Fld := ⟨TILE_VAULT_CTRL, 0, 4⟩
/-- SPLIT_WR of TILE_VAULT_CTRL, RW. -/
def TILE_VAULT_CTRL__SPLIT_WR : Fld := ⟨TILE_VAULT_CTRL, 4, 4⟩
/-- SPLIT_RM of TILE_VAULT_CTRL, RW. -/
def TILE_VAULT_CTRL__SPLIT_RM : Fld := ⟨TILE_VAULT_CTRL, 8, 4⟩
/-- LEND of TILE_VAULT_CTRL, RW. -/
def TILE_VAULT_CTRL__LEND : Fld := ⟨TILE_VAULT_CTRL, 12, 1⟩
/-- RETRY_LIMIT of TILE_VAULT_CTRL, RW. -/
def TILE_VAULT_CTRL__RETRY_LIMIT : Fld := ⟨TILE_VAULT_CTRL, 16, 3⟩
/-- 07_vaults.md Table 7.10 R187 -/
def TILE_VAULT_STATUS : Reg := ⟨0x02005008, 0x10000, 288, 0x0, 1, 0x0⟩
/-- BAND of TILE_VAULT_STATUS, RO. -/
def TILE_VAULT_STATUS__BAND : Fld := ⟨TILE_VAULT_STATUS, 0, 2⟩
/-- SELF_REFRESH of TILE_VAULT_STATUS, RO. -/
def TILE_VAULT_STATUS__SELF_REFRESH : Fld := ⟨TILE_VAULT_STATUS, 2, 1⟩
/-- TRAINED of TILE_VAULT_STATUS, RO. -/
def TILE_VAULT_STATUS__TRAINED : Fld := ⟨TILE_VAULT_STATUS, 3, 1⟩
/-- CH_OUT of TILE_VAULT_STATUS, RO. -/
def TILE_VAULT_STATUS__CH_OUT : Fld := ⟨TILE_VAULT_STATUS, 4, 8⟩
/-- CAP_MIB of TILE_VAULT_STATUS, RO. -/
def TILE_VAULT_STATUS__CAP_MIB : Fld := ⟨TILE_VAULT_STATUS, 16, 12⟩
/-- 07_vaults.md Table 7.11 R187 -/
def TILE_VAULT_CH_STATUS : Reg := ⟨0x02005100, 0x10000, 288, 0x20, 8, 0x2⟩
/-- STATE of TILE_VAULT_CH_STATUS, RO. -/
def TILE_VAULT_CH_STATUS__STATE : Fld := ⟨TILE_VAULT_CH_STATUS, 0, 2⟩
/-- SPARES_USED of TILE_VAULT_CH_STATUS, RO. -/
def TILE_VAULT_CH_STATUS__SPARES_USED : Fld := ⟨TILE_VAULT_CH_STATUS, 8, 6⟩
/-- FUSE_SPARES of TILE_VAULT_CH_STATUS, RO. -/
def TILE_VAULT_CH_STATUS__FUSE_SPARES : Fld := ⟨TILE_VAULT_CH_STATUS, 14, 6⟩
/-- OUT_CONN of TILE_VAULT_CH_STATUS, RO. -/
def TILE_VAULT_CH_STATUS__OUT_CONN : Fld := ⟨TILE_VAULT_CH_STATUS, 32, 11⟩
/-- OUT_VALID of TILE_VAULT_CH_STATUS, RO. -/
def TILE_VAULT_CH_STATUS__OUT_VALID : Fld := ⟨TILE_VAULT_CH_STATUS, 43, 1⟩
/-- 07_vaults.md Table 7.12 R187 -/
def TILE_VAULT_REPAIR_SEL : Reg := ⟨0x02005108, 0x10000, 288, 0x20, 8, 0x0⟩
/-- ENTRY of TILE_VAULT_REPAIR_SEL, RW. -/
def TILE_VAULT_REPAIR_SEL__ENTRY : Fld := ⟨TILE_VAULT_REPAIR_SEL, 0, 5⟩
/-- 07_vaults.md Table 7.12 R187 -/
def TILE_VAULT_REPAIR_DATA : Reg := ⟨0x02005110, 0x10000, 288, 0x20, 8, 0x0⟩
/-- CONN of TILE_VAULT_REPAIR_DATA, RO. -/
def TILE_VAULT_REPAIR_DATA__CONN : Fld := ⟨TILE_VAULT_REPAIR_DATA, 0, 11⟩
/-- VALID of TILE_VAULT_REPAIR_DATA, RO. -/
def TILE_VAULT_REPAIR_DATA__VALID : Fld := ⟨TILE_VAULT_REPAIR_DATA, 11, 1⟩
/-- SOURCE of TILE_VAULT_REPAIR_DATA, RO. -/
def TILE_VAULT_REPAIR_DATA__SOURCE : Fld := ⟨TILE_VAULT_REPAIR_DATA, 12, 1⟩
/-- 07_vaults.md R180 -/
def TILE_VAULT_CH_RETRY_COUNT : Reg := ⟨0x02005118, 0x10000, 288, 0x20, 8, 0x0⟩
/-- COUNT of TILE_VAULT_CH_RETRY_COUNT, RO. -/
def TILE_VAULT_CH_RETRY_COUNT__COUNT : Fld := ⟨TILE_VAULT_CH_RETRY_COUNT, 0, 63⟩
/-- SAT of TILE_VAULT_CH_RETRY_COUNT, RO. -/
def TILE_VAULT_CH_RETRY_COUNT__SAT : Fld := ⟨TILE_VAULT_CH_RETRY_COUNT, 63, 1⟩
/-- 07_vaults.md Table 7.13 R187 -/
def TILE_VAULT_RD_BURST_COUNT : Reg := ⟨0x02005040, 0x10000, 288, 0x0, 1, 0x0⟩
/-- COUNT of TILE_VAULT_RD_BURST_COUNT, RO. -/
def TILE_VAULT_RD_BURST_COUNT__COUNT : Fld := ⟨TILE_VAULT_RD_BURST_COUNT, 0, 63⟩
/-- SAT of TILE_VAULT_RD_BURST_COUNT, RO. -/
def TILE_VAULT_RD_BURST_COUNT__SAT : Fld := ⟨TILE_VAULT_RD_BURST_COUNT, 63, 1⟩
/-- 07_vaults.md Table 7.13 R187 -/
def TILE_VAULT_WR_BURST_COUNT : Reg := ⟨0x02005048, 0x10000, 288, 0x0, 1, 0x0⟩
/-- COUNT of TILE_VAULT_WR_BURST_COUNT, RO. -/
def TILE_VAULT_WR_BURST_COUNT__COUNT : Fld := ⟨TILE_VAULT_WR_BURST_COUNT, 0, 63⟩
/-- SAT of TILE_VAULT_WR_BURST_COUNT, RO. -/
def TILE_VAULT_WR_BURST_COUNT__SAT : Fld := ⟨TILE_VAULT_WR_BURST_COUNT, 63, 1⟩
/-- 07_vaults.md Table 7.13 R187 -/
def TILE_VAULT_RM_BURST_COUNT : Reg := ⟨0x02005050, 0x10000, 288, 0x0, 1, 0x0⟩
/-- COUNT of TILE_VAULT_RM_BURST_COUNT, RO. -/
def TILE_VAULT_RM_BURST_COUNT__COUNT : Fld := ⟨TILE_VAULT_RM_BURST_COUNT, 0, 63⟩
/-- SAT of TILE_VAULT_RM_BURST_COUNT, RO. -/
def TILE_VAULT_RM_BURST_COUNT__SAT : Fld := ⟨TILE_VAULT_RM_BURST_COUNT, 63, 1⟩
/-- 07_vaults.md Table 7.13 R187 -/
def TILE_VAULT_LENT_COUNT : Reg := ⟨0x02005058, 0x10000, 288, 0x0, 1, 0x0⟩
/-- COUNT of TILE_VAULT_LENT_COUNT, RO. -/
def TILE_VAULT_LENT_COUNT__COUNT : Fld := ⟨TILE_VAULT_LENT_COUNT, 0, 63⟩
/-- SAT of TILE_VAULT_LENT_COUNT, RO. -/
def TILE_VAULT_LENT_COUNT__SAT : Fld := ⟨TILE_VAULT_LENT_COUNT, 63, 1⟩
/-- 07_vaults.md Table 7.13 R187 -/
def TILE_VAULT_REFRESH_COUNT : Reg := ⟨0x02005060, 0x10000, 288, 0x0, 1, 0x0⟩
/-- COUNT of TILE_VAULT_REFRESH_COUNT, RO. -/
def TILE_VAULT_REFRESH_COUNT__COUNT : Fld := ⟨TILE_VAULT_REFRESH_COUNT, 0, 63⟩
/-- SAT of TILE_VAULT_REFRESH_COUNT, RO. -/
def TILE_VAULT_REFRESH_COUNT__SAT : Fld := ⟨TILE_VAULT_REFRESH_COUNT, 63, 1⟩
/-- 07_vaults.md Table 7.13 R187 -/
def TILE_VAULT_RETRY_COUNT : Reg := ⟨0x02005068, 0x10000, 288, 0x0, 1, 0x0⟩
/-- COUNT of TILE_VAULT_RETRY_COUNT, RO. -/
def TILE_VAULT_RETRY_COUNT__COUNT : Fld := ⟨TILE_VAULT_RETRY_COUNT, 0, 63⟩
/-- SAT of TILE_VAULT_RETRY_COUNT, RO. -/
def TILE_VAULT_RETRY_COUNT__SAT : Fld := ⟨TILE_VAULT_RETRY_COUNT, 63, 1⟩
/-- 07_vaults.md Table 7.13 R187 -/
def TILE_VAULT_RETRY_FAIL_COUNT : Reg := ⟨0x02005070, 0x10000, 288, 0x0, 1, 0x0⟩
/-- COUNT of TILE_VAULT_RETRY_FAIL_COUNT, RO. -/
def TILE_VAULT_RETRY_FAIL_COUNT__COUNT : Fld := ⟨TILE_VAULT_RETRY_FAIL_COUNT, 0, 63⟩
/-- SAT of TILE_VAULT_RETRY_FAIL_COUNT, RO. -/
def TILE_VAULT_RETRY_FAIL_COUNT__SAT : Fld := ⟨TILE_VAULT_RETRY_FAIL_COUNT, 63, 1⟩
/-- 07_vaults.md Table 7.14 R187 -/
def REGION_DRAM_BAND : Reg := ⟨0x01000300, 0x100000, 16, 0x0, 1, 0x0⟩
/-- BAND of REGION_DRAM_BAND, RO. -/
def REGION_DRAM_BAND__BAND : Fld := ⟨REGION_DRAM_BAND, 0, 2⟩
/-- DOWN_PENDING of REGION_DRAM_BAND, RO. -/
def REGION_DRAM_BAND__DOWN_PENDING : Fld := ⟨REGION_DRAM_BAND, 2, 1⟩
/-- MAX_TEMP of REGION_DRAM_BAND, RO. -/
def REGION_DRAM_BAND__MAX_TEMP : Fld := ⟨REGION_DRAM_BAND, 8, 8⟩
/-- MAX_LAYER of REGION_DRAM_BAND, RO. -/
def REGION_DRAM_BAND__MAX_LAYER : Fld := ⟨REGION_DRAM_BAND, 16, 3⟩
/-- 08_ecc_repair.md Table 8.9 R211 -/
def TILE_ECC_CTRL : Reg := ⟨0x02005200, 0x10000, 288, 0x0, 1, 0x8020E1003⟩
/-- SCRUB_EN of TILE_ECC_CTRL, RW. -/
def TILE_ECC_CTRL__SCRUB_EN : Fld := ⟨TILE_ECC_CTRL, 0, 1⟩
/-- REMAP_EN of TILE_ECC_CTRL, RW. -/
def TILE_ECC_CTRL__REMAP_EN : Fld := ⟨TILE_ECC_CTRL, 1, 1⟩
/-- SCRUB_PERIOD of TILE_ECC_CTRL, RW. -/
def TILE_ECC_CTRL__SCRUB_PERIOD : Fld := ⟨TILE_ECC_CTRL, 8, 16⟩
/-- CE_THRESH of TILE_ECC_CTRL, RW. -/
def TILE_ECC_CTRL__CE_THRESH : Fld := ⟨TILE_ECC_CTRL, 24, 4⟩
/-- UE_LIMIT of TILE_ECC_CTRL, RW. -/
def TILE_ECC_CTRL__UE_LIMIT : Fld := ⟨TILE_ECC_CTRL, 32, 8⟩
/-- INJ_ARM of TILE_ECC_CTRL, RW. -/
def TILE_ECC_CTRL__INJ_ARM : Fld := ⟨TILE_ECC_CTRL, 48, 1⟩
/-- INJ_KIND of TILE_ECC_CTRL, RW. -/
def TILE_ECC_CTRL__INJ_KIND : Fld := ⟨TILE_ECC_CTRL, 49, 2⟩
/-- INJ_CH of TILE_ECC_CTRL, RW. -/
def TILE_ECC_CTRL__INJ_CH : Fld := ⟨TILE_ECC_CTRL, 51, 3⟩
/-- 08_ecc_repair.md Table 8.10 R211 -/
def TILE_ECC_LOG : Reg := ⟨0x02005208, 0x10000, 288, 0x0, 1, 0x0⟩
/-- VALID of TILE_ECC_LOG, RWS. -/
def TILE_ECC_LOG__VALID : Fld := ⟨TILE_ECC_LOG, 0, 1⟩
/-- MULTI of TILE_ECC_LOG, RWS. -/
def TILE_ECC_LOG__MULTI : Fld := ⟨TILE_ECC_LOG, 1, 1⟩
/-- KIND of TILE_ECC_LOG, RWS. -/
def TILE_ECC_LOG__KIND : Fld := ⟨TILE_ECC_LOG, 2, 2⟩
/-- CHANNEL of TILE_ECC_LOG, RWS. -/
def TILE_ECC_LOG__CHANNEL : Fld := ⟨TILE_ECC_LOG, 8, 3⟩
/-- BANK of TILE_ECC_LOG, RWS. -/
def TILE_ECC_LOG__BANK : Fld := ⟨TILE_ECC_LOG, 12, 4⟩
/-- ROW of TILE_ECC_LOG, RWS. -/
def TILE_ECC_LOG__ROW : Fld := ⟨TILE_ECC_LOG, 16, 14⟩
/-- SECTOR of TILE_ECC_LOG, RWS. -/
def TILE_ECC_LOG__SECTOR : Fld := ⟨TILE_ECC_LOG, 32, 6⟩
/-- 08_ecc_repair.md Table 8.11 R211 -/
def TILE_ECC_SPARE_STATUS : Reg := ⟨0x02005210, 0x10000, 288, 0x0, 1, 0x3808⟩
/-- FIELD_FREE_MIN of TILE_ECC_SPARE_STATUS, RO. -/
def TILE_ECC_SPARE_STATUS__FIELD_FREE_MIN : Fld := ⟨TILE_ECC_SPARE_STATUS, 0, 4⟩
/-- REPAIR_FREE_MIN of TILE_ECC_SPARE_STATUS, RO. -/
def TILE_ECC_SPARE_STATUS__REPAIR_FREE_MIN : Fld := ⟨TILE_ECC_SPARE_STATUS, 8, 6⟩
/-- MIN_CHANNEL of TILE_ECC_SPARE_STATUS, RO. -/
def TILE_ECC_SPARE_STATUS__MIN_CHANNEL : Fld := ⟨TILE_ECC_SPARE_STATUS, 16, 3⟩
/-- MIN_BANK of TILE_ECC_SPARE_STATUS, RO. -/
def TILE_ECC_SPARE_STATUS__MIN_BANK : Fld := ⟨TILE_ECC_SPARE_STATUS, 20, 4⟩
/-- DEFERRED of TILE_ECC_SPARE_STATUS, W1C. -/
def TILE_ECC_SPARE_STATUS__DEFERRED : Fld := ⟨TILE_ECC_SPARE_STATUS, 24, 1⟩
/-- 08_ecc_repair.md Table 8.12 R211 -/
def TILE_ECC_SELFTEST : Reg := ⟨0x02005218, 0x10000, 288, 0x0, 1, 0x0⟩
/-- LIGHT_FAIL of TILE_ECC_SELFTEST, RO. -/
def TILE_ECC_SELFTEST__LIGHT_FAIL : Fld := ⟨TILE_ECC_SELFTEST, 0, 8⟩
/-- PARITY_FAIL of TILE_ECC_SELFTEST, RO. -/
def TILE_ECC_SELFTEST__PARITY_FAIL : Fld := ⟨TILE_ECC_SELFTEST, 8, 8⟩
/-- PAGE_FAIL of TILE_ECC_SELFTEST, RO. -/
def TILE_ECC_SELFTEST__PAGE_FAIL : Fld := ⟨TILE_ECC_SELFTEST, 16, 1⟩
/-- SPINEL_FAIL of TILE_ECC_SELFTEST, RO. -/
def TILE_ECC_SELFTEST__SPINEL_FAIL : Fld := ⟨TILE_ECC_SELFTEST, 17, 1⟩
/-- DONE of TILE_ECC_SELFTEST, RO. -/
def TILE_ECC_SELFTEST__DONE : Fld := ⟨TILE_ECC_SELFTEST, 18, 1⟩
/-- 08_ecc_repair.md Table 8.13 R211 -/
def TILE_ECC_CE_COUNT : Reg := ⟨0x02005240, 0x10000, 288, 0x0, 1, 0x0⟩
/-- COUNT of TILE_ECC_CE_COUNT, RO. -/
def TILE_ECC_CE_COUNT__COUNT : Fld := ⟨TILE_ECC_CE_COUNT, 0, 63⟩
/-- SAT of TILE_ECC_CE_COUNT, RO. -/
def TILE_ECC_CE_COUNT__SAT : Fld := ⟨TILE_ECC_CE_COUNT, 63, 1⟩
/-- 08_ecc_repair.md Table 8.13 R211 -/
def TILE_ECC_PAGE_CORR_COUNT : Reg := ⟨0x02005248, 0x10000, 288, 0x0, 1, 0x0⟩
/-- COUNT of TILE_ECC_PAGE_CORR_COUNT, RO. -/
def TILE_ECC_PAGE_CORR_COUNT__COUNT : Fld := ⟨TILE_ECC_PAGE_CORR_COUNT, 0, 63⟩
/-- SAT of TILE_ECC_PAGE_CORR_COUNT, RO. -/
def TILE_ECC_PAGE_CORR_COUNT__SAT : Fld := ⟨TILE_ECC_PAGE_CORR_COUNT, 63, 1⟩
/-- 08_ecc_repair.md Table 8.13 R211 -/
def TILE_ECC_UE_COUNT : Reg := ⟨0x02005250, 0x10000, 288, 0x0, 1, 0x0⟩
/-- COUNT of TILE_ECC_UE_COUNT, RO. -/
def TILE_ECC_UE_COUNT__COUNT : Fld := ⟨TILE_ECC_UE_COUNT, 0, 63⟩
/-- SAT of TILE_ECC_UE_COUNT, RO. -/
def TILE_ECC_UE_COUNT__SAT : Fld := ⟨TILE_ECC_UE_COUNT, 63, 1⟩
/-- 08_ecc_repair.md Table 8.13 R211 -/
def TILE_ECC_UNSEALED_COUNT : Reg := ⟨0x02005258, 0x10000, 288, 0x0, 1, 0x0⟩
/-- COUNT of TILE_ECC_UNSEALED_COUNT, RO. -/
def TILE_ECC_UNSEALED_COUNT__COUNT : Fld := ⟨TILE_ECC_UNSEALED_COUNT, 0, 63⟩
/-- SAT of TILE_ECC_UNSEALED_COUNT, RO. -/
def TILE_ECC_UNSEALED_COUNT__SAT : Fld := ⟨TILE_ECC_UNSEALED_COUNT, 63, 1⟩
/-- 08_ecc_repair.md Table 8.13 R211 -/
def TILE_ECC_SCRUB_ROW_COUNT : Reg := ⟨0x02005260, 0x10000, 288, 0x0, 1, 0x0⟩
/-- COUNT of TILE_ECC_SCRUB_ROW_COUNT, RO. -/
def TILE_ECC_SCRUB_ROW_COUNT__COUNT : Fld := ⟨TILE_ECC_SCRUB_ROW_COUNT, 0, 63⟩
/-- SAT of TILE_ECC_SCRUB_ROW_COUNT, RO. -/
def TILE_ECC_SCRUB_ROW_COUNT__SAT : Fld := ⟨TILE_ECC_SCRUB_ROW_COUNT, 63, 1⟩
/-- 08_ecc_repair.md Table 8.13 R211 -/
def TILE_ECC_REMAP_COUNT : Reg := ⟨0x02005268, 0x10000, 288, 0x0, 1, 0x0⟩
/-- COUNT of TILE_ECC_REMAP_COUNT, RO. -/
def TILE_ECC_REMAP_COUNT__COUNT : Fld := ⟨TILE_ECC_REMAP_COUNT, 0, 63⟩
/-- SAT of TILE_ECC_REMAP_COUNT, RO. -/
def TILE_ECC_REMAP_COUNT__SAT : Fld := ⟨TILE_ECC_REMAP_COUNT, 63, 1⟩
/-- 08_ecc_repair.md Table 8.13 R211 -/
def TILE_ECC_DEFER_COUNT : Reg := ⟨0x02005270, 0x10000, 288, 0x0, 1, 0x0⟩
/-- COUNT of TILE_ECC_DEFER_COUNT, RO. -/
def TILE_ECC_DEFER_COUNT__COUNT : Fld := ⟨TILE_ECC_DEFER_COUNT, 0, 63⟩
/-- SAT of TILE_ECC_DEFER_COUNT, RO. -/
def TILE_ECC_DEFER_COUNT__SAT : Fld := ⟨TILE_ECC_DEFER_COUNT, 63, 1⟩
/-- 09_jasper.md Table 9.7 R237 -/
def REGION_JASPER_CTRL : Reg := ⟨0x01000800, 0x100000, 16, 0x0, 1, 0x8⟩
/-- CONC_CH of REGION_JASPER_CTRL, RW. -/
def REGION_JASPER_CTRL__CONC_CH : Fld := ⟨REGION_JASPER_CTRL, 0, 4⟩
/-- 09_jasper.md Table 9.8 R237 -/
def REGION_JASPER_STATUS : Reg := ⟨0x01000808, 0x100000, 16, 0x0, 1, 0x0⟩
/-- PRESENT of REGION_JASPER_STATUS, RO. -/
def REGION_JASPER_STATUS__PRESENT : Fld := ⟨REGION_JASPER_STATUS, 0, 1⟩
/-- MODE of REGION_JASPER_STATUS, RO. -/
def REGION_JASPER_STATUS__MODE : Fld := ⟨REGION_JASPER_STATUS, 1, 1⟩
/-- RUN_MASK of REGION_JASPER_STATUS, RO. -/
def REGION_JASPER_STATUS__RUN_MASK : Fld := ⟨REGION_JASPER_STATUS, 8, 18⟩
/-- 09_jasper.md Table 9.9 R237 -/
def REGION_JASPER_CTX : Reg := ⟨0x01000880, 0x100000, 16, 0x8, 18, 0x0⟩
/-- STATE of REGION_JASPER_CTX, RO. -/
def REGION_JASPER_CTX__STATE : Fld := ⟨REGION_JASPER_CTX, 0, 2⟩
/-- STEP of REGION_JASPER_CTX, RO. -/
def REGION_JASPER_CTX__STEP : Fld := ⟨REGION_JASPER_CTX, 2, 10⟩
/-- ELAPSED of REGION_JASPER_CTX, RO. -/
def REGION_JASPER_CTX__ELAPSED : Fld := ⟨REGION_JASPER_CTX, 16, 10⟩
/-- 09_jasper.md Table 9.10 R238 -/
def REGION_JASPER_PROG_COUNT : Reg := ⟨0x01000840, 0x100000, 16, 0x0, 1, 0x0⟩
/-- COUNT of REGION_JASPER_PROG_COUNT, RO. -/
def REGION_JASPER_PROG_COUNT__COUNT : Fld := ⟨REGION_JASPER_PROG_COUNT, 0, 63⟩
/-- SAT of REGION_JASPER_PROG_COUNT, RO. -/
def REGION_JASPER_PROG_COUNT__SAT : Fld := ⟨REGION_JASPER_PROG_COUNT, 63, 1⟩
/-- 09_jasper.md Table 9.10 R238 -/
def REGION_JASPER_ROWOP_COUNT : Reg := ⟨0x01000848, 0x100000, 16, 0x0, 1, 0x0⟩
/-- COUNT of REGION_JASPER_ROWOP_COUNT, RO. -/
def REGION_JASPER_ROWOP_COUNT__COUNT : Fld := ⟨REGION_JASPER_ROWOP_COUNT, 0, 63⟩
/-- SAT of REGION_JASPER_ROWOP_COUNT, RO. -/
def REGION_JASPER_ROWOP_COUNT__SAT : Fld := ⟨REGION_JASPER_ROWOP_COUNT, 63, 1⟩
/-- 09_jasper.md Table 9.10 R238 -/
def REGION_JASPER_POP_COUNT : Reg := ⟨0x01000850, 0x100000, 16, 0x0, 1, 0x0⟩
/-- COUNT of REGION_JASPER_POP_COUNT, RO. -/
def REGION_JASPER_POP_COUNT__COUNT : Fld := ⟨REGION_JASPER_POP_COUNT, 0, 63⟩
/-- SAT of REGION_JASPER_POP_COUNT, RO. -/
def REGION_JASPER_POP_COUNT__SAT : Fld := ⟨REGION_JASPER_POP_COUNT, 63, 1⟩
/-- 09_jasper.md Table 9.10 R238 -/
def REGION_JASPER_SEAL_COUNT : Reg := ⟨0x01000858, 0x100000, 16, 0x0, 1, 0x0⟩
/-- COUNT of REGION_JASPER_SEAL_COUNT, RO. -/
def REGION_JASPER_SEAL_COUNT__COUNT : Fld := ⟨REGION_JASPER_SEAL_COUNT, 0, 63⟩
/-- SAT of REGION_JASPER_SEAL_COUNT, RO. -/
def REGION_JASPER_SEAL_COUNT__SAT : Fld := ⟨REGION_JASPER_SEAL_COUNT, 63, 1⟩
/-- 09_jasper.md Table 9.10 R238 -/
def REGION_JASPER_HOLD_COUNT : Reg := ⟨0x01000860, 0x100000, 16, 0x0, 1, 0x0⟩
/-- COUNT of REGION_JASPER_HOLD_COUNT, RO. -/
def REGION_JASPER_HOLD_COUNT__COUNT : Fld := ⟨REGION_JASPER_HOLD_COUNT, 0, 63⟩
/-- SAT of REGION_JASPER_HOLD_COUNT, RO. -/
def REGION_JASPER_HOLD_COUNT__SAT : Fld := ⟨REGION_JASPER_HOLD_COUNT, 63, 1⟩
/-- 10_attention_kv.md Table 10.10 R266 -/
def AGATE_CTRL : Reg := ⟨0x00400000, 0x0, 1, 0x0, 1, 0x0⟩
/-- REBUILD of AGATE_CTRL, WO. -/
def AGATE_CTRL__REBUILD : Fld := ⟨AGATE_CTRL, 0, 1⟩
/-- ABORT of AGATE_CTRL, WO. -/
def AGATE_CTRL__ABORT : Fld := ⟨AGATE_CTRL, 1, 1⟩
/-- 10_attention_kv.md Table 10.10 R266 -/
def AGATE_GEN : Reg := ⟨0x00400008, 0x0, 1, 0x0, 1, 0x0⟩
/-- GEN of AGATE_GEN, RW. -/
def AGATE_GEN__GEN : Fld := ⟨AGATE_GEN, 0, 32⟩
/-- 10_attention_kv.md Table 10.10 R266 -/
def AGATE_STATUS : Reg := ⟨0x00400010, 0x0, 1, 0x0, 1, 0x0⟩
/-- STATE of AGATE_STATUS, RO. -/
def AGATE_STATUS__STATE : Fld := ⟨AGATE_STATUS, 0, 3⟩
/-- UPD_BUSY of AGATE_STATUS, RO. -/
def AGATE_STATUS__UPD_BUSY : Fld := ⟨AGATE_STATUS, 3, 1⟩
/-- LOG_OVF of AGATE_STATUS, RO. -/
def AGATE_STATUS__LOG_OVF : Fld := ⟨AGATE_STATUS, 4, 1⟩
/-- WR_ERR of AGATE_STATUS, W1C. -/
def AGATE_STATUS__WR_ERR : Fld := ⟨AGATE_STATUS, 5, 1⟩
/-- WR_CAUSE of AGATE_STATUS, RO. -/
def AGATE_STATUS__WR_CAUSE : Fld := ⟨AGATE_STATUS, 6, 3⟩
/-- SHD_ERR of AGATE_STATUS, W1C. -/
def AGATE_STATUS__SHD_ERR : Fld := ⟨AGATE_STATUS, 9, 1⟩
/-- SWAP_ERR of AGATE_STATUS, W1C. -/
def AGATE_STATUS__SWAP_ERR : Fld := ⟨AGATE_STATUS, 10, 1⟩
/-- ACTIVE_BANK of AGATE_STATUS, RO. -/
def AGATE_STATUS__ACTIVE_BANK : Fld := ⟨AGATE_STATUS, 11, 1⟩
/-- LOG_FILL of AGATE_STATUS, RO. -/
def AGATE_STATUS__LOG_FILL : Fld := ⟨AGATE_STATUS, 16, 13⟩
/-- 10_attention_kv.md Table 10.10 R266 -/
def AGATE_UPD_INDEX : Reg := ⟨0x00400018, 0x0, 1, 0x0, 1, 0x0⟩
/-- INDEX of AGATE_UPD_INDEX, RW. -/
def AGATE_UPD_INDEX__INDEX : Fld := ⟨AGATE_UPD_INDEX, 0, 19⟩
/-- 10_attention_kv.md Table 10.10 R266 -/
def AGATE_UPD_DATA : Reg := ⟨0x00400020, 0x0, 1, 0x0, 1, 0x0⟩
/-- ENTRY of AGATE_UPD_DATA, RW. -/
def AGATE_UPD_DATA__ENTRY : Fld := ⟨AGATE_UPD_DATA, 0, 64⟩
/-- 10_attention_kv.md Table 10.10 R266 -/
def AGATE_SHD_INDEX : Reg := ⟨0x00400028, 0x0, 1, 0x0, 1, 0x0⟩
/-- INDEX of AGATE_SHD_INDEX, RW. -/
def AGATE_SHD_INDEX__INDEX : Fld := ⟨AGATE_SHD_INDEX, 0, 19⟩
/-- 10_attention_kv.md Table 10.10 R266 -/
def AGATE_SHD_DATA : Reg := ⟨0x00400030, 0x0, 1, 0x0, 1, 0x0⟩
/-- ENTRY of AGATE_SHD_DATA, RW. -/
def AGATE_SHD_DATA__ENTRY : Fld := ⟨AGATE_SHD_DATA, 0, 64⟩
/-- 10_attention_kv.md Table 10.10 R266 -/
def AGATE_RETARGET : Reg := ⟨0x00400038, 0x0, 1, 0x0, 1, 0x0⟩
/-- FROM of AGATE_RETARGET, RW. -/
def AGATE_RETARGET__FROM : Fld := ⟨AGATE_RETARGET, 0, 9⟩
/-- TO of AGATE_RETARGET, RW. -/
def AGATE_RETARGET__TO : Fld := ⟨AGATE_RETARGET, 16, 9⟩
/-- GO of AGATE_RETARGET, WO. -/
def AGATE_RETARGET__GO : Fld := ⟨AGATE_RETARGET, 32, 1⟩
/-- BUSY of AGATE_RETARGET, RO. -/
def AGATE_RETARGET__BUSY : Fld := ⟨AGATE_RETARGET, 33, 1⟩
/-- 10_attention_kv.md Table 10.10 R266 -/
def AGATE_RT_RESULT : Reg := ⟨0x00400040, 0x0, 1, 0x0, 1, 0x0⟩
/-- RT_CHANGED of AGATE_RT_RESULT, RO. -/
def AGATE_RT_RESULT__RT_CHANGED : Fld := ⟨AGATE_RT_RESULT, 0, 20⟩
/-- RT_FAILED of AGATE_RT_RESULT, RO. -/
def AGATE_RT_RESULT__RT_FAILED : Fld := ⟨AGATE_RT_RESULT, 20, 20⟩
/-- RT_FIRST of AGATE_RT_RESULT, RO. -/
def AGATE_RT_RESULT__RT_FIRST : Fld := ⟨AGATE_RT_RESULT, 40, 19⟩
/-- 10_attention_kv.md Table 10.11 R267 -/
def TOPAZ_CTRL : Reg := ⟨0x00500000, 0x0, 1, 0x0, 1, 0x0⟩
/-- ENABLE of TOPAZ_CTRL, RW. -/
def TOPAZ_CTRL__ENABLE : Fld := ⟨TOPAZ_CTRL, 0, 1⟩
/-- TABLE_VA of TOPAZ_CTRL, RW. -/
def TOPAZ_CTRL__TABLE_VA : Fld := ⟨TOPAZ_CTRL, 21, 27⟩
/-- 10_attention_kv.md Table 10.11 R267 -/
def TOPAZ_APPEND : Reg := ⟨0x00500008, 0x0, 1, 0x0, 1, 0x0⟩
/-- LIST_VA of TOPAZ_APPEND, RW. -/
def TOPAZ_APPEND__LIST_VA : Fld := ⟨TOPAZ_APPEND, 21, 27⟩
/-- 10_attention_kv.md Table 10.11 R267 -/
def TOPAZ_CMD : Reg := ⟨0x00500010, 0x0, 1, 0x0, 1, 0x0⟩
/-- OP of TOPAZ_CMD, WO. -/
def TOPAZ_CMD__OP : Fld := ⟨TOPAZ_CMD, 0, 4⟩
/-- SEQ of TOPAZ_CMD, WO. -/
def TOPAZ_CMD__SEQ : Fld := ⟨TOPAZ_CMD, 4, 20⟩
/-- LAYER of TOPAZ_CMD, WO. -/
def TOPAZ_CMD__LAYER : Fld := ⟨TOPAZ_CMD, 24, 8⟩
/-- KVHEAD of TOPAZ_CMD, WO. -/
def TOPAZ_CMD__KVHEAD : Fld := ⟨TOPAZ_CMD, 32, 4⟩
/-- LEN of TOPAZ_CMD, WO. -/
def TOPAZ_CMD__LEN : Fld := ⟨TOPAZ_CMD, 36, 21⟩
/-- 10_attention_kv.md Table 10.11 R267 -/
def TOPAZ_CMD_STATUS : Reg := ⟨0x00500018, 0x0, 1, 0x0, 1, 0x0⟩
/-- BUSY of TOPAZ_CMD_STATUS, RO. -/
def TOPAZ_CMD_STATUS__BUSY : Fld := ⟨TOPAZ_CMD_STATUS, 0, 1⟩
/-- ERR of TOPAZ_CMD_STATUS, RO. -/
def TOPAZ_CMD_STATUS__ERR : Fld := ⟨TOPAZ_CMD_STATUS, 1, 3⟩
/-- 10_attention_kv.md Table 10.11 R267 -/
def TOPAZ_STAGE : Reg := ⟨0x00500040, 0x8, 8, 0x0, 1, 0x0⟩
/-- DATA of TOPAZ_STAGE, RW. -/
def TOPAZ_STAGE__DATA : Fld := ⟨TOPAZ_STAGE, 0, 64⟩
/-- 10_attention_kv.md Table 10.11 R267 -/
def TOPAZ_POOL_CFG : Reg := ⟨0x00501000, 0x20, 288, 0x0, 1, 0x8⟩
/-- LOG2SIZE of TOPAZ_POOL_CFG, RW. -/
def TOPAZ_POOL_CFG__LOG2SIZE : Fld := ⟨TOPAZ_POOL_CFG, 0, 5⟩
/-- LOW of TOPAZ_POOL_CFG, RW. -/
def TOPAZ_POOL_CFG__LOW : Fld := ⟨TOPAZ_POOL_CFG, 8, 8⟩
/-- BASE of TOPAZ_POOL_CFG, RW. -/
def TOPAZ_POOL_CFG__BASE : Fld := ⟨TOPAZ_POOL_CFG, 16, 48⟩
/-- 10_attention_kv.md Table 10.11 R267 -/
def TOPAZ_POOL_PTR : Reg := ⟨0x00501008, 0x20, 288, 0x0, 1, 0x0⟩
/-- HEAD of TOPAZ_POOL_PTR, RO. -/
def TOPAZ_POOL_PTR__HEAD : Fld := ⟨TOPAZ_POOL_PTR, 0, 21⟩
/-- TAIL of TOPAZ_POOL_PTR, RO. -/
def TOPAZ_POOL_PTR__TAIL : Fld := ⟨TOPAZ_POOL_PTR, 32, 21⟩
/-- FULL_ERR of TOPAZ_POOL_PTR, W1C. -/
def TOPAZ_POOL_PTR__FULL_ERR : Fld := ⟨TOPAZ_POOL_PTR, 63, 1⟩
/-- 10_attention_kv.md Table 10.11 R267 -/
def TOPAZ_POOL_PUSH : Reg := ⟨0x00501010, 0x20, 288, 0x0, 1, 0x0⟩
/-- PAGE of TOPAZ_POOL_PUSH, WO. -/
def TOPAZ_POOL_PUSH__PAGE : Fld := ⟨TOPAZ_POOL_PUSH, 16, 32⟩
/-- 10_attention_kv.md Table 10.12 R268 -/
def AGATE_LOOKUP_COUNT : Reg := ⟨0x00400080, 0x0, 1, 0x0, 1, 0x0⟩
/-- COUNT of AGATE_LOOKUP_COUNT, RO. -/
def AGATE_LOOKUP_COUNT__COUNT : Fld := ⟨AGATE_LOOKUP_COUNT, 0, 63⟩
/-- SAT of AGATE_LOOKUP_COUNT, RO. -/
def AGATE_LOOKUP_COUNT__SAT : Fld := ⟨AGATE_LOOKUP_COUNT, 63, 1⟩
/-- 10_attention_kv.md Table 10.12 R268 -/
def AGATE_CE_COUNT : Reg := ⟨0x00400088, 0x0, 1, 0x0, 1, 0x0⟩
/-- COUNT of AGATE_CE_COUNT, RO. -/
def AGATE_CE_COUNT__COUNT : Fld := ⟨AGATE_CE_COUNT, 0, 63⟩
/-- SAT of AGATE_CE_COUNT, RO. -/
def AGATE_CE_COUNT__SAT : Fld := ⟨AGATE_CE_COUNT, 63, 1⟩
/-- 10_attention_kv.md Table 10.12 R268 -/
def AGATE_UE_COUNT : Reg := ⟨0x00400090, 0x0, 1, 0x0, 1, 0x0⟩
/-- COUNT of AGATE_UE_COUNT, RO. -/
def AGATE_UE_COUNT__COUNT : Fld := ⟨AGATE_UE_COUNT, 0, 63⟩
/-- SAT of AGATE_UE_COUNT, RO. -/
def AGATE_UE_COUNT__SAT : Fld := ⟨AGATE_UE_COUNT, 63, 1⟩
/-- 10_attention_kv.md Table 10.12 R268 -/
def AGATE_CONFLICT_COUNT : Reg := ⟨0x00400098, 0x0, 1, 0x0, 1, 0x0⟩
/-- COUNT of AGATE_CONFLICT_COUNT, RO. -/
def AGATE_CONFLICT_COUNT__COUNT : Fld := ⟨AGATE_CONFLICT_COUNT, 0, 63⟩
/-- SAT of AGATE_CONFLICT_COUNT, RO. -/
def AGATE_CONFLICT_COUNT__SAT : Fld := ⟨AGATE_CONFLICT_COUNT, 63, 1⟩
/-- 10_attention_kv.md Table 10.12 R268 -/
def AGATE_SWAP_COUNT : Reg := ⟨0x004000A0, 0x0, 1, 0x0, 1, 0x0⟩
/-- COUNT of AGATE_SWAP_COUNT, RO. -/
def AGATE_SWAP_COUNT__COUNT : Fld := ⟨AGATE_SWAP_COUNT, 0, 63⟩
/-- SAT of AGATE_SWAP_COUNT, RO. -/
def AGATE_SWAP_COUNT__SAT : Fld := ⟨AGATE_SWAP_COUNT, 63, 1⟩
/-- 10_attention_kv.md Table 10.12 R268 -/
def TOPAZ_APPEND_COUNT : Reg := ⟨0x00500080, 0x0, 1, 0x0, 1, 0x0⟩
/-- COUNT of TOPAZ_APPEND_COUNT, RO. -/
def TOPAZ_APPEND_COUNT__COUNT : Fld := ⟨TOPAZ_APPEND_COUNT, 0, 63⟩
/-- SAT of TOPAZ_APPEND_COUNT, RO. -/
def TOPAZ_APPEND_COUNT__SAT : Fld := ⟨TOPAZ_APPEND_COUNT, 63, 1⟩
/-- 10_attention_kv.md Table 10.12 R268 -/
def TOPAZ_APPEND_FAIL_COUNT : Reg := ⟨0x00500088, 0x0, 1, 0x0, 1, 0x0⟩
/-- COUNT of TOPAZ_APPEND_FAIL_COUNT, RO. -/
def TOPAZ_APPEND_FAIL_COUNT__COUNT : Fld := ⟨TOPAZ_APPEND_FAIL_COUNT, 0, 63⟩
/-- SAT of TOPAZ_APPEND_FAIL_COUNT, RO. -/
def TOPAZ_APPEND_FAIL_COUNT__SAT : Fld := ⟨TOPAZ_APPEND_FAIL_COUNT, 63, 1⟩
/-- 10_attention_kv.md Table 10.12 R268 -/
def TOPAZ_PAGE_ALLOC_COUNT : Reg := ⟨0x00500090, 0x0, 1, 0x0, 1, 0x0⟩
/-- COUNT of TOPAZ_PAGE_ALLOC_COUNT, RO. -/
def TOPAZ_PAGE_ALLOC_COUNT__COUNT : Fld := ⟨TOPAZ_PAGE_ALLOC_COUNT, 0, 63⟩
/-- SAT of TOPAZ_PAGE_ALLOC_COUNT, RO. -/
def TOPAZ_PAGE_ALLOC_COUNT__SAT : Fld := ⟨TOPAZ_PAGE_ALLOC_COUNT, 63, 1⟩
/-- 10_attention_kv.md Table 10.12 R268 -/
def TOPAZ_CACHE_MISS_COUNT : Reg := ⟨0x00500098, 0x0, 1, 0x0, 1, 0x0⟩
/-- COUNT of TOPAZ_CACHE_MISS_COUNT, RO. -/
def TOPAZ_CACHE_MISS_COUNT__COUNT : Fld := ⟨TOPAZ_CACHE_MISS_COUNT, 0, 63⟩
/-- SAT of TOPAZ_CACHE_MISS_COUNT, RO. -/
def TOPAZ_CACHE_MISS_COUNT__SAT : Fld := ⟨TOPAZ_CACHE_MISS_COUNT, 63, 1⟩
/-- 10_attention_kv.md Table 10.12 R268 -/
def TOPAZ_POOL_DROP_COUNT : Reg := ⟨0x005000A0, 0x0, 1, 0x0, 1, 0x0⟩
/-- COUNT of TOPAZ_POOL_DROP_COUNT, RO. -/
def TOPAZ_POOL_DROP_COUNT__COUNT : Fld := ⟨TOPAZ_POOL_DROP_COUNT, 0, 63⟩
/-- SAT of TOPAZ_POOL_DROP_COUNT, RO. -/
def TOPAZ_POOL_DROP_COUNT__SAT : Fld := ⟨TOPAZ_POOL_DROP_COUNT, 63, 1⟩
/-- 10_attention_kv.md R267 -/
def TILE_KV_HEADROOM : Reg := ⟨0x02004200, 0x10000, 288, 0x8, 13, 0x0⟩
/-- H of TILE_KV_HEADROOM, RW. -/
def TILE_KV_HEADROOM__H : Fld := ⟨TILE_KV_HEADROOM, 0, 63⟩
/-- 11_fabric.md Table 11.9 R298 -/
def FAB_LINK_CTRL : Reg := ⟨0x00004000, 0x100, 9, 0x0, 1, 0x8100⟩
/-- RETRY_TIMEOUT of FAB_LINK_CTRL, RW. -/
def FAB_LINK_CTRL__RETRY_TIMEOUT : Fld := ⟨FAB_LINK_CTRL, 0, 12⟩
/-- RETRY_LIMIT of FAB_LINK_CTRL, RW. -/
def FAB_LINK_CTRL__RETRY_LIMIT : Fld := ⟨FAB_LINK_CTRL, 12, 4⟩
/-- 11_fabric.md Table 11.10 R298 -/
def FAB_LINK_STATUS : Reg := ⟨0x00004008, 0x100, 9, 0x0, 1, 0x0⟩
/-- STATE of FAB_LINK_STATUS, RO. -/
def FAB_LINK_STATUS__STATE : Fld := ⟨FAB_LINK_STATUS, 0, 2⟩
/-- POPULATED of FAB_LINK_STATUS, RO. -/
def FAB_LINK_STATUS__POPULATED : Fld := ⟨FAB_LINK_STATUS, 2, 1⟩
/-- RATE of FAB_LINK_STATUS, RO. -/
def FAB_LINK_STATUS__RATE : Fld := ⟨FAB_LINK_STATUS, 3, 3⟩
/-- HALF of FAB_LINK_STATUS, RO. -/
def FAB_LINK_STATUS__HALF : Fld := ⟨FAB_LINK_STATUS, 6, 1⟩
/-- REPAIRED of FAB_LINK_STATUS, RO. -/
def FAB_LINK_STATUS__REPAIRED : Fld := ⟨FAB_LINK_STATUS, 7, 5⟩
/-- 11_fabric.md Table 11.11 R298 -/
def FAB_LINK_FLIT_COUNT : Reg := ⟨0x00004040, 0x100, 9, 0x0, 1, 0x0⟩
/-- COUNT of FAB_LINK_FLIT_COUNT, RO. -/
def FAB_LINK_FLIT_COUNT__COUNT : Fld := ⟨FAB_LINK_FLIT_COUNT, 0, 63⟩
/-- SAT of FAB_LINK_FLIT_COUNT, RO. -/
def FAB_LINK_FLIT_COUNT__SAT : Fld := ⟨FAB_LINK_FLIT_COUNT, 63, 1⟩
/-- 11_fabric.md Table 11.11 R298 -/
def FAB_LINK_CRC_COUNT : Reg := ⟨0x00004048, 0x100, 9, 0x0, 1, 0x0⟩
/-- COUNT of FAB_LINK_CRC_COUNT, RO. -/
def FAB_LINK_CRC_COUNT__COUNT : Fld := ⟨FAB_LINK_CRC_COUNT, 0, 63⟩
/-- SAT of FAB_LINK_CRC_COUNT, RO. -/
def FAB_LINK_CRC_COUNT__SAT : Fld := ⟨FAB_LINK_CRC_COUNT, 63, 1⟩
/-- 11_fabric.md Table 11.11 R298 -/
def FAB_LINK_REPLAY_COUNT : Reg := ⟨0x00004050, 0x100, 9, 0x0, 1, 0x0⟩
/-- COUNT of FAB_LINK_REPLAY_COUNT, RO. -/
def FAB_LINK_REPLAY_COUNT__COUNT : Fld := ⟨FAB_LINK_REPLAY_COUNT, 0, 63⟩
/-- SAT of FAB_LINK_REPLAY_COUNT, RO. -/
def FAB_LINK_REPLAY_COUNT__SAT : Fld := ⟨FAB_LINK_REPLAY_COUNT, 63, 1⟩
/-- 11_fabric.md Table 11.11 R298 -/
def FAB_LINK_RETRAIN_COUNT : Reg := ⟨0x00004058, 0x100, 9, 0x0, 1, 0x0⟩
/-- COUNT of FAB_LINK_RETRAIN_COUNT, RO. -/
def FAB_LINK_RETRAIN_COUNT__COUNT : Fld := ⟨FAB_LINK_RETRAIN_COUNT, 0, 63⟩
/-- SAT of FAB_LINK_RETRAIN_COUNT, RO. -/
def FAB_LINK_RETRAIN_COUNT__SAT : Fld := ⟨FAB_LINK_RETRAIN_COUNT, 63, 1⟩
/-- 11_fabric.md Table 11.11 R298 -/
def FAB_LINK_PROTO_COUNT : Reg := ⟨0x00004060, 0x100, 9, 0x0, 1, 0x0⟩
/-- COUNT of FAB_LINK_PROTO_COUNT, RO. -/
def FAB_LINK_PROTO_COUNT__COUNT : Fld := ⟨FAB_LINK_PROTO_COUNT, 0, 63⟩
/-- SAT of FAB_LINK_PROTO_COUNT, RO. -/
def FAB_LINK_PROTO_COUNT__SAT : Fld := ⟨FAB_LINK_PROTO_COUNT, 63, 1⟩
/-- 11_fabric.md Table 11.12 R298 -/
def FAB_CUST_CFG : Reg := ⟨0x00004900, 0x0, 1, 0x0, 1, 0x28⟩
/-- CUST_CLASS of FAB_CUST_CFG, RW. -/
def FAB_CUST_CFG__CUST_CLASS : Fld := ⟨FAB_CUST_CFG, 0, 3⟩
/-- MAX_RATE of FAB_CUST_CFG, RW. -/
def FAB_CUST_CFG__MAX_RATE : Fld := ⟨FAB_CUST_CFG, 3, 3⟩
/-- ACC_EN of FAB_CUST_CFG, RW. -/
def FAB_CUST_CFG__ACC_EN : Fld := ⟨FAB_CUST_CFG, 6, 1⟩
/-- 11_fabric.md R298 -/
def FAB_CUST_ACC_BASE : Reg := ⟨0x00004908, 0x0, 1, 0x0, 1, 0x0⟩
/-- VA of FAB_CUST_ACC_BASE, RW. -/
def FAB_CUST_ACC_BASE__VA : Fld := ⟨FAB_CUST_ACC_BASE, 21, 27⟩
/-- 11_fabric.md R298 -/
def FAB_CUST_ACC_LIMIT : Reg := ⟨0x00004910, 0x0, 1, 0x0, 1, 0x0⟩
/-- VA of FAB_CUST_ACC_LIMIT, RW. -/
def FAB_CUST_ACC_LIMIT__VA : Fld := ⟨FAB_CUST_ACC_LIMIT, 21, 27⟩
/-- 11_fabric.md Table 11.13 R298 -/
def REGION_MC_CTRL : Reg := ⟨0x01000100, 0x100000, 16, 0x0, 1, 0x32⟩
/-- STALL_LIMIT of REGION_MC_CTRL, RW. -/
def REGION_MC_CTRL__STALL_LIMIT : Fld := ⟨REGION_MC_CTRL, 0, 16⟩
/-- 11_fabric.md Table 11.13 R298 -/
def REGION_CAROUSEL_CTRL : Reg := ⟨0x01000108, 0x100000, 16, 0x0, 1, 0x1240⟩
/-- EN of REGION_CAROUSEL_CTRL, RW. -/
def REGION_CAROUSEL_CTRL__EN : Fld := ⟨REGION_CAROUSEL_CTRL, 0, 1⟩
/-- CAR_SHARE of REGION_CAROUSEL_CTRL, RW. -/
def REGION_CAROUSEL_CTRL__CAR_SHARE : Fld := ⟨REGION_CAROUSEL_CTRL, 4, 4⟩
/-- RING_LEN of REGION_CAROUSEL_CTRL, RW. -/
def REGION_CAROUSEL_CTRL__RING_LEN : Fld := ⟨REGION_CAROUSEL_CTRL, 8, 5⟩
/-- 11_fabric.md Table 11.13 R298 -/
def REGION_CAROUSEL_RING0 : Reg := ⟨0x01000110, 0x100000, 16, 0x0, 1, 0x5A9AE8C1EC49860⟩
/-- POS0–11 of REGION_CAROUSEL_RING0, RW. -/
def REGION_CAROUSEL_RING0__POS0_TO_11 : Fld := ⟨REGION_CAROUSEL_RING0, 0, 60⟩
/-- 11_fabric.md Table 11.13 R298 -/
def REGION_CAROUSEL_RING1 : Reg := ⟨0x01000118, 0x100000, 16, 0x0, 1, 0x22290E8⟩
/-- POS12–17 of REGION_CAROUSEL_RING1, RW. -/
def REGION_CAROUSEL_RING1__POS12_TO_17 : Fld := ⟨REGION_CAROUSEL_RING1, 0, 30⟩
/-- 11_fabric.md Table 11.14 R299 -/
def FAB_WHIPPET_PARITY_COUNT : Reg := ⟨0x00004A00, 0x0, 1, 0x0, 1, 0x0⟩
/-- COUNT of FAB_WHIPPET_PARITY_COUNT, RO. -/
def FAB_WHIPPET_PARITY_COUNT__COUNT : Fld := ⟨FAB_WHIPPET_PARITY_COUNT, 0, 63⟩
/-- SAT of FAB_WHIPPET_PARITY_COUNT, RO. -/
def FAB_WHIPPET_PARITY_COUNT__SAT : Fld := ⟨FAB_WHIPPET_PARITY_COUNT, 63, 1⟩
/-- 11_fabric.md Table 11.14 R299 -/
def FAB_NOEP_COUNT : Reg := ⟨0x00004A08, 0x0, 1, 0x0, 1, 0x0⟩
/-- COUNT of FAB_NOEP_COUNT, RO. -/
def FAB_NOEP_COUNT__COUNT : Fld := ⟨FAB_NOEP_COUNT, 0, 63⟩
/-- SAT of FAB_NOEP_COUNT, RO. -/
def FAB_NOEP_COUNT__SAT : Fld := ⟨FAB_NOEP_COUNT, 63, 1⟩
/-- 11_fabric.md Table 11.14 R299 -/
def REGION_ONYX_RETRY_COUNT : Reg := ⟨0x01000140, 0x100000, 16, 0x0, 1, 0x0⟩
/-- COUNT of REGION_ONYX_RETRY_COUNT, RO. -/
def REGION_ONYX_RETRY_COUNT__COUNT : Fld := ⟨REGION_ONYX_RETRY_COUNT, 0, 63⟩
/-- SAT of REGION_ONYX_RETRY_COUNT, RO. -/
def REGION_ONYX_RETRY_COUNT__SAT : Fld := ⟨REGION_ONYX_RETRY_COUNT, 63, 1⟩
/-- 11_fabric.md Table 11.14 R299 -/
def REGION_MC_STALL_COUNT : Reg := ⟨0x01000148, 0x100000, 16, 0x0, 1, 0x0⟩
/-- COUNT of REGION_MC_STALL_COUNT, RO. -/
def REGION_MC_STALL_COUNT__COUNT : Fld := ⟨REGION_MC_STALL_COUNT, 0, 63⟩
/-- SAT of REGION_MC_STALL_COUNT, RO. -/
def REGION_MC_STALL_COUNT__SAT : Fld := ⟨REGION_MC_STALL_COUNT, 63, 1⟩
/-- 11_fabric.md Table 11.14 R299 -/
def REGION_CAR_FWD_COUNT : Reg := ⟨0x01000150, 0x100000, 16, 0x0, 1, 0x0⟩
/-- COUNT of REGION_CAR_FWD_COUNT, RO. -/
def REGION_CAR_FWD_COUNT__COUNT : Fld := ⟨REGION_CAR_FWD_COUNT, 0, 63⟩
/-- SAT of REGION_CAR_FWD_COUNT, RO. -/
def REGION_CAR_FWD_COUNT__SAT : Fld := ⟨REGION_CAR_FWD_COUNT, 63, 1⟩
/-- 12_regulation.md Table 12.3 R312 -/
def REGION_QOS_VMIN : Reg := ⟨0x01000400, 0x100000, 16, 0x10, 8, 0x0⟩
/-- RD of REGION_QOS_VMIN, RW. -/
def REGION_QOS_VMIN__RD : Fld := ⟨REGION_QOS_VMIN, 0, 12⟩
/-- WR of REGION_QOS_VMIN, RW. -/
def REGION_QOS_VMIN__WR : Fld := ⟨REGION_QOS_VMIN, 16, 12⟩
/-- RM of REGION_QOS_VMIN, RW. -/
def REGION_QOS_VMIN__RM : Fld := ⟨REGION_QOS_VMIN, 32, 12⟩
/-- 12_regulation.md Table 12.3 R312 -/
def REGION_QOS_LMIN : Reg := ⟨0x01000408, 0x100000, 16, 0x10, 8, 0x0⟩
/-- ONYX of REGION_QOS_LMIN, RW. -/
def REGION_QOS_LMIN__ONYX : Fld := ⟨REGION_QOS_LMIN, 0, 12⟩
/-- 12_regulation.md Table 12.3 R312 -/
def REGION_QOS_STATUS : Reg := ⟨0x01000480, 0x100000, 16, 0x0, 1, 0x0⟩
/-- DEFICIT of REGION_QOS_STATUS, RO. -/
def REGION_QOS_STATUS__DEFICIT : Fld := ⟨REGION_QOS_STATUS, 0, 3⟩
/-- ONYX_DEF of REGION_QOS_STATUS, RO. -/
def REGION_QOS_STATUS__ONYX_DEF : Fld := ⟨REGION_QOS_STATUS, 3, 1⟩
/-- ADM_ERR of REGION_QOS_STATUS, W1C. -/
def REGION_QOS_STATUS__ADM_ERR : Fld := ⟨REGION_QOS_STATUS, 4, 1⟩
/-- FACTOR_RD of REGION_QOS_STATUS, RO. -/
def REGION_QOS_STATUS__FACTOR_RD : Fld := ⟨REGION_QOS_STATUS, 8, 8⟩
/-- FACTOR_WR of REGION_QOS_STATUS, RO. -/
def REGION_QOS_STATUS__FACTOR_WR : Fld := ⟨REGION_QOS_STATUS, 16, 8⟩
/-- FACTOR_RM of REGION_QOS_STATUS, RO. -/
def REGION_QOS_STATUS__FACTOR_RM : Fld := ⟨REGION_QOS_STATUS, 24, 8⟩
/-- 12_regulation.md Table 12.3 R312 -/
def REGION_QOS_CTRL : Reg := ⟨0x01000488, 0x100000, 16, 0x0, 1, 0x1011⟩
/-- FB_THR of REGION_QOS_CTRL, RW. -/
def REGION_QOS_CTRL__FB_THR : Fld := ⟨REGION_QOS_CTRL, 0, 4⟩
/-- FB_EN of REGION_QOS_CTRL, RW. -/
def REGION_QOS_CTRL__FB_EN : Fld := ⟨REGION_QOS_CTRL, 4, 1⟩
/-- FB_QTHR of REGION_QOS_CTRL, RW. -/
def REGION_QOS_CTRL__FB_QTHR : Fld := ⟨REGION_QOS_CTRL, 8, 8⟩
/-- 12_regulation.md Table 12.3 R312 -/
def FAB_QOS_LMIN : Reg := ⟨0x00004C00, 0x8, 8, 0x0, 1, 0x0⟩
/-- TERRIER of FAB_QOS_LMIN, RW. -/
def FAB_QOS_LMIN__TERRIER : Fld := ⟨FAB_QOS_LMIN, 0, 16⟩
/-- CUST of FAB_QOS_LMIN, RW. -/
def FAB_QOS_LMIN__CUST : Fld := ⟨FAB_QOS_LMIN, 16, 12⟩
/-- 12_regulation.md Table 12.3 R312 -/
def FAB_QOS_CTRL : Reg := ⟨0x00004C40, 0x0, 1, 0x0, 1, 0x1006⟩
/-- HOST_CLASS of FAB_QOS_CTRL, RW. -/
def FAB_QOS_CTRL__HOST_CLASS : Fld := ⟨FAB_QOS_CTRL, 0, 3⟩
/-- ADM_ERR of FAB_QOS_CTRL, W1C. -/
def FAB_QOS_CTRL__ADM_ERR : Fld := ⟨FAB_QOS_CTRL, 3, 1⟩
/-- TERRIER_DEF of FAB_QOS_CTRL, RO. -/
def FAB_QOS_CTRL__TERRIER_DEF : Fld := ⟨FAB_QOS_CTRL, 4, 1⟩
/-- CUST_DEF of FAB_QOS_CTRL, RO. -/
def FAB_QOS_CTRL__CUST_DEF : Fld := ⟨FAB_QOS_CTRL, 5, 1⟩
/-- FB_THR_HUB of FAB_QOS_CTRL, RW. -/
def FAB_QOS_CTRL__FB_THR_HUB : Fld := ⟨FAB_QOS_CTRL, 12, 8⟩
/-- 12_regulation.md Table 12.4 R313 -/
def REGION_QOS_THROTTLE_COUNT : Reg := ⟨0x010004C0, 0x100000, 16, 0x0, 1, 0x0⟩
/-- COUNT of REGION_QOS_THROTTLE_COUNT, RO. -/
def REGION_QOS_THROTTLE_COUNT__COUNT : Fld := ⟨REGION_QOS_THROTTLE_COUNT, 0, 63⟩
/-- SAT of REGION_QOS_THROTTLE_COUNT, RO. -/
def REGION_QOS_THROTTLE_COUNT__SAT : Fld := ⟨REGION_QOS_THROTTLE_COUNT, 63, 1⟩
/-- 12_regulation.md Table 12.4 R313 -/
def REGION_QOS_DL_MISS_COUNT : Reg := ⟨0x010004C8, 0x100000, 16, 0x0, 1, 0x0⟩
/-- COUNT of REGION_QOS_DL_MISS_COUNT, RO. -/
def REGION_QOS_DL_MISS_COUNT__COUNT : Fld := ⟨REGION_QOS_DL_MISS_COUNT, 0, 63⟩
/-- SAT of REGION_QOS_DL_MISS_COUNT, RO. -/
def REGION_QOS_DL_MISS_COUNT__SAT : Fld := ⟨REGION_QOS_DL_MISS_COUNT, 63, 1⟩
/-- 12_regulation.md Table 12.4 R313 -/
def REGION_QOS_DEFICIT_COUNT : Reg := ⟨0x010004D0, 0x100000, 16, 0x0, 1, 0x0⟩
/-- COUNT of REGION_QOS_DEFICIT_COUNT, RO. -/
def REGION_QOS_DEFICIT_COUNT__COUNT : Fld := ⟨REGION_QOS_DEFICIT_COUNT, 0, 63⟩
/-- SAT of REGION_QOS_DEFICIT_COUNT, RO. -/
def REGION_QOS_DEFICIT_COUNT__SAT : Fld := ⟨REGION_QOS_DEFICIT_COUNT, 63, 1⟩
/-- 12_regulation.md Table 12.4 R313 -/
def FAB_DL_MISS_COUNT : Reg := ⟨0x00004A10, 0x0, 1, 0x0, 1, 0x0⟩
/-- COUNT of FAB_DL_MISS_COUNT, RO. -/
def FAB_DL_MISS_COUNT__COUNT : Fld := ⟨FAB_DL_MISS_COUNT, 0, 63⟩
/-- SAT of FAB_DL_MISS_COUNT, RO. -/
def FAB_DL_MISS_COUNT__SAT : Fld := ⟨FAB_DL_MISS_COUNT, 63, 1⟩
/-- 13_network.md Table 13.9 R344 -/
def KELPIE_CTRL : Reg := ⟨0x00600000, 0x0, 1, 0x0, 1, 0xCA6A⟩
/-- WCT_PORT of KELPIE_CTRL, RW. -/
def KELPIE_CTRL__WCT_PORT : Fld := ⟨KELPIE_CTRL, 0, 16⟩
/-- ONESTEP of KELPIE_CTRL, RW. -/
def KELPIE_CTRL__ONESTEP : Fld := ⟨KELPIE_CTRL, 16, 1⟩
/-- MAC_BASE of KELPIE_CTRL, RW. -/
def KELPIE_CTRL__MAC_BASE : Fld := ⟨KELPIE_CTRL, 17, 47⟩
/-- 13_network.md Table 13.9 R344 -/
def KELPIE_QUAD_CFG : Reg := ⟨0x00600020, 0x8, 4, 0x0, 1, 0x0⟩
/-- MODE of KELPIE_QUAD_CFG, RW. -/
def KELPIE_QUAD_CFG__MODE : Fld := ⟨KELPIE_QUAD_CFG, 0, 3⟩
/-- 13_network.md Table 13.9 R344 -/
def KELPIE_PORT_STATUS : Reg := ⟨0x00600040, 0x8, 16, 0x0, 1, 0x0⟩
/-- UP of KELPIE_PORT_STATUS, RO. -/
def KELPIE_PORT_STATUS__UP : Fld := ⟨KELPIE_PORT_STATUS, 0, 1⟩
/-- MODE of KELPIE_PORT_STATUS, RO. -/
def KELPIE_PORT_STATUS__MODE : Fld := ⟨KELPIE_PORT_STATUS, 1, 3⟩
/-- 13_network.md Table 13.9 R344 -/
def KELPIE_CC_CTRL : Reg := ⟨0x00600100, 0x0, 1, 0x0, 1, 0x13880004000A⟩
/-- CC_PERIOD of KELPIE_CC_CTRL, RW. -/
def KELPIE_CC_CTRL__CC_PERIOD : Fld := ⟨KELPIE_CC_CTRL, 0, 16⟩
/-- G_SHIFT of KELPIE_CC_CTRL, RW. -/
def KELPIE_CC_CTRL__G_SHIFT : Fld := ⟨KELPIE_CC_CTRL, 16, 4⟩
/-- AI_MBPS of KELPIE_CC_CTRL, RW. -/
def KELPIE_CC_CTRL__AI_MBPS : Fld := ⟨KELPIE_CC_CTRL, 32, 16⟩
/-- 13_network.md Table 13.9 R344 -/
def KELPIE_WCT_TIMERS : Reg := ⟨0x00600108, 0x0, 1, 0x0, 1, 0x100640400AFA0032⟩
/-- RTO of KELPIE_WCT_TIMERS, RW. -/
def KELPIE_WCT_TIMERS__RTO : Fld := ⟨KELPIE_WCT_TIMERS, 0, 12⟩
/-- RTO_MAX of KELPIE_WCT_TIMERS, RW. -/
def KELPIE_WCT_TIMERS__RTO_MAX : Fld := ⟨KELPIE_WCT_TIMERS, 12, 12⟩
/-- HOLD of KELPIE_WCT_TIMERS, RW. -/
def KELPIE_WCT_TIMERS__HOLD : Fld := ⟨KELPIE_WCT_TIMERS, 24, 12⟩
/-- RETX_GAP of KELPIE_WCT_TIMERS, RW. -/
def KELPIE_WCT_TIMERS__RETX_GAP : Fld := ⟨KELPIE_WCT_TIMERS, 36, 8⟩
/-- RNR_WAIT of KELPIE_WCT_TIMERS, RW. -/
def KELPIE_WCT_TIMERS__RNR_WAIT : Fld := ⟨KELPIE_WCT_TIMERS, 44, 12⟩
/-- ACK_COALESCE of KELPIE_WCT_TIMERS, RW. -/
def KELPIE_WCT_TIMERS__ACK_COALESCE : Fld := ⟨KELPIE_WCT_TIMERS, 56, 8⟩
/-- 13_network.md Table 13.9 R344 -/
def KELPIE_PFC_CTRL : Reg := ⟨0x00600110, 0x0, 1, 0x0, 1, 0x3000400⟩
/-- XOFF_KIB of KELPIE_PFC_CTRL, RW. -/
def KELPIE_PFC_CTRL__XOFF_KIB : Fld := ⟨KELPIE_PFC_CTRL, 0, 16⟩
/-- XON_KIB of KELPIE_PFC_CTRL, RW. -/
def KELPIE_PFC_CTRL__XON_KIB : Fld := ⟨KELPIE_PFC_CTRL, 16, 16⟩
/-- 13_network.md Table 13.9 R344 -/
def KELPIE_PTP_SEC : Reg := ⟨0x00600180, 0x0, 1, 0x0, 1, 0x0⟩
/-- SEC of KELPIE_PTP_SEC, RW. -/
def KELPIE_PTP_SEC__SEC : Fld := ⟨KELPIE_PTP_SEC, 0, 48⟩
/-- 13_network.md Table 13.9 R344 -/
def KELPIE_PTP_NS : Reg := ⟨0x00600188, 0x0, 1, 0x0, 1, 0x0⟩
/-- NS of KELPIE_PTP_NS, RW. -/
def KELPIE_PTP_NS__NS : Fld := ⟨KELPIE_PTP_NS, 16, 30⟩
/-- FRAC of KELPIE_PTP_NS, RW. -/
def KELPIE_PTP_NS__FRAC : Fld := ⟨KELPIE_PTP_NS, 0, 16⟩
/-- 13_network.md Table 13.9 R344 -/
def KELPIE_PTP_RATE : Reg := ⟨0x00600190, 0x0, 1, 0x0, 1, 0x0⟩
/-- RATE of KELPIE_PTP_RATE, RW. -/
def KELPIE_PTP_RATE__RATE : Fld := ⟨KELPIE_PTP_RATE, 0, 32⟩
/-- 13_network.md Table 13.9 R344 -/
def KELPIE_PTP_STEP : Reg := ⟨0x00600198, 0x0, 1, 0x0, 1, 0x0⟩
/-- OFFSET of KELPIE_PTP_STEP, WO. -/
def KELPIE_PTP_STEP__OFFSET : Fld := ⟨KELPIE_PTP_STEP, 0, 64⟩
/-- 13_network.md Table 13.9 R344 -/
def KELPIE_SYNC_CTRL : Reg := ⟨0x006001C0, 0x0, 1, 0x0, 1, 0x0⟩
/-- ARM of KELPIE_SYNC_CTRL, W1S. -/
def KELPIE_SYNC_CTRL__ARM : Fld := ⟨KELPIE_SYNC_CTRL, 0, 1⟩
/-- DISARM of KELPIE_SYNC_CTRL, WO. -/
def KELPIE_SYNC_CTRL__DISARM : Fld := ⟨KELPIE_SYNC_CTRL, 1, 1⟩
/-- SRC of KELPIE_SYNC_CTRL, RW. -/
def KELPIE_SYNC_CTRL__SRC : Fld := ⟨KELPIE_SYNC_CTRL, 2, 1⟩
/-- DRIVE of KELPIE_SYNC_CTRL, WO. -/
def KELPIE_SYNC_CTRL__DRIVE : Fld := ⟨KELPIE_SYNC_CTRL, 3, 1⟩
/-- LATE of KELPIE_SYNC_CTRL, W1C. -/
def KELPIE_SYNC_CTRL__LATE : Fld := ⟨KELPIE_SYNC_CTRL, 4, 1⟩
/-- 13_network.md Table 13.9 R344 -/
def KELPIE_SYNC_TIME : Reg := ⟨0x006001C8, 0x0, 1, 0x0, 1, 0x0⟩
/-- START_TIME of KELPIE_SYNC_TIME, RW. -/
def KELPIE_SYNC_TIME__START_TIME : Fld := ⟨KELPIE_SYNC_TIME, 0, 64⟩
/-- 13_network.md Table 13.9 R344 -/
def KELPIE_CTX_CMD : Reg := ⟨0x00600200, 0x0, 1, 0x0, 1, 0x0⟩
/-- INDEX of KELPIE_CTX_CMD, RW. -/
def KELPIE_CTX_CMD__INDEX : Fld := ⟨KELPIE_CTX_CMD, 0, 16⟩
/-- OP of KELPIE_CTX_CMD, WO. -/
def KELPIE_CTX_CMD__OP : Fld := ⟨KELPIE_CTX_CMD, 16, 2⟩
/-- ERR of KELPIE_CTX_CMD, W1C. -/
def KELPIE_CTX_CMD__ERR : Fld := ⟨KELPIE_CTX_CMD, 18, 1⟩
/-- 13_network.md Table 13.9 R344 -/
def KELPIE_CTX_WORD : Reg := ⟨0x00600280, 0x8, 16, 0x0, 1, 0x0⟩
/-- DATA of KELPIE_CTX_WORD, RW. -/
def KELPIE_CTX_WORD__DATA : Fld := ⟨KELPIE_CTX_WORD, 0, 64⟩
/-- 13_network.md Table 13.9 R344 -/
def KELPIE_RKEY : Reg := ⟨0x00601000, 0x10, 64, 0x0, 1, 0x0⟩
/-- KEY of KELPIE_RKEY, RW. -/
def KELPIE_RKEY__KEY : Fld := ⟨KELPIE_RKEY, 0, 32⟩
/-- RD of KELPIE_RKEY, RW. -/
def KELPIE_RKEY__RD : Fld := ⟨KELPIE_RKEY, 32, 1⟩
/-- WR of KELPIE_RKEY, RW. -/
def KELPIE_RKEY__WR : Fld := ⟨KELPIE_RKEY, 33, 1⟩
/-- VALID of KELPIE_RKEY, RW. -/
def KELPIE_RKEY__VALID : Fld := ⟨KELPIE_RKEY, 34, 1⟩
/-- 13_network.md Table 13.9 R344 -/
def KELPIE_RKEY_RANGE : Reg := ⟨0x00601008, 0x10, 64, 0x0, 1, 0x0⟩
/-- BASE of KELPIE_RKEY_RANGE, RW. -/
def KELPIE_RKEY_RANGE__BASE : Fld := ⟨KELPIE_RKEY_RANGE, 21, 27⟩
/-- PAGES of KELPIE_RKEY_RANGE, RW. -/
def KELPIE_RKEY_RANGE__PAGES : Fld := ⟨KELPIE_RKEY_RANGE, 48, 16⟩
/-- 13_network.md Table 13.9 R344 -/
def KELPIE_KQ_CFG : Reg := ⟨0x00608000, 0x20, 1024, 0x0, 1, 0x4⟩
/-- LOG2SIZE of KELPIE_KQ_CFG, RW. -/
def KELPIE_KQ_CFG__LOG2SIZE : Fld := ⟨KELPIE_KQ_CFG, 0, 4⟩
/-- BASE of KELPIE_KQ_CFG, RW. -/
def KELPIE_KQ_CFG__BASE : Fld := ⟨KELPIE_KQ_CFG, 12, 48⟩
/-- 13_network.md Table 13.9 R344 -/
def KELPIE_KQ_PTR : Reg := ⟨0x00608008, 0x20, 1024, 0x0, 1, 0x0⟩
/-- HEAD of KELPIE_KQ_PTR, RW. -/
def KELPIE_KQ_PTR__HEAD : Fld := ⟨KELPIE_KQ_PTR, 0, 16⟩
/-- TAIL of KELPIE_KQ_PTR, RW. -/
def KELPIE_KQ_PTR__TAIL : Fld := ⟨KELPIE_KQ_PTR, 16, 16⟩
/-- STATE of KELPIE_KQ_PTR, RO. -/
def KELPIE_KQ_PTR__STATE : Fld := ⟨KELPIE_KQ_PTR, 32, 2⟩
/-- CLEAR of KELPIE_KQ_PTR, WO. -/
def KELPIE_KQ_PTR__CLEAR : Fld := ⟨KELPIE_KQ_PTR, 34, 1⟩
/-- TRIG_FAIL of KELPIE_KQ_PTR, W1C. -/
def KELPIE_KQ_PTR__TRIG_FAIL : Fld := ⟨KELPIE_KQ_PTR, 35, 1⟩
/-- 13_network.md Table 13.9 R344 -/
def KELPIE_KQ_TRIG : Reg := ⟨0x00608010, 0x20, 1024, 0x0, 1, 0x0⟩
/-- TRIG_CNT of KELPIE_KQ_TRIG, RO. -/
def KELPIE_KQ_TRIG__TRIG_CNT : Fld := ⟨KELPIE_KQ_TRIG, 0, 32⟩
/-- TRIG_USED of KELPIE_KQ_TRIG, RO. -/
def KELPIE_KQ_TRIG__TRIG_USED : Fld := ⟨KELPIE_KQ_TRIG, 32, 32⟩
/-- 13_network.md Table 13.10 R345 -/
def KELPIE_PORT_FEC_CORR_COUNT : Reg := ⟨0x00602000, 0x40, 16, 0x0, 1, 0x0⟩
/-- COUNT of KELPIE_PORT_FEC_CORR_COUNT, RO. -/
def KELPIE_PORT_FEC_CORR_COUNT__COUNT : Fld := ⟨KELPIE_PORT_FEC_CORR_COUNT, 0, 63⟩
/-- SAT of KELPIE_PORT_FEC_CORR_COUNT, RO. -/
def KELPIE_PORT_FEC_CORR_COUNT__SAT : Fld := ⟨KELPIE_PORT_FEC_CORR_COUNT, 63, 1⟩
/-- 13_network.md Table 13.10 R345 -/
def KELPIE_PORT_FEC_UNCORR_COUNT : Reg := ⟨0x00602008, 0x40, 16, 0x0, 1, 0x0⟩
/-- COUNT of KELPIE_PORT_FEC_UNCORR_COUNT, RO. -/
def KELPIE_PORT_FEC_UNCORR_COUNT__COUNT : Fld := ⟨KELPIE_PORT_FEC_UNCORR_COUNT, 0, 63⟩
/-- SAT of KELPIE_PORT_FEC_UNCORR_COUNT, RO. -/
def KELPIE_PORT_FEC_UNCORR_COUNT__SAT : Fld := ⟨KELPIE_PORT_FEC_UNCORR_COUNT, 63, 1⟩
/-- 13_network.md Table 13.10 R345 -/
def KELPIE_PORT_DROP_COUNT : Reg := ⟨0x00602010, 0x40, 16, 0x0, 1, 0x0⟩
/-- COUNT of KELPIE_PORT_DROP_COUNT, RO. -/
def KELPIE_PORT_DROP_COUNT__COUNT : Fld := ⟨KELPIE_PORT_DROP_COUNT, 0, 63⟩
/-- SAT of KELPIE_PORT_DROP_COUNT, RO. -/
def KELPIE_PORT_DROP_COUNT__SAT : Fld := ⟨KELPIE_PORT_DROP_COUNT, 63, 1⟩
/-- 13_network.md Table 13.10 R345 -/
def KELPIE_PORT_PAUSE_COUNT : Reg := ⟨0x00602018, 0x40, 16, 0x0, 1, 0x0⟩
/-- COUNT of KELPIE_PORT_PAUSE_COUNT, RO. -/
def KELPIE_PORT_PAUSE_COUNT__COUNT : Fld := ⟨KELPIE_PORT_PAUSE_COUNT, 0, 63⟩
/-- SAT of KELPIE_PORT_PAUSE_COUNT, RO. -/
def KELPIE_PORT_PAUSE_COUNT__SAT : Fld := ⟨KELPIE_PORT_PAUSE_COUNT, 63, 1⟩
/-- 13_network.md Table 13.10 R345 -/
def KELPIE_RETX_COUNT : Reg := ⟨0x00603000, 0x0, 1, 0x0, 1, 0x0⟩
/-- COUNT of KELPIE_RETX_COUNT, RO. -/
def KELPIE_RETX_COUNT__COUNT : Fld := ⟨KELPIE_RETX_COUNT, 0, 63⟩
/-- SAT of KELPIE_RETX_COUNT, RO. -/
def KELPIE_RETX_COUNT__SAT : Fld := ⟨KELPIE_RETX_COUNT, 63, 1⟩
/-- 13_network.md Table 13.10 R345 -/
def KELPIE_RNR_COUNT : Reg := ⟨0x00603008, 0x0, 1, 0x0, 1, 0x0⟩
/-- COUNT of KELPIE_RNR_COUNT, RO. -/
def KELPIE_RNR_COUNT__COUNT : Fld := ⟨KELPIE_RNR_COUNT, 0, 63⟩
/-- SAT of KELPIE_RNR_COUNT, RO. -/
def KELPIE_RNR_COUNT__SAT : Fld := ⟨KELPIE_RNR_COUNT, 63, 1⟩
/-- 13_network.md Table 13.10 R345 -/
def KELPIE_ECE_COUNT : Reg := ⟨0x00603010, 0x0, 1, 0x0, 1, 0x0⟩
/-- COUNT of KELPIE_ECE_COUNT, RO. -/
def KELPIE_ECE_COUNT__COUNT : Fld := ⟨KELPIE_ECE_COUNT, 0, 63⟩
/-- SAT of KELPIE_ECE_COUNT, RO. -/
def KELPIE_ECE_COUNT__SAT : Fld := ⟨KELPIE_ECE_COUNT, 63, 1⟩
/-- 13_network.md Table 13.10 R345 -/
def KELPIE_CNP_COUNT : Reg := ⟨0x00603018, 0x0, 1, 0x0, 1, 0x0⟩
/-- COUNT of KELPIE_CNP_COUNT, RO. -/
def KELPIE_CNP_COUNT__COUNT : Fld := ⟨KELPIE_CNP_COUNT, 0, 63⟩
/-- SAT of KELPIE_CNP_COUNT, RO. -/
def KELPIE_CNP_COUNT__SAT : Fld := ⟨KELPIE_CNP_COUNT, 63, 1⟩
/-- 13_network.md Table 13.10 R345 -/
def KELPIE_SYNC_FIRED_COUNT : Reg := ⟨0x00603020, 0x0, 1, 0x0, 1, 0x0⟩
/-- COUNT of KELPIE_SYNC_FIRED_COUNT, RO. -/
def KELPIE_SYNC_FIRED_COUNT__COUNT : Fld := ⟨KELPIE_SYNC_FIRED_COUNT, 0, 63⟩
/-- SAT of KELPIE_SYNC_FIRED_COUNT, RO. -/
def KELPIE_SYNC_FIRED_COUNT__SAT : Fld := ⟨KELPIE_SYNC_FIRED_COUNT, 63, 1⟩
/-- 13_network.md Table 13.10 R345 -/
def KELPIE_SYNC_IGNORED_COUNT : Reg := ⟨0x00603028, 0x0, 1, 0x0, 1, 0x0⟩
/-- COUNT of KELPIE_SYNC_IGNORED_COUNT, RO. -/
def KELPIE_SYNC_IGNORED_COUNT__COUNT : Fld := ⟨KELPIE_SYNC_IGNORED_COUNT, 0, 63⟩
/-- SAT of KELPIE_SYNC_IGNORED_COUNT, RO. -/
def KELPIE_SYNC_IGNORED_COUNT__SAT : Fld := ⟨KELPIE_SYNC_IGNORED_COUNT, 63, 1⟩
/-- 14_determinism.md Table 14.8 R361 -/
def HUB_START : Reg := ⟨0x00000018, 0x0, 1, 0x0, 1, 0x0⟩
/-- GO of HUB_START, WO. -/
def HUB_START__GO : Fld := ⟨HUB_START, 0, 1⟩
/-- PENDING of HUB_START, RO. -/
def HUB_START__PENDING : Fld := ⟨HUB_START, 1, 1⟩
/-- DOUBLE of HUB_START, W1C. -/
def HUB_START__DOUBLE : Fld := ⟨HUB_START, 2, 1⟩
/-- LATE of HUB_START, W1C. -/
def HUB_START__LATE : Fld := ⟨HUB_START, 3, 1⟩
/-- LATE_MASK of HUB_START, RO. -/
def HUB_START__LATE_MASK : Fld := ⟨HUB_START, 4, 16⟩
/-- 14_determinism.md Table 14.8 R361 -/
def OPAL_CTRL : Reg := ⟨0x00005000, 0x0, 1, 0x0, 1, 0x0⟩
/-- OPEN of OPAL_CTRL, WO. -/
def OPAL_CTRL__OPEN : Fld := ⟨OPAL_CTRL, 0, 1⟩
/-- CLOSE of OPAL_CTRL, WO. -/
def OPAL_CTRL__CLOSE : Fld := ⟨OPAL_CTRL, 1, 1⟩
/-- SIGN of OPAL_CTRL, RW. -/
def OPAL_CTRL__SIGN : Fld := ⟨OPAL_CTRL, 2, 1⟩
/-- 14_determinism.md Table 14.8 R361 -/
def OPAL_STATUS : Reg := ⟨0x00005008, 0x0, 1, 0x0, 1, 0x0⟩
/-- PLAN_VALID of OPAL_STATUS, RO. -/
def OPAL_STATUS__PLAN_VALID : Fld := ⟨OPAL_STATUS, 0, 1⟩
/-- RUN_OPEN of OPAL_STATUS, RO. -/
def OPAL_STATUS__RUN_OPEN : Fld := ⟨OPAL_STATUS, 1, 1⟩
/-- DIGEST_VALID of OPAL_STATUS, RO. -/
def OPAL_STATUS__DIGEST_VALID : Fld := ⟨OPAL_STATUS, 2, 1⟩
/-- SIG_BUSY of OPAL_STATUS, RO. -/
def OPAL_STATUS__SIG_BUSY : Fld := ⟨OPAL_STATUS, 3, 1⟩
/-- SIG_DONE of OPAL_STATUS, RO. -/
def OPAL_STATUS__SIG_DONE : Fld := ⟨OPAL_STATUS, 4, 1⟩
/-- SIG_ERR of OPAL_STATUS, W1C. -/
def OPAL_STATUS__SIG_ERR : Fld := ⟨OPAL_STATUS, 5, 1⟩
/-- ERR of OPAL_STATUS, W1C. -/
def OPAL_STATUS__ERR : Fld := ⟨OPAL_STATUS, 6, 1⟩
/-- 14_determinism.md Table 14.8 R361 -/
def OPAL_DIGEST : Reg := ⟨0x00005200, 0x8, 8, 0x0, 1, 0x0⟩
/-- DIGEST of OPAL_DIGEST, RO. -/
def OPAL_DIGEST__DIGEST : Fld := ⟨OPAL_DIGEST, 0, 64⟩
/-- 14_determinism.md Table 14.8 R361 -/
def OPAL_SIG_VA : Reg := ⟨0x00005240, 0x0, 1, 0x0, 1, 0x0⟩
/-- VA of OPAL_SIG_VA, RW. -/
def OPAL_SIG_VA__VA : Fld := ⟨OPAL_SIG_VA, 5, 43⟩
/-- 14_determinism.md Table 14.7 R356, R361 -/
def OPAL_PLAN_HASH : Reg := ⟨0x00005100, 0x8, 8, 0x0, 1, 0x0⟩
/-- PLAN_HASH of OPAL_PLAN_HASH, RO. -/
def OPAL_PLAN_HASH__PLAN_HASH : Fld := ⟨OPAL_PLAN_HASH, 0, 64⟩
/-- 14_determinism.md Table 14.7 R356, R361 -/
def OPAL_WEIGHT_HASH : Reg := ⟨0x00005140, 0x8, 8, 0x0, 1, 0x0⟩
/-- WEIGHT_HASH of OPAL_WEIGHT_HASH, RW. -/
def OPAL_WEIGHT_HASH__WEIGHT_HASH : Fld := ⟨OPAL_WEIGHT_HASH, 0, 64⟩
/-- 14_determinism.md Table 14.7 R356, R361 -/
def OPAL_INPUT_HASH : Reg := ⟨0x00005180, 0x8, 8, 0x0, 1, 0x0⟩
/-- INPUT_HASH of OPAL_INPUT_HASH, RW. -/
def OPAL_INPUT_HASH__INPUT_HASH : Fld := ⟨OPAL_INPUT_HASH, 0, 64⟩
/-- 14_determinism.md Table 14.7 R356, R361 -/
def OPAL_SEED : Reg := ⟨0x000051C0, 0x8, 1, 0x0, 1, 0x0⟩
/-- SEED of OPAL_SEED, RW. -/
def OPAL_SEED__SEED : Fld := ⟨OPAL_SEED, 0, 64⟩
/-- 14_determinism.md Table 14.7 R356, R361 -/
def OPAL_P_FORMAT_MODE : Reg := ⟨0x000051C8, 0x0, 1, 0x0, 1, 0x10000⟩
/-- P of OPAL_P_FORMAT_MODE, RW. -/
def OPAL_P_FORMAT_MODE__P : Fld := ⟨OPAL_P_FORMAT_MODE, 0, 16⟩
/-- FORMAT of OPAL_P_FORMAT_MODE, RO. -/
def OPAL_P_FORMAT_MODE__FORMAT : Fld := ⟨OPAL_P_FORMAT_MODE, 16, 16⟩
/-- MODE of OPAL_P_FORMAT_MODE, RO. -/
def OPAL_P_FORMAT_MODE__MODE : Fld := ⟨OPAL_P_FORMAT_MODE, 32, 32⟩
/-- Words 26 to 31 of OPAL_IN. 14_determinism.md Table 14.7 R356, R361 -/
def OPAL_IN_REST : Reg := ⟨0x000051D0, 0x8, 6, 0x0, 1, 0x0⟩
/-- Reserved bits of OPAL_IN_REST, RO. -/
def OPAL_IN_REST__ZERO : Fld := ⟨OPAL_IN_REST, 0, 64⟩
/-- 14_determinism.md Table 14.9 R361 -/
def HUB_START_COUNT : Reg := ⟨0x00000040, 0x0, 1, 0x0, 1, 0x0⟩
/-- COUNT of HUB_START_COUNT, RO. -/
def HUB_START_COUNT__COUNT : Fld := ⟨HUB_START_COUNT, 0, 63⟩
/-- SAT of HUB_START_COUNT, RO. -/
def HUB_START_COUNT__SAT : Fld := ⟨HUB_START_COUNT, 63, 1⟩
/-- 14_determinism.md Table 14.9 R361 -/
def HUB_START_IGNORED_COUNT : Reg := ⟨0x00000048, 0x0, 1, 0x0, 1, 0x0⟩
/-- COUNT of HUB_START_IGNORED_COUNT, RO. -/
def HUB_START_IGNORED_COUNT__COUNT : Fld := ⟨HUB_START_IGNORED_COUNT, 0, 63⟩
/-- SAT of HUB_START_IGNORED_COUNT, RO. -/
def HUB_START_IGNORED_COUNT__SAT : Fld := ⟨HUB_START_IGNORED_COUNT, 63, 1⟩
/-- 14_determinism.md Table 14.9 R361 -/
def HUB_START_LATE_COUNT : Reg := ⟨0x00000050, 0x0, 1, 0x0, 1, 0x0⟩
/-- COUNT of HUB_START_LATE_COUNT, RO. -/
def HUB_START_LATE_COUNT__COUNT : Fld := ⟨HUB_START_LATE_COUNT, 0, 63⟩
/-- SAT of HUB_START_LATE_COUNT, RO. -/
def HUB_START_LATE_COUNT__SAT : Fld := ⟨HUB_START_LATE_COUNT, 63, 1⟩
/-- 14_determinism.md Table 14.9 R361 -/
def OPAL_DIGEST_COUNT : Reg := ⟨0x00005300, 0x0, 1, 0x0, 1, 0x0⟩
/-- COUNT of OPAL_DIGEST_COUNT, RO. -/
def OPAL_DIGEST_COUNT__COUNT : Fld := ⟨OPAL_DIGEST_COUNT, 0, 63⟩
/-- SAT of OPAL_DIGEST_COUNT, RO. -/
def OPAL_DIGEST_COUNT__SAT : Fld := ⟨OPAL_DIGEST_COUNT, 63, 1⟩
/-- 14_determinism.md Table 14.9 R361 -/
def OPAL_SIGN_COUNT : Reg := ⟨0x00005308, 0x0, 1, 0x0, 1, 0x0⟩
/-- COUNT of OPAL_SIGN_COUNT, RO. -/
def OPAL_SIGN_COUNT__COUNT : Fld := ⟨OPAL_SIGN_COUNT, 0, 63⟩
/-- SAT of OPAL_SIGN_COUNT, RO. -/
def OPAL_SIGN_COUNT__SAT : Fld := ⟨OPAL_SIGN_COUNT, 63, 1⟩
/-- 15_fault_tolerance.md Table 15.7 R382 -/
def REGION_BIND : Reg := ⟨0x01000200, 0x100000, 16, 0x8, 18, 0x0⟩
/-- SLOT of REGION_BIND, RW. -/
def REGION_BIND__SLOT : Fld := ⟨REGION_BIND, 0, 5⟩
/-- BOUND of REGION_BIND, RW. -/
def REGION_BIND__BOUND : Fld := ⟨REGION_BIND, 8, 1⟩
/-- 15_fault_tolerance.md Table 15.7 R382 -/
def REGION_STANDBY : Reg := ⟨0x01000290, 0x100000, 16, 0x0, 1, 0x0⟩
/-- MASK of REGION_STANDBY, RW. -/
def REGION_STANDBY__MASK : Fld := ⟨REGION_STANDBY, 0, 18⟩
/-- 15_fault_tolerance.md Table 15.7 R382 -/
def REGION_FENCE : Reg := ⟨0x01000298, 0x100000, 16, 0x0, 1, 0x0⟩
/-- FENCED of REGION_FENCE, RO. -/
def REGION_FENCE__FENCED : Fld := ⟨REGION_FENCE, 0, 18⟩
/-- REBUILDING of REGION_FENCE, RO. -/
def REGION_FENCE__REBUILDING : Fld := ⟨REGION_FENCE, 18, 18⟩
/-- REGION_FENCED of REGION_FENCE, RO. -/
def REGION_FENCE__REGION_FENCED : Fld := ⟨REGION_FENCE, 36, 1⟩
/-- BIND_ERR of REGION_FENCE, W1C. -/
def REGION_FENCE__BIND_ERR : Fld := ⟨REGION_FENCE, 37, 1⟩
/-- LAST_SLOT of REGION_FENCE, RO. -/
def REGION_FENCE__LAST_SLOT : Fld := ⟨REGION_FENCE, 38, 5⟩
/-- 15_fault_tolerance.md Table 15.7 R382 -/
def REGION_FENCE_LOG : Reg := ⟨0x010002A0, 0x100000, 16, 0x0, 1, 0x0⟩
/-- FAULT of REGION_FENCE_LOG, RO. -/
def REGION_FENCE_LOG__FAULT : Fld := ⟨REGION_FENCE_LOG, 0, 64⟩
/-- 15_fault_tolerance.md Table 15.7 R382 -/
def REGION_FENCE_INFO : Reg := ⟨0x010002A8, 0x100000, 16, 0x0, 1, 0x0⟩
/-- INFO of REGION_FENCE_INFO, RO. -/
def REGION_FENCE_INFO__INFO : Fld := ⟨REGION_FENCE_INFO, 0, 64⟩
/-- 15_fault_tolerance.md Table 15.7 R382 -/
def REGION_FAULT : Reg := ⟨0x010002B0, 0x100000, 16, 0x0, 1, 0x0⟩
/-- VALID of REGION_FAULT, RO. -/
def REGION_FAULT__VALID : Fld := ⟨REGION_FAULT, 0, 1⟩
/-- CODE of REGION_FAULT, RO. -/
def REGION_FAULT__CODE : Fld := ⟨REGION_FAULT, 8, 8⟩
/-- 15_fault_tolerance.md Table 15.8 R382 -/
def BH_CTRL : Reg := ⟨0x00300000, 0x0, 1, 0x0, 1, 0x1⟩
/-- RECOVER_EN of BH_CTRL, RW. -/
def BH_CTRL__RECOVER_EN : Fld := ⟨BH_CTRL, 0, 1⟩
/-- 15_fault_tolerance.md Table 15.8 R382 -/
def BH_STATUS : Reg := ⟨0x00300008, 0x0, 1, 0x0, 1, 0x0⟩
/-- STATE of BH_STATUS, RO. -/
def BH_STATUS__STATE : Fld := ⟨BH_STATUS, 0, 3⟩
/-- DEV_FAILED of BH_STATUS, RO. -/
def BH_STATUS__DEV_FAILED : Fld := ⟨BH_STATUS, 3, 1⟩
/-- QUEUED of BH_STATUS, RO. -/
def BH_STATUS__QUEUED : Fld := ⟨BH_STATUS, 4, 5⟩
/-- LOST of BH_STATUS, RO. -/
def BH_STATUS__LOST : Fld := ⟨BH_STATUS, 16, 9⟩
/-- STANDBY of BH_STATUS, RO. -/
def BH_STATUS__STANDBY : Fld := ⟨BH_STATUS, 25, 9⟩
/-- PAGES_LEFT of BH_STATUS, RO. -/
def BH_STATUS__PAGES_LEFT : Fld := ⟨BH_STATUS, 34, 12⟩
/-- 15_fault_tolerance.md Table 15.8 R382 -/
def BH_REPLAY_CFG : Reg := ⟨0x00300010, 0x0, 1, 0x0, 1, 0x0⟩
/-- VA of BH_REPLAY_CFG, RW. -/
def BH_REPLAY_CFG__VA : Fld := ⟨BH_REPLAY_CFG, 4, 44⟩
/-- CAP of BH_REPLAY_CFG, RW. -/
def BH_REPLAY_CFG__CAP : Fld := ⟨BH_REPLAY_CFG, 48, 16⟩
/-- 15_fault_tolerance.md Table 15.8 R382 -/
def BH_REPLAY_STATUS : Reg := ⟨0x00300018, 0x0, 1, 0x0, 1, 0x0⟩
/-- COUNT of BH_REPLAY_STATUS, RO. -/
def BH_REPLAY_STATUS__COUNT : Fld := ⟨BH_REPLAY_STATUS, 0, 16⟩
/-- OVF of BH_REPLAY_STATUS, RO. -/
def BH_REPLAY_STATUS__OVF : Fld := ⟨BH_REPLAY_STATUS, 16, 1⟩
/-- 15_fault_tolerance.md Table 15.8 R382 -/
def BH_PARITY_CMD : Reg := ⟨0x00300020, 0x0, 1, 0x0, 1, 0x0⟩
/-- OP of BH_PARITY_CMD, WO. -/
def BH_PARITY_CMD__OP : Fld := ⟨BH_PARITY_CMD, 0, 2⟩
/-- FIRST_GROUP of BH_PARITY_CMD, RW. -/
def BH_PARITY_CMD__FIRST_GROUP : Fld := ⟨BH_PARITY_CMD, 2, 15⟩
/-- COUNT of BH_PARITY_CMD, RW. -/
def BH_PARITY_CMD__COUNT : Fld := ⟨BH_PARITY_CMD, 17, 16⟩
/-- 15_fault_tolerance.md Table 15.8 R382 -/
def BH_PARITY_STATUS : Reg := ⟨0x00300028, 0x0, 1, 0x0, 1, 0x0⟩
/-- BUSY of BH_PARITY_STATUS, RO. -/
def BH_PARITY_STATUS__BUSY : Fld := ⟨BH_PARITY_STATUS, 0, 1⟩
/-- ERR of BH_PARITY_STATUS, W1C. -/
def BH_PARITY_STATUS__ERR : Fld := ⟨BH_PARITY_STATUS, 1, 1⟩
/-- CAUSE of BH_PARITY_STATUS, RO. -/
def BH_PARITY_STATUS__CAUSE : Fld := ⟨BH_PARITY_STATUS, 2, 2⟩
/-- BAD_GROUP of BH_PARITY_STATUS, RO. -/
def BH_PARITY_STATUS__BAD_GROUP : Fld := ⟨BH_PARITY_STATUS, 4, 15⟩
/-- MISMATCH of BH_PARITY_STATUS, RO. -/
def BH_PARITY_STATUS__MISMATCH : Fld := ⟨BH_PARITY_STATUS, 19, 16⟩
/-- 15_fault_tolerance.md Table 15.8 R382 -/
def BH_DIE_CMD : Reg := ⟨0x00300030, 0x0, 1, 0x0, 1, 0x0⟩
/-- OP of BH_DIE_CMD, WO. -/
def BH_DIE_CMD__OP : Fld := ⟨BH_DIE_CMD, 0, 2⟩
/-- DIE of BH_DIE_CMD, WO. -/
def BH_DIE_CMD__DIE : Fld := ⟨BH_DIE_CMD, 2, 2⟩
/-- FULL of BH_DIE_CMD, WO. -/
def BH_DIE_CMD__FULL : Fld := ⟨BH_DIE_CMD, 4, 1⟩
/-- 15_fault_tolerance.md Table 15.8 R382 -/
def BH_DIE_STATUS : Reg := ⟨0x00300038, 0x0, 1, 0x0, 1, 0x0⟩
/-- STATE of BH_DIE_STATUS, RO. -/
def BH_DIE_STATUS__STATE : Fld := ⟨BH_DIE_STATUS, 0, 15⟩
/-- ERR of BH_DIE_STATUS, W1C. -/
def BH_DIE_STATUS__ERR : Fld := ⟨BH_DIE_STATUS, 16, 1⟩
/-- CAUSE of BH_DIE_STATUS, RO. -/
def BH_DIE_STATUS__CAUSE : Fld := ⟨BH_DIE_STATUS, 17, 2⟩
/-- 15_fault_tolerance.md Table 15.8 R382 -/
def BH_DEV_FAULT : Reg := ⟨0x00300040, 0x0, 1, 0x0, 1, 0x0⟩
/-- VALID of BH_DEV_FAULT, RO. -/
def BH_DEV_FAULT__VALID : Fld := ⟨BH_DEV_FAULT, 0, 1⟩
/-- CODE of BH_DEV_FAULT, RO. -/
def BH_DEV_FAULT__CODE : Fld := ⟨BH_DEV_FAULT, 8, 8⟩
/-- DIE of BH_DEV_FAULT, RO. -/
def BH_DEV_FAULT__DIE : Fld := ⟨BH_DEV_FAULT, 16, 2⟩
/-- CAUSE of BH_DEV_FAULT, RO. -/
def BH_DEV_FAULT__CAUSE : Fld := ⟨BH_DEV_FAULT, 18, 4⟩
/-- 15_fault_tolerance.md Table 15.9 R383 -/
def BH_FENCE_COUNT : Reg := ⟨0x00300100, 0x0, 1, 0x0, 1, 0x0⟩
/-- COUNT of BH_FENCE_COUNT, RO. -/
def BH_FENCE_COUNT__COUNT : Fld := ⟨BH_FENCE_COUNT, 0, 63⟩
/-- SAT of BH_FENCE_COUNT, RO. -/
def BH_FENCE_COUNT__SAT : Fld := ⟨BH_FENCE_COUNT, 63, 1⟩
/-- 15_fault_tolerance.md Table 15.9 R383 -/
def BH_RECOVERY_COUNT : Reg := ⟨0x00300108, 0x0, 1, 0x0, 1, 0x0⟩
/-- COUNT of BH_RECOVERY_COUNT, RO. -/
def BH_RECOVERY_COUNT__COUNT : Fld := ⟨BH_RECOVERY_COUNT, 0, 63⟩
/-- SAT of BH_RECOVERY_COUNT, RO. -/
def BH_RECOVERY_COUNT__SAT : Fld := ⟨BH_RECOVERY_COUNT, 63, 1⟩
/-- 15_fault_tolerance.md Table 15.9 R383 -/
def BH_REBUILD_WINDOW_COUNT : Reg := ⟨0x00300110, 0x0, 1, 0x0, 1, 0x0⟩
/-- COUNT of BH_REBUILD_WINDOW_COUNT, RO. -/
def BH_REBUILD_WINDOW_COUNT__COUNT : Fld := ⟨BH_REBUILD_WINDOW_COUNT, 0, 63⟩
/-- SAT of BH_REBUILD_WINDOW_COUNT, RO. -/
def BH_REBUILD_WINDOW_COUNT__SAT : Fld := ⟨BH_REBUILD_WINDOW_COUNT, 63, 1⟩
/-- 15_fault_tolerance.md Table 15.9 R383 -/
def BH_PARITY_LOST_COUNT : Reg := ⟨0x00300118, 0x0, 1, 0x0, 1, 0x0⟩
/-- COUNT of BH_PARITY_LOST_COUNT, RO. -/
def BH_PARITY_LOST_COUNT__COUNT : Fld := ⟨BH_PARITY_LOST_COUNT, 0, 63⟩
/-- SAT of BH_PARITY_LOST_COUNT, RO. -/
def BH_PARITY_LOST_COUNT__SAT : Fld := ⟨BH_PARITY_LOST_COUNT, 63, 1⟩
/-- 15_fault_tolerance.md Table 15.9 R383 -/
def BH_CAP_REDUCED_COUNT : Reg := ⟨0x00300120, 0x0, 1, 0x0, 1, 0x0⟩
/-- COUNT of BH_CAP_REDUCED_COUNT, RO. -/
def BH_CAP_REDUCED_COUNT__COUNT : Fld := ⟨BH_CAP_REDUCED_COUNT, 0, 63⟩
/-- SAT of BH_CAP_REDUCED_COUNT, RO. -/
def BH_CAP_REDUCED_COUNT__SAT : Fld := ⟨BH_CAP_REDUCED_COUNT, 63, 1⟩
/-- 16_thermal_power.md Table 16.6 R411 -/
def HUSKY_CTRL : Reg := ⟨0x00200000, 0x0, 1, 0x0, 1, 0xC⟩
/-- RESUME of HUSKY_CTRL, WO. -/
def HUSKY_CTRL__RESUME : Fld := ⟨HUSKY_CTRL, 0, 1⟩
/-- STOP of HUSKY_CTRL, WO. -/
def HUSKY_CTRL__STOP : Fld := ⟨HUSKY_CTRL, 1, 1⟩
/-- WARM_EN of HUSKY_CTRL, RW. -/
def HUSKY_CTRL__WARM_EN : Fld := ⟨HUSKY_CTRL, 2, 1⟩
/-- PREDICT_EN of HUSKY_CTRL, RW. -/
def HUSKY_CTRL__PREDICT_EN : Fld := ⟨HUSKY_CTRL, 3, 1⟩
/-- 16_thermal_power.md Table 16.6 R411 -/
def HUSKY_STATUS : Reg := ⟨0x00200008, 0x0, 1, 0x0, 1, 0x0⟩
/-- STATE of HUSKY_STATUS, RO. -/
def HUSKY_STATUS__STATE : Fld := ⟨HUSKY_STATUS, 0, 2⟩
/-- TRIPPED of HUSKY_STATUS, RO. -/
def HUSKY_STATUS__TRIPPED : Fld := ⟨HUSKY_STATUS, 2, 1⟩
/-- FLOW_LOW of HUSKY_STATUS, RO. -/
def HUSKY_STATUS__FLOW_LOW : Fld := ⟨HUSKY_STATUS, 3, 1⟩
/-- FLOW_IMPLAUSIBLE of HUSKY_STATUS, RO. -/
def HUSKY_STATUS__FLOW_IMPLAUSIBLE : Fld := ⟨HUSKY_STATUS, 4, 1⟩
/-- TRAY_LOST of HUSKY_STATUS, RO. -/
def HUSKY_STATUS__TRAY_LOST : Fld := ⟨HUSKY_STATUS, 5, 1⟩
/-- ERR of HUSKY_STATUS, W1C. -/
def HUSKY_STATUS__ERR : Fld := ⟨HUSKY_STATUS, 6, 1⟩
/-- STOP_CAUSE of HUSKY_STATUS, RO. -/
def HUSKY_STATUS__STOP_CAUSE : Fld := ⟨HUSKY_STATUS, 8, 8⟩
/-- EFF_CAP_W of HUSKY_STATUS, RO. -/
def HUSKY_STATUS__EFF_CAP_W : Fld := ⟨HUSKY_STATUS, 16, 16⟩
/-- 16_thermal_power.md Table 16.6 R411 -/
def HUSKY_THRESH : Reg := ⟨0x00200010, 0x0, 1, 0x0, 1, 0x67200278286C5F⟩
/-- TJ_THROTTLE of HUSKY_THRESH, RW. -/
def HUSKY_THRESH__TJ_THROTTLE : Fld := ⟨HUSKY_THRESH, 0, 8⟩
/-- TJ_STOP of HUSKY_THRESH, RW. -/
def HUSKY_THRESH__TJ_STOP : Fld := ⟨HUSKY_THRESH, 8, 8⟩
/-- RATE_THR of HUSKY_THRESH, RW. -/
def HUSKY_THRESH__RATE_THR : Fld := ⟨HUSKY_THRESH, 16, 8⟩
/-- RATE_STOP of HUSKY_THRESH, RW. -/
def HUSKY_THRESH__RATE_STOP : Fld := ⟨HUSKY_THRESH, 24, 8⟩
/-- MARGIN of HUSKY_THRESH, RW. -/
def HUSKY_THRESH__MARGIN : Fld := ⟨HUSKY_THRESH, 32, 8⟩
/-- DUTY_THROTTLE of HUSKY_THRESH, RW. -/
def HUSKY_THRESH__DUTY_THROTTLE : Fld := ⟨HUSKY_THRESH, 40, 8⟩
/-- DRAM_LIMIT of HUSKY_THRESH, RW. -/
def HUSKY_THRESH__DRAM_LIMIT : Fld := ⟨HUSKY_THRESH, 48, 8⟩
/-- 16_thermal_power.md Table 16.6 R411 -/
def HUSKY_PCAP : Reg := ⟨0x00200018, 0x0, 1, 0x0, 1, 0x0⟩
/-- USER_W of HUSKY_PCAP, RW. -/
def HUSKY_PCAP__USER_W : Fld := ⟨HUSKY_PCAP, 0, 16⟩
/-- 16_thermal_power.md Table 16.6 R411 -/
def HUSKY_RAMP : Reg := ⟨0x00200020, 0x0, 1, 0x0, 1, 0x460500C8⟩
/-- RAMP of HUSKY_RAMP, RW. -/
def HUSKY_RAMP__RAMP : Fld := ⟨HUSKY_RAMP, 0, 16⟩
/-- SLEW of HUSKY_RAMP, RW. -/
def HUSKY_RAMP__SLEW : Fld := ⟨HUSKY_RAMP, 16, 8⟩
/-- WARM_PCT of HUSKY_RAMP, RW. -/
def HUSKY_RAMP__WARM_PCT : Fld := ⟨HUSKY_RAMP, 24, 7⟩
/-- 16_thermal_power.md Table 16.6 R411 -/
def HUSKY_POWER : Reg := ⟨0x00200028, 0x0, 1, 0x0, 1, 0x0⟩
/-- EST_W of HUSKY_POWER, RO. -/
def HUSKY_POWER__EST_W : Fld := ⟨HUSKY_POWER, 0, 16⟩
/-- MEAS_W of HUSKY_POWER, RO. -/
def HUSKY_POWER__MEAS_W : Fld := ⟨HUSKY_POWER, 16, 16⟩
/-- 16_thermal_power.md Table 16.6 R411 -/
def HUSKY_DEV_MAX : Reg := ⟨0x00200030, 0x0, 1, 0x0, 1, 0x0⟩
/-- TEMP of HUSKY_DEV_MAX, RO. -/
def HUSKY_DEV_MAX__TEMP : Fld := ⟨HUSKY_DEV_MAX, 0, 12⟩
/-- SENSOR of HUSKY_DEV_MAX, RO. -/
def HUSKY_DEV_MAX__SENSOR : Fld := ⟨HUSKY_DEV_MAX, 16, 10⟩
/-- 16_thermal_power.md Table 16.6 R411 -/
def HUSKY_PD_CMD : Reg := ⟨0x00200040, 0x0, 1, 0x0, 1, 0x0⟩
/-- DOMAIN of HUSKY_PD_CMD, RW. -/
def HUSKY_PD_CMD__DOMAIN : Fld := ⟨HUSKY_PD_CMD, 0, 9⟩
/-- OP of HUSKY_PD_CMD, WO. -/
def HUSKY_PD_CMD__OP : Fld := ⟨HUSKY_PD_CMD, 9, 2⟩
/-- BUSY of HUSKY_PD_CMD, RO. -/
def HUSKY_PD_CMD__BUSY : Fld := ⟨HUSKY_PD_CMD, 11, 1⟩
/-- ERR of HUSKY_PD_CMD, W1C. -/
def HUSKY_PD_CMD__ERR : Fld := ⟨HUSKY_PD_CMD, 12, 1⟩
/-- CAUSE of HUSKY_PD_CMD, RO. -/
def HUSKY_PD_CMD__CAUSE : Fld := ⟨HUSKY_PD_CMD, 13, 3⟩
/-- 16_thermal_power.md Table 16.6 R411 -/
def HUSKY_STOP_REC0 : Reg := ⟨0x00200060, 0x0, 1, 0x0, 1, 0x0⟩
/-- TIME of HUSKY_STOP_REC0, RWS. -/
def HUSKY_STOP_REC0__TIME : Fld := ⟨HUSKY_STOP_REC0, 0, 64⟩
/-- 16_thermal_power.md Table 16.6 R411 -/
def HUSKY_STOP_REC1 : Reg := ⟨0x00200068, 0x0, 1, 0x0, 1, 0x0⟩
/-- CAUSE of HUSKY_STOP_REC1, RWS. -/
def HUSKY_STOP_REC1__CAUSE : Fld := ⟨HUSKY_STOP_REC1, 0, 8⟩
/-- TEMP of HUSKY_STOP_REC1, RWS. -/
def HUSKY_STOP_REC1__TEMP : Fld := ⟨HUSKY_STOP_REC1, 8, 12⟩
/-- SENSOR of HUSKY_STOP_REC1, RWS. -/
def HUSKY_STOP_REC1__SENSOR : Fld := ⟨HUSKY_STOP_REC1, 20, 10⟩
/-- 16_thermal_power.md Table 16.6 R411 -/
def HUSKY_TRAY_CFG : Reg := ⟨0x00200080, 0x0, 1, 0x0, 1, 0x0⟩
/-- NOM_FLOW of HUSKY_TRAY_CFG, RW. -/
def HUSKY_TRAY_CFG__NOM_FLOW : Fld := ⟨HUSKY_TRAY_CFG, 0, 16⟩
/-- MAX_FLOW of HUSKY_TRAY_CFG, RW. -/
def HUSKY_TRAY_CFG__MAX_FLOW : Fld := ⟨HUSKY_TRAY_CFG, 16, 16⟩
/-- TAU of HUSKY_TRAY_CFG, RW. -/
def HUSKY_TRAY_CFG__TAU : Fld := ⟨HUSKY_TRAY_CFG, 32, 16⟩
/-- CVOL of HUSKY_TRAY_CFG, RW. -/
def HUSKY_TRAY_CFG__CVOL : Fld := ⟨HUSKY_TRAY_CFG, 48, 16⟩
/-- 16_thermal_power.md Table 16.6 R411 -/
def HUSKY_TRAY_STATUS : Reg := ⟨0x00200088, 0x0, 1, 0x0, 1, 0x0⟩
/-- INLET of HUSKY_TRAY_STATUS, RO. -/
def HUSKY_TRAY_STATUS__INLET : Fld := ⟨HUSKY_TRAY_STATUS, 0, 16⟩
/-- OUTLET of HUSKY_TRAY_STATUS, RO. -/
def HUSKY_TRAY_STATUS__OUTLET : Fld := ⟨HUSKY_TRAY_STATUS, 16, 16⟩
/-- FLOW of HUSKY_TRAY_STATUS, RO. -/
def HUSKY_TRAY_STATUS__FLOW : Fld := ⟨HUSKY_TRAY_STATUS, 32, 16⟩
/-- DEMAND of HUSKY_TRAY_STATUS, RO. -/
def HUSKY_TRAY_STATUS__DEMAND : Fld := ⟨HUSKY_TRAY_STATUS, 48, 16⟩
/-- 16_thermal_power.md Table 16.6 R411 -/
def HUSKY_TRAY_ADDR : Reg := ⟨0x00200090, 0x0, 1, 0x0, 1, 0x0⟩
/-- ADDR of HUSKY_TRAY_ADDR, RW. -/
def HUSKY_TRAY_ADDR__ADDR : Fld := ⟨HUSKY_TRAY_ADDR, 0, 7⟩
/-- 16_thermal_power.md Table 16.6 R411 -/
def HUSKY_TILE : Reg := ⟨0x00201000, 0x8, 288, 0x0, 1, 0x40⟩
/-- DUTY of HUSKY_TILE, RO. -/
def HUSKY_TILE__DUTY : Fld := ⟨HUSKY_TILE, 0, 7⟩
/-- MAX of HUSKY_TILE, RO. -/
def HUSKY_TILE__MAX : Fld := ⟨HUSKY_TILE, 8, 12⟩
/-- SENSOR of HUSKY_TILE, RO. -/
def HUSKY_TILE__SENSOR : Fld := ⟨HUSKY_TILE, 20, 2⟩
/-- THROTTLED of HUSKY_TILE, RO. -/
def HUSKY_TILE__THROTTLED : Fld := ⟨HUSKY_TILE, 22, 1⟩
/-- 16_thermal_power.md Table 16.6 R411 -/
def HUSKY_PD_STATE : Reg := ⟨0x00202000, 0x8, 325, 0x0, 1, 0x0⟩
/-- STATE of HUSKY_PD_STATE, RO. -/
def HUSKY_PD_STATE__STATE : Fld := ⟨HUSKY_PD_STATE, 0, 2⟩
/-- CHANGING of HUSKY_PD_STATE, RO. -/
def HUSKY_PD_STATE__CHANGING : Fld := ⟨HUSKY_PD_STATE, 2, 1⟩
/-- 16_thermal_power.md Table 16.6 R411 -/
def HUSKY_SENSOR : Reg := ⟨0x00204000, 0x8, 1000, 0x0, 1, 0x0⟩
/-- TEMP of HUSKY_SENSOR, RO. -/
def HUSKY_SENSOR__TEMP : Fld := ⟨HUSKY_SENSOR, 0, 12⟩
/-- RATE of HUSKY_SENSOR, RO. -/
def HUSKY_SENSOR__RATE : Fld := ⟨HUSKY_SENSOR, 12, 12⟩
/-- VALID of HUSKY_SENSOR, RO. -/
def HUSKY_SENSOR__VALID : Fld := ⟨HUSKY_SENSOR, 24, 1⟩
/-- BROKEN of HUSKY_SENSOR, RO. -/
def HUSKY_SENSOR__BROKEN : Fld := ⟨HUSKY_SENSOR, 25, 1⟩
/-- SUSPECT of HUSKY_SENSOR, RO. -/
def HUSKY_SENSOR__SUSPECT : Fld := ⟨HUSKY_SENSOR, 26, 1⟩
/-- 16_thermal_power.md Table 16.6 R411 -/
def REGION_THERM : Reg := ⟨0x01000308, 0x100000, 16, 0x0, 1, 0x40000000⟩
/-- LOGIC_MAX of REGION_THERM, RO. -/
def REGION_THERM__LOGIC_MAX : Fld := ⟨REGION_THERM, 0, 12⟩
/-- SLOT of REGION_THERM, RO. -/
def REGION_THERM__SLOT : Fld := ⟨REGION_THERM, 12, 5⟩
/-- DUTY_MIN of REGION_THERM, RO. -/
def REGION_THERM__DUTY_MIN : Fld := ⟨REGION_THERM, 24, 7⟩
/-- 16_thermal_power.md Table 16.7 R412 -/
def HUSKY_THROTTLE_COUNT : Reg := ⟨0x00200100, 0x0, 1, 0x0, 1, 0x0⟩
/-- COUNT of HUSKY_THROTTLE_COUNT, RO. -/
def HUSKY_THROTTLE_COUNT__COUNT : Fld := ⟨HUSKY_THROTTLE_COUNT, 0, 63⟩
/-- SAT of HUSKY_THROTTLE_COUNT, RO. -/
def HUSKY_THROTTLE_COUNT__SAT : Fld := ⟨HUSKY_THROTTLE_COUNT, 63, 1⟩
/-- 16_thermal_power.md Table 16.7 R412 -/
def HUSKY_CAP_MS_COUNT : Reg := ⟨0x00200108, 0x0, 1, 0x0, 1, 0x0⟩
/-- COUNT of HUSKY_CAP_MS_COUNT, RO. -/
def HUSKY_CAP_MS_COUNT__COUNT : Fld := ⟨HUSKY_CAP_MS_COUNT, 0, 63⟩
/-- SAT of HUSKY_CAP_MS_COUNT, RO. -/
def HUSKY_CAP_MS_COUNT__SAT : Fld := ⟨HUSKY_CAP_MS_COUNT, 63, 1⟩
/-- 16_thermal_power.md Table 16.7 R412 -/
def HUSKY_STOP_COUNT : Reg := ⟨0x00200110, 0x0, 1, 0x0, 1, 0x0⟩
/-- COUNT of HUSKY_STOP_COUNT, RO. -/
def HUSKY_STOP_COUNT__COUNT : Fld := ⟨HUSKY_STOP_COUNT, 0, 63⟩
/-- SAT of HUSKY_STOP_COUNT, RO. -/
def HUSKY_STOP_COUNT__SAT : Fld := ⟨HUSKY_STOP_COUNT, 63, 1⟩
/-- 16_thermal_power.md Table 16.7 R412 -/
def HUSKY_TRAY_MISS_COUNT : Reg := ⟨0x00200118, 0x0, 1, 0x0, 1, 0x0⟩
/-- COUNT of HUSKY_TRAY_MISS_COUNT, RO. -/
def HUSKY_TRAY_MISS_COUNT__COUNT : Fld := ⟨HUSKY_TRAY_MISS_COUNT, 0, 63⟩
/-- SAT of HUSKY_TRAY_MISS_COUNT, RO. -/
def HUSKY_TRAY_MISS_COUNT__SAT : Fld := ⟨HUSKY_TRAY_MISS_COUNT, 63, 1⟩
/-- 16_thermal_power.md Table 16.7 R412 -/
def HUSKY_PD_FAULT_COUNT : Reg := ⟨0x00200120, 0x0, 1, 0x0, 1, 0x0⟩
/-- COUNT of HUSKY_PD_FAULT_COUNT, RO. -/
def HUSKY_PD_FAULT_COUNT__COUNT : Fld := ⟨HUSKY_PD_FAULT_COUNT, 0, 63⟩
/-- SAT of HUSKY_PD_FAULT_COUNT, RO. -/
def HUSKY_PD_FAULT_COUNT__SAT : Fld := ⟨HUSKY_PD_FAULT_COUNT, 63, 1⟩
/-- 16_thermal_power.md Table 16.7 R412 -/
def HUSKY_TILE_HOT : Reg := ⟨0x00203000, 0x8, 288, 0x0, 1, 0x0⟩
/-- COUNT of HUSKY_TILE_HOT, RO. -/
def HUSKY_TILE_HOT__COUNT : Fld := ⟨HUSKY_TILE_HOT, 0, 63⟩
/-- SAT of HUSKY_TILE_HOT, RO. -/
def HUSKY_TILE_HOT__SAT : Fld := ⟨HUSKY_TILE_HOT, 63, 1⟩
/-- 17_bringup.md Table 17.10 R432 -/
def HUB_RESET : Reg := ⟨0x00000020, 0x0, 1, 0x0, 1, 0x0⟩
/-- WARM of HUB_RESET, WO. -/
def HUB_RESET__WARM : Fld := ⟨HUB_RESET, 0, 1⟩
/-- 17_bringup.md Table 17.10 R432 -/
def HUB_BOOT_STATUS : Reg := ⟨0x00000028, 0x0, 1, 0x0, 1, 0x0⟩
/-- STAGE of HUB_BOOT_STATUS, RO. -/
def HUB_BOOT_STATUS__STAGE : Fld := ⟨HUB_BOOT_STATUS, 0, 4⟩
/-- CAUSE of HUB_BOOT_STATUS, RO. -/
def HUB_BOOT_STATUS__CAUSE : Fld := ⟨HUB_BOOT_STATUS, 4, 8⟩
/-- 17_bringup.md Table 17.10 R432 -/
def HUB_CFG_CTRL : Reg := ⟨0x00000080, 0x0, 1, 0x0, 1, 0x0⟩
/-- WRITE of HUB_CFG_CTRL, WO. -/
def HUB_CFG_CTRL__WRITE : Fld := ⟨HUB_CFG_CTRL, 0, 1⟩
/-- SWAP of HUB_CFG_CTRL, WO. -/
def HUB_CFG_CTRL__SWAP : Fld := ⟨HUB_CFG_CTRL, 1, 1⟩
/-- 17_bringup.md Table 17.10 R432 -/
def HUB_CFG_STATUS : Reg := ⟨0x00000088, 0x0, 1, 0x0, 1, 0x0⟩
/-- BUSY of HUB_CFG_STATUS, RO. -/
def HUB_CFG_STATUS__BUSY : Fld := ⟨HUB_CFG_STATUS, 0, 1⟩
/-- DONE of HUB_CFG_STATUS, W1C. -/
def HUB_CFG_STATUS__DONE : Fld := ⟨HUB_CFG_STATUS, 1, 1⟩
/-- ERR of HUB_CFG_STATUS, W1C. -/
def HUB_CFG_STATUS__ERR : Fld := ⟨HUB_CFG_STATUS, 2, 1⟩
/-- CAUSE of HUB_CFG_STATUS, RO. -/
def HUB_CFG_STATUS__CAUSE : Fld := ⟨HUB_CFG_STATUS, 4, 4⟩
/-- PENDING of HUB_CFG_STATUS, RO. -/
def HUB_CFG_STATUS__PENDING : Fld := ⟨HUB_CFG_STATUS, 8, 1⟩
/-- APPLYING of HUB_CFG_STATUS, RO. -/
def HUB_CFG_STATUS__APPLYING : Fld := ⟨HUB_CFG_STATUS, 9, 1⟩
/-- ACTIVE_BAD of HUB_CFG_STATUS, RO. -/
def HUB_CFG_STATUS__ACTIVE_BAD : Fld := ⟨HUB_CFG_STATUS, 10, 1⟩
/-- 17_bringup.md Table 17.10 R432 -/
def HUB_CFG_ACTIVE : Reg := ⟨0x00000090, 0x0, 1, 0x0, 1, 0x0⟩
/-- SEQ of HUB_CFG_ACTIVE, RO. -/
def HUB_CFG_ACTIVE__SEQ : Fld := ⟨HUB_CFG_ACTIVE, 0, 32⟩
/-- SLOT of HUB_CFG_ACTIVE, RO. -/
def HUB_CFG_ACTIVE__SLOT : Fld := ⟨HUB_CFG_ACTIVE, 32, 1⟩
/-- 17_bringup.md Table 17.10 R432 -/
def HUB_CFG_SRC : Reg := ⟨0x00000098, 0x0, 1, 0x0, 1, 0x0⟩
/-- VA of HUB_CFG_SRC, RW. -/
def HUB_CFG_SRC__VA : Fld := ⟨HUB_CFG_SRC, 3, 45⟩
/-- 17_bringup.md Table 17.10 R432 -/
def SEQ_CMD : Reg := ⟨0x00100000, 0x0, 1, 0x0, 1, 0x0⟩
/-- STEP of SEQ_CMD, WO. -/
def SEQ_CMD__STEP : Fld := ⟨SEQ_CMD, 0, 8⟩
/-- ARG of SEQ_CMD, WO. -/
def SEQ_CMD__ARG : Fld := ⟨SEQ_CMD, 8, 8⟩
/-- 17_bringup.md Table 17.10 R432 -/
def SEQ_STATUS : Reg := ⟨0x00100008, 0x0, 1, 0x0, 1, 0x0⟩
/-- STATE of SEQ_STATUS, RO. -/
def SEQ_STATUS__STATE : Fld := ⟨SEQ_STATUS, 0, 2⟩
/-- MODE of SEQ_STATUS, RO. -/
def SEQ_STATUS__MODE : Fld := ⟨SEQ_STATUS, 2, 2⟩
/-- CUR of SEQ_STATUS, RO. -/
def SEQ_STATUS__CUR : Fld := ⟨SEQ_STATUS, 8, 8⟩
/-- LAST_DONE of SEQ_STATUS, RO. -/
def SEQ_STATUS__LAST_DONE : Fld := ⟨SEQ_STATUS, 16, 8⟩
/-- CAUSE of SEQ_STATUS, RO. -/
def SEQ_STATUS__CAUSE : Fld := ⟨SEQ_STATUS, 24, 8⟩
/-- ERR of SEQ_STATUS, W1C. -/
def SEQ_STATUS__ERR : Fld := ⟨SEQ_STATUS, 32, 1⟩
/-- 17_bringup.md Table 17.10 R432 -/
def SEQ_STEP_LOG : Reg := ⟨0x00100100, 0x8, 11, 0x0, 1, 0x0⟩
/-- DONE of SEQ_STEP_LOG, RO. -/
def SEQ_STEP_LOG__DONE : Fld := ⟨SEQ_STEP_LOG, 0, 1⟩
/-- FAILED of SEQ_STEP_LOG, RO. -/
def SEQ_STEP_LOG__FAILED : Fld := ⟨SEQ_STEP_LOG, 1, 1⟩
/-- CAUSE of SEQ_STEP_LOG, RO. -/
def SEQ_STEP_LOG__CAUSE : Fld := ⟨SEQ_STEP_LOG, 8, 8⟩
/-- DURATION_MS of SEQ_STEP_LOG, RO. -/
def SEQ_STEP_LOG__DURATION_MS : Fld := ⟨SEQ_STEP_LOG, 16, 32⟩
/-- 17_bringup.md Table 17.10 R432 -/
def SEQ_FP_SUMMARY : Reg := ⟨0x00100200, 0x0, 1, 0x0, 1, 0x0⟩
/-- GOOD_TILES of SEQ_FP_SUMMARY, RO. -/
def SEQ_FP_SUMMARY__GOOD_TILES : Fld := ⟨SEQ_FP_SUMMARY, 0, 9⟩
/-- SHRUNK of SEQ_FP_SUMMARY, RO. -/
def SEQ_FP_SUMMARY__SHRUNK : Fld := ⟨SEQ_FP_SUMMARY, 9, 9⟩
/-- JASPER of SEQ_FP_SUMMARY, RO. -/
def SEQ_FP_SUMMARY__JASPER : Fld := ⟨SEQ_FP_SUMMARY, 18, 1⟩
/-- SITE of SEQ_FP_SUMMARY, RO. -/
def SEQ_FP_SUMMARY__SITE : Fld := ⟨SEQ_FP_SUMMARY, 19, 2⟩
/-- CAP_MIB of SEQ_FP_SUMMARY, RO. -/
def SEQ_FP_SUMMARY__CAP_MIB : Fld := ⟨SEQ_FP_SUMMARY, 32, 20⟩
/-- 17_bringup.md Table 17.10 R432 -/
def SEQ_MEMTEST : Reg := ⟨0x00100208, 0x0, 1, 0x0, 1, 0x0⟩
/-- FULL of SEQ_MEMTEST, RO. -/
def SEQ_MEMTEST__FULL : Fld := ⟨SEQ_MEMTEST, 0, 1⟩
/-- ROWS of SEQ_MEMTEST, RO. -/
def SEQ_MEMTEST__ROWS : Fld := ⟨SEQ_MEMTEST, 1, 32⟩
/-- LOW_BAND of SEQ_MEMTEST, RO. -/
def SEQ_MEMTEST__LOW_BAND : Fld := ⟨SEQ_MEMTEST, 33, 16⟩
/-- 17_bringup.md Table 17.10 R432 -/
def SEQ_FP_REGION : Reg := ⟨0x00100240, 0x8, 16, 0x0, 1, 0x0⟩
/-- GOOD of SEQ_FP_REGION, RO. -/
def SEQ_FP_REGION__GOOD : Fld := ⟨SEQ_FP_REGION, 0, 18⟩
/-- CAND of SEQ_FP_REGION, RO. -/
def SEQ_FP_REGION__CAND : Fld := ⟨SEQ_FP_REGION, 18, 18⟩
/-- EXCLUDED of SEQ_FP_REGION, RO. -/
def SEQ_FP_REGION__EXCLUDED : Fld := ⟨SEQ_FP_REGION, 36, 18⟩
/-- GOOD_COUNT of SEQ_FP_REGION, RO. -/
def SEQ_FP_REGION__GOOD_COUNT : Fld := ⟨SEQ_FP_REGION, 54, 5⟩
/-- JASPER of SEQ_FP_REGION, RO. -/
def SEQ_FP_REGION__JASPER : Fld := ⟨SEQ_FP_REGION, 59, 1⟩
/-- 18_host_firmware.md Table 18.13 R458 -/
def HUB_TIME : Reg := ⟨0x00000030, 0x0, 1, 0x0, 1, 0x0⟩
/-- TIME of HUB_TIME, RO. -/
def HUB_TIME__TIME : Fld := ⟨HUB_TIME, 0, 64⟩
/-- 18_host_firmware.md Table 18.13 R458 -/
def HUB_CNT_CTRL : Reg := ⟨0x00000038, 0x0, 1, 0x0, 1, 0x0⟩
/-- SAT_EVT_EN of HUB_CNT_CTRL, RW. -/
def HUB_CNT_CTRL__SAT_EVT_EN : Fld := ⟨HUB_CNT_CTRL, 0, 1⟩
/-- 18_host_firmware.md Table 18.13 R458 -/
def HUB_FW_STATUS : Reg := ⟨0x00000070, 0x0, 1, 0x0, 1, 0x0⟩
/-- RUNNING of HUB_FW_STATUS, RO. -/
def HUB_FW_STATUS__RUNNING : Fld := ⟨HUB_FW_STATUS, 0, 5⟩
/-- MASTIFF_FAILED of HUB_FW_STATUS, RO. -/
def HUB_FW_STATUS__MASTIFF_FAILED : Fld := ⟨HUB_FW_STATUS, 5, 1⟩
/-- 18_host_firmware.md Table 18.13 R458 -/
def PCIE_BAR2_BASE : Reg := ⟨0x00700000, 0x0, 1, 0x0, 1, 0x0⟩
/-- VA of PCIE_BAR2_BASE, RW. -/
def PCIE_BAR2_BASE__VA : Fld := ⟨PCIE_BAR2_BASE, 36, 12⟩
/-- 18_host_firmware.md Table 18.13 R458 -/
def HOST_EVT_CFG : Reg := ⟨0x00700040, 0x0, 1, 0x0, 1, 0x0⟩
/-- ENABLE of HOST_EVT_CFG, RW. -/
def HOST_EVT_CFG__ENABLE : Fld := ⟨HOST_EVT_CFG, 0, 1⟩
/-- ERR of HOST_EVT_CFG, W1C. -/
def HOST_EVT_CFG__ERR : Fld := ⟨HOST_EVT_CFG, 1, 1⟩
/-- LOG2 of HOST_EVT_CFG, RW. -/
def HOST_EVT_CFG__LOG2 : Fld := ⟨HOST_EVT_CFG, 4, 5⟩
/-- BASE of HOST_EVT_CFG, RW. -/
def HOST_EVT_CFG__BASE : Fld := ⟨HOST_EVT_CFG, 16, 13⟩
/-- VECTOR of HOST_EVT_CFG, RW. -/
def HOST_EVT_CFG__VECTOR : Fld := ⟨HOST_EVT_CFG, 32, 11⟩
/-- COAL_US of HOST_EVT_CFG, RW. -/
def HOST_EVT_CFG__COAL_US : Fld := ⟨HOST_EVT_CFG, 44, 12⟩
/-- COAL_CNT of HOST_EVT_CFG, RW. -/
def HOST_EVT_CFG__COAL_CNT : Fld := ⟨HOST_EVT_CFG, 56, 8⟩
/-- 18_host_firmware.md Table 18.13 R458 -/
def HOST_EVT_STATE : Reg := ⟨0x00700048, 0x0, 1, 0x0, 1, 0x10000⟩
/-- TAIL of HOST_EVT_STATE, RO. -/
def HOST_EVT_STATE__TAIL : Fld := ⟨HOST_EVT_STATE, 0, 16⟩
/-- PHASE of HOST_EVT_STATE, RO. -/
def HOST_EVT_STATE__PHASE : Fld := ⟨HOST_EVT_STATE, 16, 1⟩
/-- 18_host_firmware.md Table 18.13 R458 -/
def HOST_ABI : Reg := ⟨0x00700100, 0x0, 1, 0x0, 1, 0x10000⟩
/-- MINOR of HOST_ABI, RO. -/
def HOST_ABI__MINOR : Fld := ⟨HOST_ABI, 0, 16⟩
/-- MAJOR of HOST_ABI, RO. -/
def HOST_ABI__MAJOR : Fld := ⟨HOST_ABI, 16, 16⟩
/-- 18_host_firmware.md Table 18.13 R458 -/
def HOST_FEAT_OFFER : Reg := ⟨0x00700110, 0x8, 4, 0x0, 1, 0x0⟩
/-- OFFER of HOST_FEAT_OFFER, RO. -/
def HOST_FEAT_OFFER__OFFER : Fld := ⟨HOST_FEAT_OFFER, 0, 64⟩
/-- 18_host_firmware.md Table 18.13 R458 -/
def HOST_FEAT_REQ : Reg := ⟨0x00700130, 0x8, 4, 0x0, 1, 0x0⟩
/-- REQ of HOST_FEAT_REQ, RW. -/
def HOST_FEAT_REQ__REQ : Fld := ⟨HOST_FEAT_REQ, 0, 64⟩
/-- 18_host_firmware.md Table 18.13 R458 -/
def HOST_FEAT_GRANT : Reg := ⟨0x00700150, 0x8, 4, 0x0, 1, 0x0⟩
/-- GRANT of HOST_FEAT_GRANT, RO. -/
def HOST_FEAT_GRANT__GRANT : Fld := ⟨HOST_FEAT_GRANT, 0, 64⟩
/-- 18_host_firmware.md Table 18.13 R458 -/
def HOST_NEG_CTRL : Reg := ⟨0x00700170, 0x0, 1, 0x0, 1, 0x0⟩
/-- HOST_MAJOR of HOST_NEG_CTRL, RW. -/
def HOST_NEG_CTRL__HOST_MAJOR : Fld := ⟨HOST_NEG_CTRL, 0, 16⟩
/-- GO of HOST_NEG_CTRL, WO. -/
def HOST_NEG_CTRL__GO : Fld := ⟨HOST_NEG_CTRL, 16, 1⟩
/-- GRANTED of HOST_NEG_CTRL, RO. -/
def HOST_NEG_CTRL__GRANTED : Fld := ⟨HOST_NEG_CTRL, 17, 1⟩
/-- ERR of HOST_NEG_CTRL, W1C. -/
def HOST_NEG_CTRL__ERR : Fld := ⟨HOST_NEG_CTRL, 18, 1⟩
/-- 18_host_firmware.md Table 18.13 R458 -/
def HOST_RING_CFG : Reg := ⟨0x00701000, 0x20, 64, 0x0, 1, 0x0⟩
/-- ENABLE of HOST_RING_CFG, RW. -/
def HOST_RING_CFG__ENABLE : Fld := ⟨HOST_RING_CFG, 0, 1⟩
/-- ERR of HOST_RING_CFG, W1C. -/
def HOST_RING_CFG__ERR : Fld := ⟨HOST_RING_CFG, 1, 1⟩
/-- SQ_LOG2 of HOST_RING_CFG, RW. -/
def HOST_RING_CFG__SQ_LOG2 : Fld := ⟨HOST_RING_CFG, 4, 5⟩
/-- CQ_LOG2 of HOST_RING_CFG, RW. -/
def HOST_RING_CFG__CQ_LOG2 : Fld := ⟨HOST_RING_CFG, 9, 5⟩
/-- SQ_BASE of HOST_RING_CFG, RW. -/
def HOST_RING_CFG__SQ_BASE : Fld := ⟨HOST_RING_CFG, 16, 13⟩
/-- CQ_BASE of HOST_RING_CFG, RW. -/
def HOST_RING_CFG__CQ_BASE : Fld := ⟨HOST_RING_CFG, 32, 13⟩
/-- VECTOR of HOST_RING_CFG, RW. -/
def HOST_RING_CFG__VECTOR : Fld := ⟨HOST_RING_CFG, 48, 11⟩
/-- 18_host_firmware.md Table 18.13 R458 -/
def HOST_RING_COAL : Reg := ⟨0x00701008, 0x20, 64, 0x0, 1, 0x0⟩
/-- COAL_CNT of HOST_RING_COAL, RW. -/
def HOST_RING_COAL__COAL_CNT : Fld := ⟨HOST_RING_COAL, 0, 8⟩
/-- COAL_US of HOST_RING_COAL, RW. -/
def HOST_RING_COAL__COAL_US : Fld := ⟨HOST_RING_COAL, 8, 12⟩
/-- 18_host_firmware.md Table 18.13 R458 -/
def HOST_RING_STATE : Reg := ⟨0x00701010, 0x20, 64, 0x0, 1, 0x100000000⟩
/-- SQ_HEAD of HOST_RING_STATE, RO. -/
def HOST_RING_STATE__SQ_HEAD : Fld := ⟨HOST_RING_STATE, 0, 16⟩
/-- CQ_TAIL of HOST_RING_STATE, RO. -/
def HOST_RING_STATE__CQ_TAIL : Fld := ⟨HOST_RING_STATE, 16, 16⟩
/-- CQ_PHASE of HOST_RING_STATE, RO. -/
def HOST_RING_STATE__CQ_PHASE : Fld := ⟨HOST_RING_STATE, 32, 1⟩
/-- STALLED of HOST_RING_STATE, RO. -/
def HOST_RING_STATE__STALLED : Fld := ⟨HOST_RING_STATE, 33, 1⟩
/-- 18_host_firmware.md Table 18.14 R459 -/
def HUB_FW_RESTART_COUNT : Reg := ⟨0x00000058, 0x0, 1, 0x0, 1, 0x0⟩
/-- COUNT of HUB_FW_RESTART_COUNT, RO. -/
def HUB_FW_RESTART_COUNT__COUNT : Fld := ⟨HUB_FW_RESTART_COUNT, 0, 63⟩
/-- SAT of HUB_FW_RESTART_COUNT, RO. -/
def HUB_FW_RESTART_COUNT__SAT : Fld := ⟨HUB_FW_RESTART_COUNT, 63, 1⟩
/-- 18_host_firmware.md Table 18.14 R459 -/
def PCIE_BAR2_DROP_COUNT : Reg := ⟨0x00700080, 0x0, 1, 0x0, 1, 0x0⟩
/-- COUNT of PCIE_BAR2_DROP_COUNT, RO. -/
def PCIE_BAR2_DROP_COUNT__COUNT : Fld := ⟨PCIE_BAR2_DROP_COUNT, 0, 63⟩
/-- SAT of PCIE_BAR2_DROP_COUNT, RO. -/
def PCIE_BAR2_DROP_COUNT__SAT : Fld := ⟨PCIE_BAR2_DROP_COUNT, 63, 1⟩
/-- 18_host_firmware.md Table 18.14 R459 -/
def PCIE_BAR2_POISON_COUNT : Reg := ⟨0x00700088, 0x0, 1, 0x0, 1, 0x0⟩
/-- COUNT of PCIE_BAR2_POISON_COUNT, RO. -/
def PCIE_BAR2_POISON_COUNT__COUNT : Fld := ⟨PCIE_BAR2_POISON_COUNT, 0, 63⟩
/-- SAT of PCIE_BAR2_POISON_COUNT, RO. -/
def PCIE_BAR2_POISON_COUNT__SAT : Fld := ⟨PCIE_BAR2_POISON_COUNT, 63, 1⟩
/-- 18_host_firmware.md Table 18.14 R459 -/
def HOST_CMD_COUNT : Reg := ⟨0x00700090, 0x0, 1, 0x0, 1, 0x0⟩
/-- COUNT of HOST_CMD_COUNT, RO. -/
def HOST_CMD_COUNT__COUNT : Fld := ⟨HOST_CMD_COUNT, 0, 63⟩
/-- SAT of HOST_CMD_COUNT, RO. -/
def HOST_CMD_COUNT__SAT : Fld := ⟨HOST_CMD_COUNT, 63, 1⟩
/-- 18_host_firmware.md Table 18.14 R459 -/
def HOST_EVT_DROP_COUNT : Reg := ⟨0x00700098, 0x0, 1, 0x0, 1, 0x0⟩
/-- COUNT of HOST_EVT_DROP_COUNT, RO. -/
def HOST_EVT_DROP_COUNT__COUNT : Fld := ⟨HOST_EVT_DROP_COUNT, 0, 63⟩
/-- SAT of HOST_EVT_DROP_COUNT, RO. -/
def HOST_EVT_DROP_COUNT__SAT : Fld := ⟨HOST_EVT_DROP_COUNT, 63, 1⟩
/-- 19_security.md Table 19.5 R470 -/
def MBX_CTRL : Reg := ⟨0x00800000, 0x0, 1, 0x0, 1, 0x0⟩
/-- VERIFY of MBX_CTRL, WO. -/
def MBX_CTRL__VERIFY : Fld := ⟨MBX_CTRL, 0, 1⟩
/-- REPORT of MBX_CTRL, WO. -/
def MBX_CTRL__REPORT : Fld := ⟨MBX_CTRL, 1, 1⟩
/-- 19_security.md Table 19.5 R470 -/
def MBX_RECOVERY : Reg := ⟨0x00800008, 0x0, 1, 0x0, 1, 0x0⟩
/-- BYTES of MBX_RECOVERY, RW. -/
def MBX_RECOVERY__BYTES : Fld := ⟨MBX_RECOVERY, 0, 25⟩
/-- 19_security.md Table 19.5 R470 -/
def MBX_STATUS : Reg := ⟨0x00800010, 0x0, 1, 0x0, 1, 0x0⟩
/-- BUSY of MBX_STATUS, RO. -/
def MBX_STATUS__BUSY : Fld := ⟨MBX_STATUS, 0, 1⟩
/-- REPORT_DONE of MBX_STATUS, RO. -/
def MBX_STATUS__REPORT_DONE : Fld := ⟨MBX_STATUS, 1, 1⟩
/-- ERR of MBX_STATUS, W1C. -/
def MBX_STATUS__ERR : Fld := ⟨MBX_STATUS, 2, 1⟩
/-- CAUSE of MBX_STATUS, RO. -/
def MBX_STATUS__CAUSE : Fld := ⟨MBX_STATUS, 4, 8⟩
/-- RECOVERY_WAIT of MBX_STATUS, RO. -/
def MBX_STATUS__RECOVERY_WAIT : Fld := ⟨MBX_STATUS, 12, 1⟩
/-- KEY_OK of MBX_STATUS, RO. -/
def MBX_STATUS__KEY_OK : Fld := ⟨MBX_STATUS, 13, 1⟩
/-- DEBUG_EVER of MBX_STATUS, RO. -/
def MBX_STATUS__DEBUG_EVER : Fld := ⟨MBX_STATUS, 14, 1⟩
/-- DEBUG_SESSION of MBX_STATUS, RO. -/
def MBX_STATUS__DEBUG_SESSION : Fld := ⟨MBX_STATUS, 15, 1⟩
/-- FUSED_SVN of MBX_STATUS, RO. -/
def MBX_STATUS__FUSED_SVN : Fld := ⟨MBX_STATUS, 16, 7⟩
/-- 19_security.md Table 19.5 R470 -/
def MBX_NONCE : Reg := ⟨0x00800040, 0x8, 8, 0x0, 1, 0x0⟩
/-- NONCE of MBX_NONCE, RW. -/
def MBX_NONCE__NONCE : Fld := ⟨MBX_NONCE, 0, 64⟩
/-- 19_security.md Table 19.5 R470 -/
def MBX_REPORT : Reg := ⟨0x00801000, 0x8, 628, 0x0, 1, 0x0⟩
/-- DATA of MBX_REPORT, RO. -/
def MBX_REPORT__DATA : Fld := ⟨MBX_REPORT, 0, 64⟩
/-- 19_security.md Table 19.5 R470 -/
def MBX_CERT : Reg := ⟨0x00803000, 0x8, 912, 0x0, 1, 0x0⟩
/-- DATA of MBX_CERT, RO. -/
def MBX_CERT__DATA : Fld := ⟨MBX_CERT, 0, 64⟩
/-- 20_signals_package.md Table 20.4 R475 -/
def HUSKY_RAIL : Reg := ⟨0x00200200, 0x8, 8, 0x0, 1, 0x0⟩
/-- VOUT_MV of HUSKY_RAIL, RO. -/
def HUSKY_RAIL__VOUT_MV : Fld := ⟨HUSKY_RAIL, 0, 16⟩
/-- IOUT of HUSKY_RAIL, RO. -/
def HUSKY_RAIL__IOUT : Fld := ⟨HUSKY_RAIL, 16, 16⟩
/-- SETPOINT_MV of HUSKY_RAIL, RO. -/
def HUSKY_RAIL__SETPOINT_MV : Fld := ⟨HUSKY_RAIL, 32, 16⟩
/-- FAULT of HUSKY_RAIL, RO. -/
def HUSKY_RAIL__FAULT : Fld := ⟨HUSKY_RAIL, 48, 1⟩
/-- TELEM_VALID of HUSKY_RAIL, RO. -/
def HUSKY_RAIL__TELEM_VALID : Fld := ⟨HUSKY_RAIL, 49, 1⟩
/-- 18_host_firmware.md R439 -/
def DB_SQ_TAIL : Reg := ⟨0x00900000, 0x8, 64, 0x0, 1, 0x0⟩
/-- INDEX of DB_SQ_TAIL, RW. -/
def DB_SQ_TAIL__INDEX : Fld := ⟨DB_SQ_TAIL, 0, 16⟩
/-- 18_host_firmware.md R439 -/
def DB_CQ_HEAD : Reg := ⟨0x00900200, 0x8, 64, 0x0, 1, 0x0⟩
/-- INDEX of DB_CQ_HEAD, RW. -/
def DB_CQ_HEAD__INDEX : Fld := ⟨DB_CQ_HEAD, 0, 16⟩
/-- 18_host_firmware.md R439 -/
def DB_EVT_HEAD : Reg := ⟨0x00900400, 0x8, 1, 0x0, 1, 0x0⟩
/-- INDEX of DB_EVT_HEAD, RW. -/
def DB_EVT_HEAD__INDEX : Fld := ⟨DB_EVT_HEAD, 0, 16⟩
/-- 18_host_firmware.md Table 18.1 R433 -/
def MSIX_ADDR : Reg := ⟨0x00708000, 0x10, 2048, 0x0, 1, 0x0⟩
/-- ADDR of MSIX_ADDR, RW. -/
def MSIX_ADDR__ADDR : Fld := ⟨MSIX_ADDR, 0, 64⟩
/-- 18_host_firmware.md Table 18.1 R433 -/
def MSIX_DATA : Reg := ⟨0x00708008, 0x10, 2048, 0x0, 1, 0x100000000⟩
/-- DATA of MSIX_DATA, RW. -/
def MSIX_DATA__DATA : Fld := ⟨MSIX_DATA, 0, 32⟩
/-- MASK of MSIX_DATA, RW. -/
def MSIX_DATA__MASK : Fld := ⟨MSIX_DATA, 32, 1⟩
/-- 18_host_firmware.md Table 18.1 R433, R440 -/
def MSIX_PBA : Reg := ⟨0x00710000, 0x8, 32, 0x0, 1, 0x0⟩
/-- PEND of MSIX_PBA, RO. -/
def MSIX_PBA__PEND : Fld := ⟨MSIX_PBA, 0, 64⟩

/-- Part 1 of the register table. -/
def regTable0 : List RegInfo := [
  ⟨HUB_ID, false, [(HUB_ID__DEVICE, .ro), (HUB_ID__GRADE, .ro), (HUB_ID__OPT_J, .ro), (HUB_ID__OPT_U, .ro), (HUB_ID__STEP_MAJOR, .ro), (HUB_ID__STEP_MINOR, .ro), (HUB_ID__FAMILY, .ro)]⟩,
  ⟨HUB_MODE, false, [(HUB_MODE__STRICT, .rw), (HUB_MODE__MODE_ERR, .w1c)]⟩,
  ⟨TILE_ARITH_STATUS, false, [(TILE_ARITH_STATUS__SAT_N, .w1c), (TILE_ARITH_STATUS__SAT_L, .w1c), (TILE_ARITH_STATUS__ACT_CLAMP, .w1c), (TILE_ARITH_STATUS__KV_CLAMP, .w1c), (TILE_ARITH_STATUS__NONFINITE, .w1c), (TILE_ARITH_STATUS__CONV_OVF, .w1c), (TILE_ARITH_STATUS__SCALE_RANGE, .w1c)]⟩,
  ⟨TILE_SAT_COUNT, true, [(TILE_SAT_COUNT__COUNT, .ro), (TILE_SAT_COUNT__SAT, .ro)]⟩,
  ⟨TILE_ACT_CLAMP_COUNT, true, [(TILE_ACT_CLAMP_COUNT__COUNT, .ro), (TILE_ACT_CLAMP_COUNT__SAT, .ro)]⟩,
  ⟨TILE_KV_CLAMP_COUNT, true, [(TILE_KV_CLAMP_COUNT__COUNT, .ro), (TILE_KV_CLAMP_COUNT__SAT, .ro)]⟩,
  ⟨TILE_GARNET_CTRL, false, [(TILE_GARNET_CTRL__SKIP_EN, .rw), (TILE_GARNET_CTRL__GATE_EN, .rw), (TILE_GARNET_CTRL__INJ_ARM, .rw), (TILE_GARNET_CTRL__INJ_COL, .rw), (TILE_GARNET_CTRL__INJ_ROW, .rw)]⟩,
  ⟨TILE_GARNET_STATUS, false, [(TILE_GARNET_STATUS__ACT_LOADED, .ro), (TILE_GARNET_STATUS__SHD_LOADED, .ro), (TILE_GARNET_STATUS__ACT_PREC, .ro), (TILE_GARNET_STATUS__ACT_FMT, .ro), (TILE_GARNET_STATUS__ACT_SCALE, .ro), (TILE_GARNET_STATUS__SHD_PREC, .ro), (TILE_GARNET_STATUS__SHD_FMT, .ro), (TILE_GARNET_STATUS__SHD_SCALE, .ro), (TILE_GARNET_STATUS__ACT_PLANES, .ro), (TILE_GARNET_STATUS__SHD_PLANES, .ro), (TILE_GARNET_STATUS__LOAD_BUSY, .ro), (TILE_GARNET_STATUS__SWAP_PENDING, .ro), (TILE_GARNET_STATUS__RUN_BUSY, .ro), (TILE_GARNET_STATUS__GROUP_OPEN, .ro), (TILE_GARNET_STATUS__GROUP_TOKENS, .ro), (TILE_GARNET_STATUS__GROUP_NCOLS, .ro), (TILE_GARNET_STATUS__HALTED, .ro), (TILE_GARNET_STATUS__BANK, .ro)]⟩,
  ⟨TILE_GARNET_COLBAD, false, [(TILE_GARNET_COLBAD__COLBAD, .rws)]⟩,
  ⟨TILE_GARNET_PARITY_LOG, false, [(TILE_GARNET_PARITY_LOG__VALID, .rws), (TILE_GARNET_PARITY_LOG__MULTI, .rws), (TILE_GARNET_PARITY_LOG__COL, .rws), (TILE_GARNET_PARITY_LOG__ROW, .rws), (TILE_GARNET_PARITY_LOG__BANK, .rws)]⟩,
  ⟨TILE_GARNET_PLANE_COUNT, true, [(TILE_GARNET_PLANE_COUNT__COUNT, .ro), (TILE_GARNET_PLANE_COUNT__SAT, .ro)]⟩,
  ⟨TILE_GARNET_SKIP_COUNT, true, [(TILE_GARNET_SKIP_COUNT__COUNT, .ro), (TILE_GARNET_SKIP_COUNT__SAT, .ro)]⟩,
  ⟨TILE_GARNET_SWAP_COUNT, true, [(TILE_GARNET_SWAP_COUNT__COUNT, .ro), (TILE_GARNET_SWAP_COUNT__SAT, .ro)]⟩,
  ⟨TILE_GARNET_SWAP_WAIT, true, [(TILE_GARNET_SWAP_WAIT__COUNT, .ro), (TILE_GARNET_SWAP_WAIT__SAT, .ro)]⟩,
  ⟨TILE_GARNET_GATED_COUNT, true, [(TILE_GARNET_GATED_COUNT__COUNT, .ro), (TILE_GARNET_GATED_COUNT__SAT, .ro)]⟩,
  ⟨TILE_GARNET_PARITY_COUNT, true, [(TILE_GARNET_PARITY_COUNT__COUNT, .ro), (TILE_GARNET_PARITY_COUNT__SAT, .ro)]⟩,
  ⟨TILE_COLLIE_CTRL, false, [(TILE_COLLIE_CTRL__RUN, .w1s), (TILE_COLLIE_CTRL__ABORT, .wo), (TILE_COLLIE_CTRL__STRICT_SLOTS, .rw), (TILE_COLLIE_CTRL__CLR_FAULT, .wo), (TILE_COLLIE_CTRL__ARM, .rw)]⟩,
  ⟨TILE_COLLIE_STATUS, false, [(TILE_COLLIE_STATUS__STATE, .ro), (TILE_COLLIE_STATUS__QUIET, .ro), (TILE_COLLIE_STATUS__CFG_ERR, .w1c), (TILE_COLLIE_STATUS__ABORTED, .ro), (TILE_COLLIE_STATUS__FAULTED, .ro), (TILE_COLLIE_STATUS__DONE_MASK, .ro), (TILE_COLLIE_STATUS__BLOCK_MASK, .ro)]⟩,
  ⟨TILE_COLLIE_WD, false, [(TILE_COLLIE_WD__TOKEN_LIMIT, .rw), (TILE_COLLIE_WD__DL_LIMIT, .rw)]⟩,
  ⟨TILE_FAULT, false, [(TILE_FAULT__VALID, .ro), (TILE_FAULT__MULTI, .ro), (TILE_FAULT__CLASS, .ro), (TILE_FAULT__CODE, .ro), (TILE_FAULT__STREAM, .ro), (TILE_FAULT__UNIT, .ro), (TILE_FAULT__INDEX, .ro), (TILE_FAULT__TAG, .ro)]⟩,
  ⟨TILE_FAULT_INFO, false, [(TILE_FAULT_INFO__INFO, .ro)]⟩,
  ⟨TILE_STREAM_CFG, false, [(TILE_STREAM_CFG__ENABLE, .rw), (TILE_STREAM_CFG__PRIO, .rw), (TILE_STREAM_CFG__CLASS, .rw), (TILE_STREAM_CFG__LOG2SIZE, .rw), (TILE_STREAM_CFG__BASE, .rw)]⟩,
  ⟨TILE_STREAM_HEAD, false, [(TILE_STREAM_HEAD__HEAD, .rw), (TILE_STREAM_HEAD__LOOP_ACTIVE, .ro), (TILE_STREAM_HEAD__LOOP_CNT, .ro)]⟩,
  ⟨TILE_STREAM_TAIL, false, [(TILE_STREAM_TAIL__TAIL, .rw)]⟩]

/-- Part 2 of the register table. -/
def regTable1 : List RegInfo := [
  ⟨TILE_STREAM_STATUS, false, [(TILE_STREAM_STATUS__STATE, .ro), (TILE_STREAM_STATUS__BLOCK_SLOT, .ro), (TILE_STREAM_STATUS__BLOCK_ON, .ro), (TILE_STREAM_STATUS__BLOCK_US, .ro)]⟩,
  ⟨TILE_STREAM_DONE, true, [(TILE_STREAM_DONE__COUNT, .ro), (TILE_STREAM_DONE__SAT, .ro)]⟩,
  ⟨TILE_SLOT_CFG, false, [(TILE_SLOT_CFG__BASE, .rw), (TILE_SLOT_CFG__SIZE, .rw), (TILE_SLOT_CFG__PRODUCER, .rw), (TILE_SLOT_CFG__CONSUMER, .rw), (TILE_SLOT_CFG__INIT_FULL, .rw), (TILE_SLOT_CFG__VALID, .rw)]⟩,
  ⟨TILE_SLOT_STATE, false, [(TILE_SLOT_STATE__STATE, .ro), (TILE_SLOT_STATE__ERR, .w1c), (TILE_SLOT_STATE__P_WAIT, .ro), (TILE_SLOT_STATE__C_WAIT, .ro)]⟩,
  ⟨TILE_DISPATCH_COUNT, true, [(TILE_DISPATCH_COUNT__COUNT, .ro), (TILE_DISPATCH_COUNT__SAT, .ro)]⟩,
  ⟨TILE_TOKEN_STALL_COUNT, true, [(TILE_TOKEN_STALL_COUNT__COUNT, .ro), (TILE_TOKEN_STALL_COUNT__SAT, .ro)]⟩,
  ⟨TILE_RAW_EMPTY_COUNT, true, [(TILE_RAW_EMPTY_COUNT__COUNT, .ro), (TILE_RAW_EMPTY_COUNT__SAT, .ro)]⟩,
  ⟨TILE_FAULT_COUNT, true, [(TILE_FAULT_COUNT__COUNT, .ro), (TILE_FAULT_COUNT__SAT, .ro)]⟩,
  ⟨TILE_BERYL_STATUS, false, [(TILE_BERYL_STATUS__INVALID, .w1c), (TILE_BERYL_STATUS__DIVZERO, .w1c), (TILE_BERYL_STATUS__OVF, .w1c), (TILE_BERYL_STATUS__UNF, .w1c), (TILE_BERYL_STATUS__MASKED_ROW, .w1c), (TILE_BERYL_STATUS__BUSY, .ro)]⟩,
  ⟨TILE_BERYL_OP_COUNT, true, [(TILE_BERYL_OP_COUNT__COUNT, .ro), (TILE_BERYL_OP_COUNT__SAT, .ro)]⟩,
  ⟨TILE_BERYL_ELEM_COUNT, true, [(TILE_BERYL_ELEM_COUNT__COUNT, .ro), (TILE_BERYL_ELEM_COUNT__SAT, .ro)]⟩,
  ⟨TILE_BERYL_NAN_COUNT, true, [(TILE_BERYL_NAN_COUNT__COUNT, .ro), (TILE_BERYL_NAN_COUNT__SAT, .ro)]⟩,
  ⟨TILE_BERYL_SAMPLE_COUNT, true, [(TILE_BERYL_SAMPLE_COUNT__COUNT, .ro), (TILE_BERYL_SAMPLE_COUNT__SAT, .ro)]⟩,
  ⟨TILE_SPINEL_CTRL, false, [(TILE_SPINEL_CTRL__INJ_ARM, .rw), (TILE_SPINEL_CTRL__INJ_DOUBLE, .rw), (TILE_SPINEL_CTRL__INJ_WORD, .rw)]⟩,
  ⟨TILE_SPINEL_ECC_LOG, false, [(TILE_SPINEL_ECC_LOG__VALID, .rws), (TILE_SPINEL_ECC_LOG__MULTI, .rws), (TILE_SPINEL_ECC_LOG__WORD, .rws), (TILE_SPINEL_ECC_LOG__QUARTER, .rws), (TILE_SPINEL_ECC_LOG__BANK, .rws)]⟩,
  ⟨TILE_DMA_CTRL, false, [(TILE_DMA_CTRL__REMOTE_TIMEOUT, .rw), (TILE_DMA_CTRL__MERGE_OPEN, .rw)]⟩,
  ⟨TILE_DMA_STATUS, false, [(TILE_DMA_STATUS__BUSY, .ro), (TILE_DMA_STATUS__QUEUED, .ro), (TILE_DMA_STATUS__ACTIVE, .ro)]⟩,
  ⟨TILE_DMA_LAST, false, [(TILE_DMA_LAST__STATUS, .ro)]⟩,
  ⟨TILE_SPINEL_CE_COUNT, true, [(TILE_SPINEL_CE_COUNT__COUNT, .ro), (TILE_SPINEL_CE_COUNT__SAT, .ro)]⟩,
  ⟨TILE_SPINEL_UE_COUNT, true, [(TILE_SPINEL_UE_COUNT__COUNT, .ro), (TILE_SPINEL_UE_COUNT__SAT, .ro)]⟩,
  ⟨TILE_SPINEL_D_DEFER_COUNT, true, [(TILE_SPINEL_D_DEFER_COUNT__COUNT, .ro), (TILE_SPINEL_D_DEFER_COUNT__SAT, .ro)]⟩,
  ⟨TILE_SPINEL_E_REFUSE_COUNT, true, [(TILE_SPINEL_E_REFUSE_COUNT__COUNT, .ro), (TILE_SPINEL_E_REFUSE_COUNT__SAT, .ro)]⟩,
  ⟨TILE_DMA_SECTOR_COUNT, true, [(TILE_DMA_SECTOR_COUNT__COUNT, .ro), (TILE_DMA_SECTOR_COUNT__SAT, .ro)]⟩,
  ⟨TILE_DMA_BURST_COUNT, true, [(TILE_DMA_BURST_COUNT__COUNT, .ro), (TILE_DMA_BURST_COUNT__SAT, .ro)]⟩]

/-- Part 3 of the register table. -/
def regTable2 : List RegInfo := [
  ⟨TILE_DMA_REMOTE_COUNT, true, [(TILE_DMA_REMOTE_COUNT__COUNT, .ro), (TILE_DMA_REMOTE_COUNT__SAT, .ro)]⟩,
  ⟨TILE_DMA_PART_FAIL_COUNT, true, [(TILE_DMA_PART_FAIL_COUNT__COUNT, .ro), (TILE_DMA_PART_FAIL_COUNT__SAT, .ro)]⟩,
  ⟨TILE_DMA_POISON_COUNT, true, [(TILE_DMA_POISON_COUNT__COUNT, .ro), (TILE_DMA_POISON_COUNT__SAT, .ro)]⟩,
  ⟨TILE_VAULT_CTRL, false, [(TILE_VAULT_CTRL__SPLIT_RD, .rw), (TILE_VAULT_CTRL__SPLIT_WR, .rw), (TILE_VAULT_CTRL__SPLIT_RM, .rw), (TILE_VAULT_CTRL__LEND, .rw), (TILE_VAULT_CTRL__RETRY_LIMIT, .rw)]⟩,
  ⟨TILE_VAULT_STATUS, false, [(TILE_VAULT_STATUS__BAND, .ro), (TILE_VAULT_STATUS__SELF_REFRESH, .ro), (TILE_VAULT_STATUS__TRAINED, .ro), (TILE_VAULT_STATUS__CH_OUT, .ro), (TILE_VAULT_STATUS__CAP_MIB, .ro)]⟩,
  ⟨TILE_VAULT_CH_STATUS, false, [(TILE_VAULT_CH_STATUS__STATE, .ro), (TILE_VAULT_CH_STATUS__SPARES_USED, .ro), (TILE_VAULT_CH_STATUS__FUSE_SPARES, .ro), (TILE_VAULT_CH_STATUS__OUT_CONN, .ro), (TILE_VAULT_CH_STATUS__OUT_VALID, .ro)]⟩,
  ⟨TILE_VAULT_REPAIR_SEL, false, [(TILE_VAULT_REPAIR_SEL__ENTRY, .rw)]⟩,
  ⟨TILE_VAULT_REPAIR_DATA, false, [(TILE_VAULT_REPAIR_DATA__CONN, .ro), (TILE_VAULT_REPAIR_DATA__VALID, .ro), (TILE_VAULT_REPAIR_DATA__SOURCE, .ro)]⟩,
  ⟨TILE_VAULT_CH_RETRY_COUNT, true, [(TILE_VAULT_CH_RETRY_COUNT__COUNT, .ro), (TILE_VAULT_CH_RETRY_COUNT__SAT, .ro)]⟩,
  ⟨TILE_VAULT_RD_BURST_COUNT, true, [(TILE_VAULT_RD_BURST_COUNT__COUNT, .ro), (TILE_VAULT_RD_BURST_COUNT__SAT, .ro)]⟩,
  ⟨TILE_VAULT_WR_BURST_COUNT, true, [(TILE_VAULT_WR_BURST_COUNT__COUNT, .ro), (TILE_VAULT_WR_BURST_COUNT__SAT, .ro)]⟩,
  ⟨TILE_VAULT_RM_BURST_COUNT, true, [(TILE_VAULT_RM_BURST_COUNT__COUNT, .ro), (TILE_VAULT_RM_BURST_COUNT__SAT, .ro)]⟩,
  ⟨TILE_VAULT_LENT_COUNT, true, [(TILE_VAULT_LENT_COUNT__COUNT, .ro), (TILE_VAULT_LENT_COUNT__SAT, .ro)]⟩,
  ⟨TILE_VAULT_REFRESH_COUNT, true, [(TILE_VAULT_REFRESH_COUNT__COUNT, .ro), (TILE_VAULT_REFRESH_COUNT__SAT, .ro)]⟩,
  ⟨TILE_VAULT_RETRY_COUNT, true, [(TILE_VAULT_RETRY_COUNT__COUNT, .ro), (TILE_VAULT_RETRY_COUNT__SAT, .ro)]⟩,
  ⟨TILE_VAULT_RETRY_FAIL_COUNT, true, [(TILE_VAULT_RETRY_FAIL_COUNT__COUNT, .ro), (TILE_VAULT_RETRY_FAIL_COUNT__SAT, .ro)]⟩,
  ⟨REGION_DRAM_BAND, false, [(REGION_DRAM_BAND__BAND, .ro), (REGION_DRAM_BAND__DOWN_PENDING, .ro), (REGION_DRAM_BAND__MAX_TEMP, .ro), (REGION_DRAM_BAND__MAX_LAYER, .ro)]⟩,
  ⟨TILE_ECC_CTRL, false, [(TILE_ECC_CTRL__SCRUB_EN, .rw), (TILE_ECC_CTRL__REMAP_EN, .rw), (TILE_ECC_CTRL__SCRUB_PERIOD, .rw), (TILE_ECC_CTRL__CE_THRESH, .rw), (TILE_ECC_CTRL__UE_LIMIT, .rw), (TILE_ECC_CTRL__INJ_ARM, .rw), (TILE_ECC_CTRL__INJ_KIND, .rw), (TILE_ECC_CTRL__INJ_CH, .rw)]⟩,
  ⟨TILE_ECC_LOG, false, [(TILE_ECC_LOG__VALID, .rws), (TILE_ECC_LOG__MULTI, .rws), (TILE_ECC_LOG__KIND, .rws), (TILE_ECC_LOG__CHANNEL, .rws), (TILE_ECC_LOG__BANK, .rws), (TILE_ECC_LOG__ROW, .rws), (TILE_ECC_LOG__SECTOR, .rws)]⟩,
  ⟨TILE_ECC_SPARE_STATUS, false, [(TILE_ECC_SPARE_STATUS__FIELD_FREE_MIN, .ro), (TILE_ECC_SPARE_STATUS__REPAIR_FREE_MIN, .ro), (TILE_ECC_SPARE_STATUS__MIN_CHANNEL, .ro), (TILE_ECC_SPARE_STATUS__MIN_BANK, .ro), (TILE_ECC_SPARE_STATUS__DEFERRED, .w1c)]⟩,
  ⟨TILE_ECC_SELFTEST, false, [(TILE_ECC_SELFTEST__LIGHT_FAIL, .ro), (TILE_ECC_SELFTEST__PARITY_FAIL, .ro), (TILE_ECC_SELFTEST__PAGE_FAIL, .ro), (TILE_ECC_SELFTEST__SPINEL_FAIL, .ro), (TILE_ECC_SELFTEST__DONE, .ro)]⟩,
  ⟨TILE_ECC_CE_COUNT, true, [(TILE_ECC_CE_COUNT__COUNT, .ro), (TILE_ECC_CE_COUNT__SAT, .ro)]⟩,
  ⟨TILE_ECC_PAGE_CORR_COUNT, true, [(TILE_ECC_PAGE_CORR_COUNT__COUNT, .ro), (TILE_ECC_PAGE_CORR_COUNT__SAT, .ro)]⟩,
  ⟨TILE_ECC_UE_COUNT, true, [(TILE_ECC_UE_COUNT__COUNT, .ro), (TILE_ECC_UE_COUNT__SAT, .ro)]⟩]

/-- Part 4 of the register table. -/
def regTable3 : List RegInfo := [
  ⟨TILE_ECC_UNSEALED_COUNT, true, [(TILE_ECC_UNSEALED_COUNT__COUNT, .ro), (TILE_ECC_UNSEALED_COUNT__SAT, .ro)]⟩,
  ⟨TILE_ECC_SCRUB_ROW_COUNT, true, [(TILE_ECC_SCRUB_ROW_COUNT__COUNT, .ro), (TILE_ECC_SCRUB_ROW_COUNT__SAT, .ro)]⟩,
  ⟨TILE_ECC_REMAP_COUNT, true, [(TILE_ECC_REMAP_COUNT__COUNT, .ro), (TILE_ECC_REMAP_COUNT__SAT, .ro)]⟩,
  ⟨TILE_ECC_DEFER_COUNT, true, [(TILE_ECC_DEFER_COUNT__COUNT, .ro), (TILE_ECC_DEFER_COUNT__SAT, .ro)]⟩,
  ⟨REGION_JASPER_CTRL, false, [(REGION_JASPER_CTRL__CONC_CH, .rw)]⟩,
  ⟨REGION_JASPER_STATUS, false, [(REGION_JASPER_STATUS__PRESENT, .ro), (REGION_JASPER_STATUS__MODE, .ro), (REGION_JASPER_STATUS__RUN_MASK, .ro)]⟩,
  ⟨REGION_JASPER_CTX, false, [(REGION_JASPER_CTX__STATE, .ro), (REGION_JASPER_CTX__STEP, .ro), (REGION_JASPER_CTX__ELAPSED, .ro)]⟩,
  ⟨REGION_JASPER_PROG_COUNT, true, [(REGION_JASPER_PROG_COUNT__COUNT, .ro), (REGION_JASPER_PROG_COUNT__SAT, .ro)]⟩,
  ⟨REGION_JASPER_ROWOP_COUNT, true, [(REGION_JASPER_ROWOP_COUNT__COUNT, .ro), (REGION_JASPER_ROWOP_COUNT__SAT, .ro)]⟩,
  ⟨REGION_JASPER_POP_COUNT, true, [(REGION_JASPER_POP_COUNT__COUNT, .ro), (REGION_JASPER_POP_COUNT__SAT, .ro)]⟩,
  ⟨REGION_JASPER_SEAL_COUNT, true, [(REGION_JASPER_SEAL_COUNT__COUNT, .ro), (REGION_JASPER_SEAL_COUNT__SAT, .ro)]⟩,
  ⟨REGION_JASPER_HOLD_COUNT, true, [(REGION_JASPER_HOLD_COUNT__COUNT, .ro), (REGION_JASPER_HOLD_COUNT__SAT, .ro)]⟩,
  ⟨AGATE_CTRL, false, [(AGATE_CTRL__REBUILD, .wo), (AGATE_CTRL__ABORT, .wo)]⟩,
  ⟨AGATE_GEN, false, [(AGATE_GEN__GEN, .rw)]⟩,
  ⟨AGATE_STATUS, false, [(AGATE_STATUS__STATE, .ro), (AGATE_STATUS__UPD_BUSY, .ro), (AGATE_STATUS__LOG_OVF, .ro), (AGATE_STATUS__WR_ERR, .w1c), (AGATE_STATUS__WR_CAUSE, .ro), (AGATE_STATUS__SHD_ERR, .w1c), (AGATE_STATUS__SWAP_ERR, .w1c), (AGATE_STATUS__ACTIVE_BANK, .ro), (AGATE_STATUS__LOG_FILL, .ro)]⟩,
  ⟨AGATE_UPD_INDEX, false, [(AGATE_UPD_INDEX__INDEX, .rw)]⟩,
  ⟨AGATE_UPD_DATA, false, [(AGATE_UPD_DATA__ENTRY, .rw)]⟩,
  ⟨AGATE_SHD_INDEX, false, [(AGATE_SHD_INDEX__INDEX, .rw)]⟩,
  ⟨AGATE_SHD_DATA, false, [(AGATE_SHD_DATA__ENTRY, .rw)]⟩,
  ⟨AGATE_RETARGET, false, [(AGATE_RETARGET__FROM, .rw), (AGATE_RETARGET__TO, .rw), (AGATE_RETARGET__GO, .wo), (AGATE_RETARGET__BUSY, .ro)]⟩,
  ⟨AGATE_RT_RESULT, false, [(AGATE_RT_RESULT__RT_CHANGED, .ro), (AGATE_RT_RESULT__RT_FAILED, .ro), (AGATE_RT_RESULT__RT_FIRST, .ro)]⟩,
  ⟨TOPAZ_CTRL, false, [(TOPAZ_CTRL__ENABLE, .rw), (TOPAZ_CTRL__TABLE_VA, .rw)]⟩,
  ⟨TOPAZ_APPEND, false, [(TOPAZ_APPEND__LIST_VA, .rw)]⟩,
  ⟨TOPAZ_CMD, false, [(TOPAZ_CMD__OP, .wo), (TOPAZ_CMD__SEQ, .wo), (TOPAZ_CMD__LAYER, .wo), (TOPAZ_CMD__KVHEAD, .wo), (TOPAZ_CMD__LEN, .wo)]⟩]

/-- Part 5 of the register table. -/
def regTable4 : List RegInfo := [
  ⟨TOPAZ_CMD_STATUS, false, [(TOPAZ_CMD_STATUS__BUSY, .ro), (TOPAZ_CMD_STATUS__ERR, .ro)]⟩,
  ⟨TOPAZ_STAGE, false, [(TOPAZ_STAGE__DATA, .rw)]⟩,
  ⟨TOPAZ_POOL_CFG, false, [(TOPAZ_POOL_CFG__LOG2SIZE, .rw), (TOPAZ_POOL_CFG__LOW, .rw), (TOPAZ_POOL_CFG__BASE, .rw)]⟩,
  ⟨TOPAZ_POOL_PTR, false, [(TOPAZ_POOL_PTR__HEAD, .ro), (TOPAZ_POOL_PTR__TAIL, .ro), (TOPAZ_POOL_PTR__FULL_ERR, .w1c)]⟩,
  ⟨TOPAZ_POOL_PUSH, false, [(TOPAZ_POOL_PUSH__PAGE, .wo)]⟩,
  ⟨AGATE_LOOKUP_COUNT, true, [(AGATE_LOOKUP_COUNT__COUNT, .ro), (AGATE_LOOKUP_COUNT__SAT, .ro)]⟩,
  ⟨AGATE_CE_COUNT, true, [(AGATE_CE_COUNT__COUNT, .ro), (AGATE_CE_COUNT__SAT, .ro)]⟩,
  ⟨AGATE_UE_COUNT, true, [(AGATE_UE_COUNT__COUNT, .ro), (AGATE_UE_COUNT__SAT, .ro)]⟩,
  ⟨AGATE_CONFLICT_COUNT, true, [(AGATE_CONFLICT_COUNT__COUNT, .ro), (AGATE_CONFLICT_COUNT__SAT, .ro)]⟩,
  ⟨AGATE_SWAP_COUNT, true, [(AGATE_SWAP_COUNT__COUNT, .ro), (AGATE_SWAP_COUNT__SAT, .ro)]⟩,
  ⟨TOPAZ_APPEND_COUNT, true, [(TOPAZ_APPEND_COUNT__COUNT, .ro), (TOPAZ_APPEND_COUNT__SAT, .ro)]⟩,
  ⟨TOPAZ_APPEND_FAIL_COUNT, true, [(TOPAZ_APPEND_FAIL_COUNT__COUNT, .ro), (TOPAZ_APPEND_FAIL_COUNT__SAT, .ro)]⟩,
  ⟨TOPAZ_PAGE_ALLOC_COUNT, true, [(TOPAZ_PAGE_ALLOC_COUNT__COUNT, .ro), (TOPAZ_PAGE_ALLOC_COUNT__SAT, .ro)]⟩,
  ⟨TOPAZ_CACHE_MISS_COUNT, true, [(TOPAZ_CACHE_MISS_COUNT__COUNT, .ro), (TOPAZ_CACHE_MISS_COUNT__SAT, .ro)]⟩,
  ⟨TOPAZ_POOL_DROP_COUNT, true, [(TOPAZ_POOL_DROP_COUNT__COUNT, .ro), (TOPAZ_POOL_DROP_COUNT__SAT, .ro)]⟩,
  ⟨TILE_KV_HEADROOM, false, [(TILE_KV_HEADROOM__H, .rw)]⟩,
  ⟨FAB_LINK_CTRL, false, [(FAB_LINK_CTRL__RETRY_TIMEOUT, .rw), (FAB_LINK_CTRL__RETRY_LIMIT, .rw)]⟩,
  ⟨FAB_LINK_STATUS, false, [(FAB_LINK_STATUS__STATE, .ro), (FAB_LINK_STATUS__POPULATED, .ro), (FAB_LINK_STATUS__RATE, .ro), (FAB_LINK_STATUS__HALF, .ro), (FAB_LINK_STATUS__REPAIRED, .ro)]⟩,
  ⟨FAB_LINK_FLIT_COUNT, true, [(FAB_LINK_FLIT_COUNT__COUNT, .ro), (FAB_LINK_FLIT_COUNT__SAT, .ro)]⟩,
  ⟨FAB_LINK_CRC_COUNT, true, [(FAB_LINK_CRC_COUNT__COUNT, .ro), (FAB_LINK_CRC_COUNT__SAT, .ro)]⟩,
  ⟨FAB_LINK_REPLAY_COUNT, true, [(FAB_LINK_REPLAY_COUNT__COUNT, .ro), (FAB_LINK_REPLAY_COUNT__SAT, .ro)]⟩,
  ⟨FAB_LINK_RETRAIN_COUNT, true, [(FAB_LINK_RETRAIN_COUNT__COUNT, .ro), (FAB_LINK_RETRAIN_COUNT__SAT, .ro)]⟩,
  ⟨FAB_LINK_PROTO_COUNT, true, [(FAB_LINK_PROTO_COUNT__COUNT, .ro), (FAB_LINK_PROTO_COUNT__SAT, .ro)]⟩,
  ⟨FAB_CUST_CFG, false, [(FAB_CUST_CFG__CUST_CLASS, .rw), (FAB_CUST_CFG__MAX_RATE, .rw), (FAB_CUST_CFG__ACC_EN, .rw)]⟩]

/-- Part 6 of the register table. -/
def regTable5 : List RegInfo := [
  ⟨FAB_CUST_ACC_BASE, false, [(FAB_CUST_ACC_BASE__VA, .rw)]⟩,
  ⟨FAB_CUST_ACC_LIMIT, false, [(FAB_CUST_ACC_LIMIT__VA, .rw)]⟩,
  ⟨REGION_MC_CTRL, false, [(REGION_MC_CTRL__STALL_LIMIT, .rw)]⟩,
  ⟨REGION_CAROUSEL_CTRL, false, [(REGION_CAROUSEL_CTRL__EN, .rw), (REGION_CAROUSEL_CTRL__CAR_SHARE, .rw), (REGION_CAROUSEL_CTRL__RING_LEN, .rw)]⟩,
  ⟨REGION_CAROUSEL_RING0, false, [(REGION_CAROUSEL_RING0__POS0_TO_11, .rw)]⟩,
  ⟨REGION_CAROUSEL_RING1, false, [(REGION_CAROUSEL_RING1__POS12_TO_17, .rw)]⟩,
  ⟨FAB_WHIPPET_PARITY_COUNT, true, [(FAB_WHIPPET_PARITY_COUNT__COUNT, .ro), (FAB_WHIPPET_PARITY_COUNT__SAT, .ro)]⟩,
  ⟨FAB_NOEP_COUNT, true, [(FAB_NOEP_COUNT__COUNT, .ro), (FAB_NOEP_COUNT__SAT, .ro)]⟩,
  ⟨REGION_ONYX_RETRY_COUNT, true, [(REGION_ONYX_RETRY_COUNT__COUNT, .ro), (REGION_ONYX_RETRY_COUNT__SAT, .ro)]⟩,
  ⟨REGION_MC_STALL_COUNT, true, [(REGION_MC_STALL_COUNT__COUNT, .ro), (REGION_MC_STALL_COUNT__SAT, .ro)]⟩,
  ⟨REGION_CAR_FWD_COUNT, true, [(REGION_CAR_FWD_COUNT__COUNT, .ro), (REGION_CAR_FWD_COUNT__SAT, .ro)]⟩,
  ⟨REGION_QOS_VMIN, false, [(REGION_QOS_VMIN__RD, .rw), (REGION_QOS_VMIN__WR, .rw), (REGION_QOS_VMIN__RM, .rw)]⟩,
  ⟨REGION_QOS_LMIN, false, [(REGION_QOS_LMIN__ONYX, .rw)]⟩,
  ⟨REGION_QOS_STATUS, false, [(REGION_QOS_STATUS__DEFICIT, .ro), (REGION_QOS_STATUS__ONYX_DEF, .ro), (REGION_QOS_STATUS__ADM_ERR, .w1c), (REGION_QOS_STATUS__FACTOR_RD, .ro), (REGION_QOS_STATUS__FACTOR_WR, .ro), (REGION_QOS_STATUS__FACTOR_RM, .ro)]⟩,
  ⟨REGION_QOS_CTRL, false, [(REGION_QOS_CTRL__FB_THR, .rw), (REGION_QOS_CTRL__FB_EN, .rw), (REGION_QOS_CTRL__FB_QTHR, .rw)]⟩,
  ⟨FAB_QOS_LMIN, false, [(FAB_QOS_LMIN__TERRIER, .rw), (FAB_QOS_LMIN__CUST, .rw)]⟩,
  ⟨FAB_QOS_CTRL, false, [(FAB_QOS_CTRL__HOST_CLASS, .rw), (FAB_QOS_CTRL__ADM_ERR, .w1c), (FAB_QOS_CTRL__TERRIER_DEF, .ro), (FAB_QOS_CTRL__CUST_DEF, .ro), (FAB_QOS_CTRL__FB_THR_HUB, .rw)]⟩,
  ⟨REGION_QOS_THROTTLE_COUNT, true, [(REGION_QOS_THROTTLE_COUNT__COUNT, .ro), (REGION_QOS_THROTTLE_COUNT__SAT, .ro)]⟩,
  ⟨REGION_QOS_DL_MISS_COUNT, true, [(REGION_QOS_DL_MISS_COUNT__COUNT, .ro), (REGION_QOS_DL_MISS_COUNT__SAT, .ro)]⟩,
  ⟨REGION_QOS_DEFICIT_COUNT, true, [(REGION_QOS_DEFICIT_COUNT__COUNT, .ro), (REGION_QOS_DEFICIT_COUNT__SAT, .ro)]⟩,
  ⟨FAB_DL_MISS_COUNT, true, [(FAB_DL_MISS_COUNT__COUNT, .ro), (FAB_DL_MISS_COUNT__SAT, .ro)]⟩,
  ⟨KELPIE_CTRL, false, [(KELPIE_CTRL__WCT_PORT, .rw), (KELPIE_CTRL__ONESTEP, .rw), (KELPIE_CTRL__MAC_BASE, .rw)]⟩,
  ⟨KELPIE_QUAD_CFG, false, [(KELPIE_QUAD_CFG__MODE, .rw)]⟩,
  ⟨KELPIE_PORT_STATUS, false, [(KELPIE_PORT_STATUS__UP, .ro), (KELPIE_PORT_STATUS__MODE, .ro)]⟩]

/-- Part 7 of the register table. -/
def regTable6 : List RegInfo := [
  ⟨KELPIE_CC_CTRL, false, [(KELPIE_CC_CTRL__CC_PERIOD, .rw), (KELPIE_CC_CTRL__G_SHIFT, .rw), (KELPIE_CC_CTRL__AI_MBPS, .rw)]⟩,
  ⟨KELPIE_WCT_TIMERS, false, [(KELPIE_WCT_TIMERS__RTO, .rw), (KELPIE_WCT_TIMERS__RTO_MAX, .rw), (KELPIE_WCT_TIMERS__HOLD, .rw), (KELPIE_WCT_TIMERS__RETX_GAP, .rw), (KELPIE_WCT_TIMERS__RNR_WAIT, .rw), (KELPIE_WCT_TIMERS__ACK_COALESCE, .rw)]⟩,
  ⟨KELPIE_PFC_CTRL, false, [(KELPIE_PFC_CTRL__XOFF_KIB, .rw), (KELPIE_PFC_CTRL__XON_KIB, .rw)]⟩,
  ⟨KELPIE_PTP_SEC, false, [(KELPIE_PTP_SEC__SEC, .rw)]⟩,
  ⟨KELPIE_PTP_NS, false, [(KELPIE_PTP_NS__NS, .rw), (KELPIE_PTP_NS__FRAC, .rw)]⟩,
  ⟨KELPIE_PTP_RATE, false, [(KELPIE_PTP_RATE__RATE, .rw)]⟩,
  ⟨KELPIE_PTP_STEP, false, [(KELPIE_PTP_STEP__OFFSET, .wo)]⟩,
  ⟨KELPIE_SYNC_CTRL, false, [(KELPIE_SYNC_CTRL__ARM, .w1s), (KELPIE_SYNC_CTRL__DISARM, .wo), (KELPIE_SYNC_CTRL__SRC, .rw), (KELPIE_SYNC_CTRL__DRIVE, .wo), (KELPIE_SYNC_CTRL__LATE, .w1c)]⟩,
  ⟨KELPIE_SYNC_TIME, false, [(KELPIE_SYNC_TIME__START_TIME, .rw)]⟩,
  ⟨KELPIE_CTX_CMD, false, [(KELPIE_CTX_CMD__INDEX, .rw), (KELPIE_CTX_CMD__OP, .wo), (KELPIE_CTX_CMD__ERR, .w1c)]⟩,
  ⟨KELPIE_CTX_WORD, false, [(KELPIE_CTX_WORD__DATA, .rw)]⟩,
  ⟨KELPIE_RKEY, false, [(KELPIE_RKEY__KEY, .rw), (KELPIE_RKEY__RD, .rw), (KELPIE_RKEY__WR, .rw), (KELPIE_RKEY__VALID, .rw)]⟩,
  ⟨KELPIE_RKEY_RANGE, false, [(KELPIE_RKEY_RANGE__BASE, .rw), (KELPIE_RKEY_RANGE__PAGES, .rw)]⟩,
  ⟨KELPIE_KQ_CFG, false, [(KELPIE_KQ_CFG__LOG2SIZE, .rw), (KELPIE_KQ_CFG__BASE, .rw)]⟩,
  ⟨KELPIE_KQ_PTR, false, [(KELPIE_KQ_PTR__HEAD, .rw), (KELPIE_KQ_PTR__TAIL, .rw), (KELPIE_KQ_PTR__STATE, .ro), (KELPIE_KQ_PTR__CLEAR, .wo), (KELPIE_KQ_PTR__TRIG_FAIL, .w1c)]⟩,
  ⟨KELPIE_KQ_TRIG, false, [(KELPIE_KQ_TRIG__TRIG_CNT, .ro), (KELPIE_KQ_TRIG__TRIG_USED, .ro)]⟩,
  ⟨KELPIE_PORT_FEC_CORR_COUNT, true, [(KELPIE_PORT_FEC_CORR_COUNT__COUNT, .ro), (KELPIE_PORT_FEC_CORR_COUNT__SAT, .ro)]⟩,
  ⟨KELPIE_PORT_FEC_UNCORR_COUNT, true, [(KELPIE_PORT_FEC_UNCORR_COUNT__COUNT, .ro), (KELPIE_PORT_FEC_UNCORR_COUNT__SAT, .ro)]⟩,
  ⟨KELPIE_PORT_DROP_COUNT, true, [(KELPIE_PORT_DROP_COUNT__COUNT, .ro), (KELPIE_PORT_DROP_COUNT__SAT, .ro)]⟩,
  ⟨KELPIE_PORT_PAUSE_COUNT, true, [(KELPIE_PORT_PAUSE_COUNT__COUNT, .ro), (KELPIE_PORT_PAUSE_COUNT__SAT, .ro)]⟩,
  ⟨KELPIE_RETX_COUNT, true, [(KELPIE_RETX_COUNT__COUNT, .ro), (KELPIE_RETX_COUNT__SAT, .ro)]⟩,
  ⟨KELPIE_RNR_COUNT, true, [(KELPIE_RNR_COUNT__COUNT, .ro), (KELPIE_RNR_COUNT__SAT, .ro)]⟩,
  ⟨KELPIE_ECE_COUNT, true, [(KELPIE_ECE_COUNT__COUNT, .ro), (KELPIE_ECE_COUNT__SAT, .ro)]⟩,
  ⟨KELPIE_CNP_COUNT, true, [(KELPIE_CNP_COUNT__COUNT, .ro), (KELPIE_CNP_COUNT__SAT, .ro)]⟩]

/-- Part 8 of the register table. -/
def regTable7 : List RegInfo := [
  ⟨KELPIE_SYNC_FIRED_COUNT, true, [(KELPIE_SYNC_FIRED_COUNT__COUNT, .ro), (KELPIE_SYNC_FIRED_COUNT__SAT, .ro)]⟩,
  ⟨KELPIE_SYNC_IGNORED_COUNT, true, [(KELPIE_SYNC_IGNORED_COUNT__COUNT, .ro), (KELPIE_SYNC_IGNORED_COUNT__SAT, .ro)]⟩,
  ⟨HUB_START, false, [(HUB_START__GO, .wo), (HUB_START__PENDING, .ro), (HUB_START__DOUBLE, .w1c), (HUB_START__LATE, .w1c), (HUB_START__LATE_MASK, .ro)]⟩,
  ⟨OPAL_CTRL, false, [(OPAL_CTRL__OPEN, .wo), (OPAL_CTRL__CLOSE, .wo), (OPAL_CTRL__SIGN, .rw)]⟩,
  ⟨OPAL_STATUS, false, [(OPAL_STATUS__PLAN_VALID, .ro), (OPAL_STATUS__RUN_OPEN, .ro), (OPAL_STATUS__DIGEST_VALID, .ro), (OPAL_STATUS__SIG_BUSY, .ro), (OPAL_STATUS__SIG_DONE, .ro), (OPAL_STATUS__SIG_ERR, .w1c), (OPAL_STATUS__ERR, .w1c)]⟩,
  ⟨OPAL_DIGEST, false, [(OPAL_DIGEST__DIGEST, .ro)]⟩,
  ⟨OPAL_SIG_VA, false, [(OPAL_SIG_VA__VA, .rw)]⟩,
  ⟨OPAL_PLAN_HASH, false, [(OPAL_PLAN_HASH__PLAN_HASH, .ro)]⟩,
  ⟨OPAL_WEIGHT_HASH, false, [(OPAL_WEIGHT_HASH__WEIGHT_HASH, .rw)]⟩,
  ⟨OPAL_INPUT_HASH, false, [(OPAL_INPUT_HASH__INPUT_HASH, .rw)]⟩,
  ⟨OPAL_SEED, false, [(OPAL_SEED__SEED, .rw)]⟩,
  ⟨OPAL_P_FORMAT_MODE, false, [(OPAL_P_FORMAT_MODE__P, .rw), (OPAL_P_FORMAT_MODE__FORMAT, .ro), (OPAL_P_FORMAT_MODE__MODE, .ro)]⟩,
  ⟨OPAL_IN_REST, false, [(OPAL_IN_REST__ZERO, .ro)]⟩,
  ⟨HUB_START_COUNT, true, [(HUB_START_COUNT__COUNT, .ro), (HUB_START_COUNT__SAT, .ro)]⟩,
  ⟨HUB_START_IGNORED_COUNT, true, [(HUB_START_IGNORED_COUNT__COUNT, .ro), (HUB_START_IGNORED_COUNT__SAT, .ro)]⟩,
  ⟨HUB_START_LATE_COUNT, true, [(HUB_START_LATE_COUNT__COUNT, .ro), (HUB_START_LATE_COUNT__SAT, .ro)]⟩,
  ⟨OPAL_DIGEST_COUNT, true, [(OPAL_DIGEST_COUNT__COUNT, .ro), (OPAL_DIGEST_COUNT__SAT, .ro)]⟩,
  ⟨OPAL_SIGN_COUNT, true, [(OPAL_SIGN_COUNT__COUNT, .ro), (OPAL_SIGN_COUNT__SAT, .ro)]⟩,
  ⟨REGION_BIND, false, [(REGION_BIND__SLOT, .rw), (REGION_BIND__BOUND, .rw)]⟩,
  ⟨REGION_STANDBY, false, [(REGION_STANDBY__MASK, .rw)]⟩,
  ⟨REGION_FENCE, false, [(REGION_FENCE__FENCED, .ro), (REGION_FENCE__REBUILDING, .ro), (REGION_FENCE__REGION_FENCED, .ro), (REGION_FENCE__BIND_ERR, .w1c), (REGION_FENCE__LAST_SLOT, .ro)]⟩,
  ⟨REGION_FENCE_LOG, false, [(REGION_FENCE_LOG__FAULT, .ro)]⟩,
  ⟨REGION_FENCE_INFO, false, [(REGION_FENCE_INFO__INFO, .ro)]⟩,
  ⟨REGION_FAULT, false, [(REGION_FAULT__VALID, .ro), (REGION_FAULT__CODE, .ro)]⟩,
  ⟨BH_CTRL, false, [(BH_CTRL__RECOVER_EN, .rw)]⟩]

/-- Part 9 of the register table. -/
def regTable8 : List RegInfo := [
  ⟨BH_STATUS, false, [(BH_STATUS__STATE, .ro), (BH_STATUS__DEV_FAILED, .ro), (BH_STATUS__QUEUED, .ro), (BH_STATUS__LOST, .ro), (BH_STATUS__STANDBY, .ro), (BH_STATUS__PAGES_LEFT, .ro)]⟩,
  ⟨BH_REPLAY_CFG, false, [(BH_REPLAY_CFG__VA, .rw), (BH_REPLAY_CFG__CAP, .rw)]⟩,
  ⟨BH_REPLAY_STATUS, false, [(BH_REPLAY_STATUS__COUNT, .ro), (BH_REPLAY_STATUS__OVF, .ro)]⟩,
  ⟨BH_PARITY_CMD, false, [(BH_PARITY_CMD__OP, .wo), (BH_PARITY_CMD__FIRST_GROUP, .rw), (BH_PARITY_CMD__COUNT, .rw)]⟩,
  ⟨BH_PARITY_STATUS, false, [(BH_PARITY_STATUS__BUSY, .ro), (BH_PARITY_STATUS__ERR, .w1c), (BH_PARITY_STATUS__CAUSE, .ro), (BH_PARITY_STATUS__BAD_GROUP, .ro), (BH_PARITY_STATUS__MISMATCH, .ro)]⟩,
  ⟨BH_DIE_CMD, false, [(BH_DIE_CMD__OP, .wo), (BH_DIE_CMD__DIE, .wo), (BH_DIE_CMD__FULL, .wo)]⟩,
  ⟨BH_DIE_STATUS, false, [(BH_DIE_STATUS__STATE, .ro), (BH_DIE_STATUS__ERR, .w1c), (BH_DIE_STATUS__CAUSE, .ro)]⟩,
  ⟨BH_DEV_FAULT, false, [(BH_DEV_FAULT__VALID, .ro), (BH_DEV_FAULT__CODE, .ro), (BH_DEV_FAULT__DIE, .ro), (BH_DEV_FAULT__CAUSE, .ro)]⟩,
  ⟨BH_FENCE_COUNT, true, [(BH_FENCE_COUNT__COUNT, .ro), (BH_FENCE_COUNT__SAT, .ro)]⟩,
  ⟨BH_RECOVERY_COUNT, true, [(BH_RECOVERY_COUNT__COUNT, .ro), (BH_RECOVERY_COUNT__SAT, .ro)]⟩,
  ⟨BH_REBUILD_WINDOW_COUNT, true, [(BH_REBUILD_WINDOW_COUNT__COUNT, .ro), (BH_REBUILD_WINDOW_COUNT__SAT, .ro)]⟩,
  ⟨BH_PARITY_LOST_COUNT, true, [(BH_PARITY_LOST_COUNT__COUNT, .ro), (BH_PARITY_LOST_COUNT__SAT, .ro)]⟩,
  ⟨BH_CAP_REDUCED_COUNT, true, [(BH_CAP_REDUCED_COUNT__COUNT, .ro), (BH_CAP_REDUCED_COUNT__SAT, .ro)]⟩,
  ⟨HUSKY_CTRL, false, [(HUSKY_CTRL__RESUME, .wo), (HUSKY_CTRL__STOP, .wo), (HUSKY_CTRL__WARM_EN, .rw), (HUSKY_CTRL__PREDICT_EN, .rw)]⟩,
  ⟨HUSKY_STATUS, false, [(HUSKY_STATUS__STATE, .ro), (HUSKY_STATUS__TRIPPED, .ro), (HUSKY_STATUS__FLOW_LOW, .ro), (HUSKY_STATUS__FLOW_IMPLAUSIBLE, .ro), (HUSKY_STATUS__TRAY_LOST, .ro), (HUSKY_STATUS__ERR, .w1c), (HUSKY_STATUS__STOP_CAUSE, .ro), (HUSKY_STATUS__EFF_CAP_W, .ro)]⟩,
  ⟨HUSKY_THRESH, false, [(HUSKY_THRESH__TJ_THROTTLE, .rw), (HUSKY_THRESH__TJ_STOP, .rw), (HUSKY_THRESH__RATE_THR, .rw), (HUSKY_THRESH__RATE_STOP, .rw), (HUSKY_THRESH__MARGIN, .rw), (HUSKY_THRESH__DUTY_THROTTLE, .rw), (HUSKY_THRESH__DRAM_LIMIT, .rw)]⟩,
  ⟨HUSKY_PCAP, false, [(HUSKY_PCAP__USER_W, .rw)]⟩,
  ⟨HUSKY_RAMP, false, [(HUSKY_RAMP__RAMP, .rw), (HUSKY_RAMP__SLEW, .rw), (HUSKY_RAMP__WARM_PCT, .rw)]⟩,
  ⟨HUSKY_POWER, false, [(HUSKY_POWER__EST_W, .ro), (HUSKY_POWER__MEAS_W, .ro)]⟩,
  ⟨HUSKY_DEV_MAX, false, [(HUSKY_DEV_MAX__TEMP, .ro), (HUSKY_DEV_MAX__SENSOR, .ro)]⟩,
  ⟨HUSKY_PD_CMD, false, [(HUSKY_PD_CMD__DOMAIN, .rw), (HUSKY_PD_CMD__OP, .wo), (HUSKY_PD_CMD__BUSY, .ro), (HUSKY_PD_CMD__ERR, .w1c), (HUSKY_PD_CMD__CAUSE, .ro)]⟩,
  ⟨HUSKY_STOP_REC0, false, [(HUSKY_STOP_REC0__TIME, .rws)]⟩,
  ⟨HUSKY_STOP_REC1, false, [(HUSKY_STOP_REC1__CAUSE, .rws), (HUSKY_STOP_REC1__TEMP, .rws), (HUSKY_STOP_REC1__SENSOR, .rws)]⟩,
  ⟨HUSKY_TRAY_CFG, false, [(HUSKY_TRAY_CFG__NOM_FLOW, .rw), (HUSKY_TRAY_CFG__MAX_FLOW, .rw), (HUSKY_TRAY_CFG__TAU, .rw), (HUSKY_TRAY_CFG__CVOL, .rw)]⟩]

/-- Part 10 of the register table. -/
def regTable9 : List RegInfo := [
  ⟨HUSKY_TRAY_STATUS, false, [(HUSKY_TRAY_STATUS__INLET, .ro), (HUSKY_TRAY_STATUS__OUTLET, .ro), (HUSKY_TRAY_STATUS__FLOW, .ro), (HUSKY_TRAY_STATUS__DEMAND, .ro)]⟩,
  ⟨HUSKY_TRAY_ADDR, false, [(HUSKY_TRAY_ADDR__ADDR, .rw)]⟩,
  ⟨HUSKY_TILE, false, [(HUSKY_TILE__DUTY, .ro), (HUSKY_TILE__MAX, .ro), (HUSKY_TILE__SENSOR, .ro), (HUSKY_TILE__THROTTLED, .ro)]⟩,
  ⟨HUSKY_PD_STATE, false, [(HUSKY_PD_STATE__STATE, .ro), (HUSKY_PD_STATE__CHANGING, .ro)]⟩,
  ⟨HUSKY_SENSOR, false, [(HUSKY_SENSOR__TEMP, .ro), (HUSKY_SENSOR__RATE, .ro), (HUSKY_SENSOR__VALID, .ro), (HUSKY_SENSOR__BROKEN, .ro), (HUSKY_SENSOR__SUSPECT, .ro)]⟩,
  ⟨REGION_THERM, false, [(REGION_THERM__LOGIC_MAX, .ro), (REGION_THERM__SLOT, .ro), (REGION_THERM__DUTY_MIN, .ro)]⟩,
  ⟨HUSKY_THROTTLE_COUNT, true, [(HUSKY_THROTTLE_COUNT__COUNT, .ro), (HUSKY_THROTTLE_COUNT__SAT, .ro)]⟩,
  ⟨HUSKY_CAP_MS_COUNT, true, [(HUSKY_CAP_MS_COUNT__COUNT, .ro), (HUSKY_CAP_MS_COUNT__SAT, .ro)]⟩,
  ⟨HUSKY_STOP_COUNT, true, [(HUSKY_STOP_COUNT__COUNT, .ro), (HUSKY_STOP_COUNT__SAT, .ro)]⟩,
  ⟨HUSKY_TRAY_MISS_COUNT, true, [(HUSKY_TRAY_MISS_COUNT__COUNT, .ro), (HUSKY_TRAY_MISS_COUNT__SAT, .ro)]⟩,
  ⟨HUSKY_PD_FAULT_COUNT, true, [(HUSKY_PD_FAULT_COUNT__COUNT, .ro), (HUSKY_PD_FAULT_COUNT__SAT, .ro)]⟩,
  ⟨HUSKY_TILE_HOT, true, [(HUSKY_TILE_HOT__COUNT, .ro), (HUSKY_TILE_HOT__SAT, .ro)]⟩,
  ⟨HUB_RESET, false, [(HUB_RESET__WARM, .wo)]⟩,
  ⟨HUB_BOOT_STATUS, false, [(HUB_BOOT_STATUS__STAGE, .ro), (HUB_BOOT_STATUS__CAUSE, .ro)]⟩,
  ⟨HUB_CFG_CTRL, false, [(HUB_CFG_CTRL__WRITE, .wo), (HUB_CFG_CTRL__SWAP, .wo)]⟩,
  ⟨HUB_CFG_STATUS, false, [(HUB_CFG_STATUS__BUSY, .ro), (HUB_CFG_STATUS__DONE, .w1c), (HUB_CFG_STATUS__ERR, .w1c), (HUB_CFG_STATUS__CAUSE, .ro), (HUB_CFG_STATUS__PENDING, .ro), (HUB_CFG_STATUS__APPLYING, .ro), (HUB_CFG_STATUS__ACTIVE_BAD, .ro)]⟩,
  ⟨HUB_CFG_ACTIVE, false, [(HUB_CFG_ACTIVE__SEQ, .ro), (HUB_CFG_ACTIVE__SLOT, .ro)]⟩,
  ⟨HUB_CFG_SRC, false, [(HUB_CFG_SRC__VA, .rw)]⟩,
  ⟨SEQ_CMD, false, [(SEQ_CMD__STEP, .wo), (SEQ_CMD__ARG, .wo)]⟩,
  ⟨SEQ_STATUS, false, [(SEQ_STATUS__STATE, .ro), (SEQ_STATUS__MODE, .ro), (SEQ_STATUS__CUR, .ro), (SEQ_STATUS__LAST_DONE, .ro), (SEQ_STATUS__CAUSE, .ro), (SEQ_STATUS__ERR, .w1c)]⟩,
  ⟨SEQ_STEP_LOG, false, [(SEQ_STEP_LOG__DONE, .ro), (SEQ_STEP_LOG__FAILED, .ro), (SEQ_STEP_LOG__CAUSE, .ro), (SEQ_STEP_LOG__DURATION_MS, .ro)]⟩,
  ⟨SEQ_FP_SUMMARY, false, [(SEQ_FP_SUMMARY__GOOD_TILES, .ro), (SEQ_FP_SUMMARY__SHRUNK, .ro), (SEQ_FP_SUMMARY__JASPER, .ro), (SEQ_FP_SUMMARY__SITE, .ro), (SEQ_FP_SUMMARY__CAP_MIB, .ro)]⟩,
  ⟨SEQ_MEMTEST, false, [(SEQ_MEMTEST__FULL, .ro), (SEQ_MEMTEST__ROWS, .ro), (SEQ_MEMTEST__LOW_BAND, .ro)]⟩,
  ⟨SEQ_FP_REGION, false, [(SEQ_FP_REGION__GOOD, .ro), (SEQ_FP_REGION__CAND, .ro), (SEQ_FP_REGION__EXCLUDED, .ro), (SEQ_FP_REGION__GOOD_COUNT, .ro), (SEQ_FP_REGION__JASPER, .ro)]⟩]

/-- Part 11 of the register table. -/
def regTable10 : List RegInfo := [
  ⟨HUB_TIME, false, [(HUB_TIME__TIME, .ro)]⟩,
  ⟨HUB_CNT_CTRL, false, [(HUB_CNT_CTRL__SAT_EVT_EN, .rw)]⟩,
  ⟨HUB_FW_STATUS, false, [(HUB_FW_STATUS__RUNNING, .ro), (HUB_FW_STATUS__MASTIFF_FAILED, .ro)]⟩,
  ⟨PCIE_BAR2_BASE, false, [(PCIE_BAR2_BASE__VA, .rw)]⟩,
  ⟨HOST_EVT_CFG, false, [(HOST_EVT_CFG__ENABLE, .rw), (HOST_EVT_CFG__ERR, .w1c), (HOST_EVT_CFG__LOG2, .rw), (HOST_EVT_CFG__BASE, .rw), (HOST_EVT_CFG__VECTOR, .rw), (HOST_EVT_CFG__COAL_US, .rw), (HOST_EVT_CFG__COAL_CNT, .rw)]⟩,
  ⟨HOST_EVT_STATE, false, [(HOST_EVT_STATE__TAIL, .ro), (HOST_EVT_STATE__PHASE, .ro)]⟩,
  ⟨HOST_ABI, false, [(HOST_ABI__MINOR, .ro), (HOST_ABI__MAJOR, .ro)]⟩,
  ⟨HOST_FEAT_OFFER, false, [(HOST_FEAT_OFFER__OFFER, .ro)]⟩,
  ⟨HOST_FEAT_REQ, false, [(HOST_FEAT_REQ__REQ, .rw)]⟩,
  ⟨HOST_FEAT_GRANT, false, [(HOST_FEAT_GRANT__GRANT, .ro)]⟩,
  ⟨HOST_NEG_CTRL, false, [(HOST_NEG_CTRL__HOST_MAJOR, .rw), (HOST_NEG_CTRL__GO, .wo), (HOST_NEG_CTRL__GRANTED, .ro), (HOST_NEG_CTRL__ERR, .w1c)]⟩,
  ⟨HOST_RING_CFG, false, [(HOST_RING_CFG__ENABLE, .rw), (HOST_RING_CFG__ERR, .w1c), (HOST_RING_CFG__SQ_LOG2, .rw), (HOST_RING_CFG__CQ_LOG2, .rw), (HOST_RING_CFG__SQ_BASE, .rw), (HOST_RING_CFG__CQ_BASE, .rw), (HOST_RING_CFG__VECTOR, .rw)]⟩,
  ⟨HOST_RING_COAL, false, [(HOST_RING_COAL__COAL_CNT, .rw), (HOST_RING_COAL__COAL_US, .rw)]⟩,
  ⟨HOST_RING_STATE, false, [(HOST_RING_STATE__SQ_HEAD, .ro), (HOST_RING_STATE__CQ_TAIL, .ro), (HOST_RING_STATE__CQ_PHASE, .ro), (HOST_RING_STATE__STALLED, .ro)]⟩,
  ⟨HUB_FW_RESTART_COUNT, true, [(HUB_FW_RESTART_COUNT__COUNT, .ro), (HUB_FW_RESTART_COUNT__SAT, .ro)]⟩,
  ⟨PCIE_BAR2_DROP_COUNT, true, [(PCIE_BAR2_DROP_COUNT__COUNT, .ro), (PCIE_BAR2_DROP_COUNT__SAT, .ro)]⟩,
  ⟨PCIE_BAR2_POISON_COUNT, true, [(PCIE_BAR2_POISON_COUNT__COUNT, .ro), (PCIE_BAR2_POISON_COUNT__SAT, .ro)]⟩,
  ⟨HOST_CMD_COUNT, true, [(HOST_CMD_COUNT__COUNT, .ro), (HOST_CMD_COUNT__SAT, .ro)]⟩,
  ⟨HOST_EVT_DROP_COUNT, true, [(HOST_EVT_DROP_COUNT__COUNT, .ro), (HOST_EVT_DROP_COUNT__SAT, .ro)]⟩,
  ⟨MBX_CTRL, false, [(MBX_CTRL__VERIFY, .wo), (MBX_CTRL__REPORT, .wo)]⟩,
  ⟨MBX_RECOVERY, false, [(MBX_RECOVERY__BYTES, .rw)]⟩,
  ⟨MBX_STATUS, false, [(MBX_STATUS__BUSY, .ro), (MBX_STATUS__REPORT_DONE, .ro), (MBX_STATUS__ERR, .w1c), (MBX_STATUS__CAUSE, .ro), (MBX_STATUS__RECOVERY_WAIT, .ro), (MBX_STATUS__KEY_OK, .ro), (MBX_STATUS__DEBUG_EVER, .ro), (MBX_STATUS__DEBUG_SESSION, .ro), (MBX_STATUS__FUSED_SVN, .ro)]⟩,
  ⟨MBX_NONCE, false, [(MBX_NONCE__NONCE, .rw)]⟩,
  ⟨MBX_REPORT, false, [(MBX_REPORT__DATA, .ro)]⟩]

/-- Part 12 of the register table. -/
def regTable11 : List RegInfo := [
  ⟨MBX_CERT, false, [(MBX_CERT__DATA, .ro)]⟩,
  ⟨HUSKY_RAIL, false, [(HUSKY_RAIL__VOUT_MV, .ro), (HUSKY_RAIL__IOUT, .ro), (HUSKY_RAIL__SETPOINT_MV, .ro), (HUSKY_RAIL__FAULT, .ro), (HUSKY_RAIL__TELEM_VALID, .ro)]⟩,
  ⟨DB_SQ_TAIL, false, [(DB_SQ_TAIL__INDEX, .rw)]⟩,
  ⟨DB_CQ_HEAD, false, [(DB_CQ_HEAD__INDEX, .rw)]⟩,
  ⟨DB_EVT_HEAD, false, [(DB_EVT_HEAD__INDEX, .rw)]⟩,
  ⟨MSIX_ADDR, false, [(MSIX_ADDR__ADDR, .rw)]⟩,
  ⟨MSIX_DATA, false, [(MSIX_DATA__DATA, .rw), (MSIX_DATA__MASK, .rw)]⟩,
  ⟨MSIX_PBA, false, [(MSIX_PBA__PEND, .ro)]⟩]

/-- Every register of the manual. [21_register_index.md Table 21.2, Table 21.3] -/
def regTable : List RegInfo :=
  regTable0 ++ regTable1 ++ regTable2 ++ regTable3 ++ regTable4 ++ regTable5 ++ regTable6 ++ regTable7 ++ regTable8 ++ regTable9 ++ regTable10 ++ regTable11

/-- A register instance found at an offset. -/
structure RegAt where
  info : RegInfo
  i : Nat
  j : Nat
  deriving DecidableEq, Repr

/-- The instance of `r` at an offset, if any. -/
def instAt (r : Reg) (off : Nat) : Option (Nat × Nat) :=
  if off < r.base then none
  else
    let d := off - r.base
    let i := if r.c1 = 1 then 0 else d / r.s1
    let e := d - i * r.s1
    let j := if r.c2 = 1 then 0 else e / r.s2
    if i < r.c1 ∧ j < r.c2 ∧ off = regOff r i j then some (i, j) else none

/-- The register at an offset of a table. -/
def findReg (off : Nat) : List RegInfo → Option RegAt
  | [] => none
  | x :: xs =>
    match instAt x.reg off with
    | some (i, j) => some ⟨x, i, j⟩
    | none => findReg off xs

/-- The register implemented at a BAR0 offset; none for an unimplemented one. [00_scope.md R19; 21_register_index.md R492] -/
def regAt (off : Nat) : Option RegAt := findReg off regTable

end Sys2Proof.Machine
end

