-- ==== Sys2Proof/Machine/State.lean ====
section
/-! DEFINITION. The state of the NG288 as plain data, the reasons a command can stop, and the state after reset.
The documentation of each field gives what it is; its width; the file and rule that name it; its reset value. -/

namespace Sys2Proof.Machine

/-! ### Tile -/

/-- Where a unit's queue entry stands: waiting in the queue, being executed, or executed and waiting for its completion step. [04_tile_commands.md R99, R100] -/
inductive Phase where
  | queued | active | done
  deriving DecidableEq, Repr

/-- The five unit queues of a tile. [04_tile_commands.md Table 4.1] -/
inductive TUnit where
  | load | exec | beryl | dma | jasper
  deriving DecidableEq, Repr

/-- What the fetch of one descriptor met: it arrived clean, with a poison tag (R96), or its address failed (R94). -/
inductive FetchMark where
  | clean | poison | badAddr
  deriving DecidableEq, Repr

/-- One descriptor of a stream's fetch buffer. -/
structure Fetched where
  /-- ring index of the descriptor; 20 bits; 04_tile_commands.md R96; empty buffer -/
  idx : Nat
  /-- the descriptor as read; 256 bits; 04_tile_commands.md R101; empty buffer -/
  desc : Nat
  /-- what its fetch met; 3 values; 04_tile_commands.md R94, R96; empty buffer -/
  mark : FetchMark
  deriving DecidableEq, Repr

/-- A sector with its 32 data bytes and its poison tag. -/
structure Sector where
  /-- sector within the window; 6 bits; 07_vaults.md R166; none -/
  s : Nat
  /-- the data; 32 bytes; 06_spinel_dma.md R151; none -/
  data : List Byte
  /-- poison tag; 2 bits; 08_ecc_repair.md Table 8.3; none -/
  tag : Nat
  deriving DecidableEq, Repr

/-- A descriptor fetch that has been sent to the tile's own vault. [04_tile_commands.md R96] -/
structure FetchReq where
  /-- number of its burst; model's number; 07_vaults.md R170; none -/
  id : Nat
  /-- aligned block of the ring, 32 descriptors; 15 bits; 04_tile_commands.md R96; none -/
  blk : Nat
  /-- entries asked for: those valid at the request; list of ring indices; 04_tile_commands.md R95; none -/
  want : List Nat
  /-- the sectors that have arrived and wait for the fetch buffer; 32 sectors or none; 04_tile_commands.md R96; none -/
  secs : Option (List Sector)
  deriving DecidableEq, Repr

/-- The state of one stream that no register shows. -/
structure Stream where
  /-- fetch buffer; at most 32 descriptors; 04_tile_commands.md R96; empty -/
  buf : List Fetched
  /-- LOOP_PC of the active LOOP; 20 bits; 04_tile_commands.md R105; 0 -/
  loopPc : Nat
  /-- watchdog count in issue ACLK; count; 04_tile_commands.md R113; 0 -/
  wd : Nat
  /-- ring index the watchdog count belongs to; 20 bits or none; 04_tile_commands.md R113; none -/
  wdIdx : Option Nat
  /-- ACLK of the current token block, for BLOCK_US; count; 04_tile_commands.md Table 4.23; 0 -/
  blk : Nat
  /-- commands of the stream dispatched and not completed or discarded; count; 04_tile_commands.md R97; 0 -/
  out : Nat
  /-- descriptor fetch in progress; Option; 04_tile_commands.md R96; none -/
  fetch : Option FetchReq
  deriving DecidableEq, Repr

/-- What a requester asks of a port of Spinel. -/
structure PortReq where
  /-- priority of Table 6.1 or 6.2; 1 to 4; 06_spinel_dma.md R146, R147; none -/
  rank : Nat
  /-- banks that each beat still to be granted touches; list of 32-bit masks; 06_spinel_dma.md R143, R145; none -/
  beats : List Nat
  /-- consecutive ACLK in which it was refused; count; 06_spinel_dma.md R146; 0 -/
  refused : Nat
  deriving DecidableEq, Repr

/-- Destination of a part of a DMA command. [06_spinel_dma.md R158] -/
inductive Dest where
  | vault (tile : Nat) | unmapped | cust | receiver (k : Nat)
  deriving DecidableEq, Repr

/-- A part with the ERR of its first failure. -/
structure Part where
  /-- destination of the part; one of four kinds; 06_spinel_dma.md R158; none -/
  dest : Dest
  /-- ERR of the first failure, 0 while none; 4 bits; 06_spinel_dma.md Table 6.7; none -/
  err : Nat
  /-- some of its traffic will never be issued; 1 bit; 06_spinel_dma.md R158, Table 6.7; none -/
  cut : Bool
  deriving DecidableEq, Repr

/-- A burst or message of a command whose response has not arrived. -/
structure Pend where
  /-- identifier of the burst or message; model's number; 06_spinel_dma.md R158; none -/
  id : Nat
  /-- number of the part it belongs to; 0-15; 06_spinel_dma.md R158; none -/
  part : Nat
  /-- Spinel words each read sector is delivered to, as (sector, word); list; 06_spinel_dma.md R152; none -/
  dsts : List (Nat × Nat)
  /-- region endpoint that it addresses, none for the customer die; 4 bits or none; 11_fabric.md R282, 15_fault_tolerance.md R379; none -/
  region : Option Nat
  /-- device time of its issue, for REMOTE_TIMEOUT; ns; 06_spinel_dma.md R158; none -/
  since : Nat
  /-- GEN under which its address was translated; 32 bits; 10_attention_kv.md R246; none -/
  gen : Nat
  deriving DecidableEq, Repr

/-- Fabric message types. [11_fabric.md Table 11.3] -/
inductive MsgType where
  | rd | wr | rdata | wack | noep | spw | vrd | vwr | mgmt
  deriving DecidableEq, Repr

/-- What a management message says. [11_fabric.md R274, Table 11.3] -/
inductive Mgmt where
  | invalidate (va : Nat) | invAck | gen (g : Nat) | genAck | report (slot : Nat) (code cls : Nat)
  | summary (g : Nat) (masks : List Nat) | start (s : Nat) | none
  deriving DecidableEq, Repr

/-- The unit at an end of a message: a tile, a region controller, the hub or the customer die. [11_fabric.md R271, R25] -/
inductive End where
  | tile (p : Nat) | region (g : Nat) | hub | cust
  deriving DecidableEq, Repr

/-- One fabric message. -/
structure Msg where
  /-- number of the message; model's number; 11_fabric.md R271; none -/
  id : Nat
  /-- TYPE; 4 bits; 11_fabric.md Table 11.3; none -/
  typ : MsgType
  /-- VC; 2 bits; 11_fabric.md Table 11.2; none -/
  vc : Nat
  /-- source unit, with SRC; 5 bits; 11_fabric.md Table 11.2; none -/
  src : End
  /-- destination unit, with DEST and SLOT; 5 + 5 bits; 11_fabric.md Table 11.2; none -/
  dst : End
  /-- CLASS; 3 bits; 11_fabric.md Table 11.2; none -/
  cls : Nat
  /-- DL_EN with DEADLINE; 16 bits or none; 11_fabric.md Table 11.2; none -/
  deadline : Option Nat
  /-- request that the response answers; model's number; 06_spinel_dma.md R158; none -/
  txn : Nat
  /-- TXN of its flits, echoed in the response; 12 bits; 11_fabric.md Table 11.2; none -/
  wire : Nat
  /-- CAR; 1 bit; 11_fabric.md R288; none -/
  car : Bool
  /-- CHANNEL; 3 bits; 11_fabric.md Table 11.4; none -/
  chan : Nat
  /-- WINDOW, or for SPW the number of its command (model's number); 18 bits; 11_fabric.md Table 11.4; none -/
  win : Nat
  /-- MASK; 64 bits; 11_fabric.md Table 11.4; none -/
  mask : Nat
  /-- sectors carried with TAGS; at most 64; 11_fabric.md Table 11.4; none -/
  sectors : List Sector
  /-- CAUSE; 4 bits; 11_fabric.md Table 11.6; none -/
  cause : Nat
  /-- VA; 48 bits; 11_fabric.md Table 11.4; none -/
  va : Nat
  /-- LMASK; 18 bits; 11_fabric.md Table 11.4; none -/
  lmask : Nat
  /-- PHYS; 1 bit; 11_fabric.md R285; none -/
  phys : Bool
  /-- physical slots that a translated Spinel write still goes to, each with the request it answers; list; 11_fabric.md R285; none -/
  subs : List (Nat × Nat)
  /-- DST_SPA; 16 bits; 11_fabric.md Table 11.4; none -/
  dstSpa : Nat
  /-- DST_SLOT when DST_SLOT_EN = 1; 6 bits or none; 11_fabric.md Table 11.4; none -/
  dstSlot : Option Nat
  /-- LAST; 1 bit; 11_fabric.md Table 11.4; none -/
  last : Bool
  /-- contents of a management message; one of its kinds; 11_fabric.md Table 11.3; none -/
  mg : Mgmt
  /-- directed links still to cross, the next first; list; 11_fabric.md Table 11.1; none -/
  route : List Nat
  /-- flits of the message accepted on the link being crossed; count; 11_fabric.md R271; none -/
  got : Nat
  /-- flits of the message that its present output has sent; count; 11_fabric.md R271; none -/
  sent : Nat
  /-- copies that one router makes of one message share its buffered flits; model's number or none; 11_fabric.md R285; none -/
  group : Option Nat
  /-- its router has begun to send it to every output it needs; 1 bit; 11_fabric.md R277; none -/
  go : Bool
  /-- directed link whose input buffer holds the message; link or none; 11_fabric.md R276; none -/
  held : Option Nat
  /-- arrival order at its present output; model's number; 12_regulation.md R306; none -/
  stamp : Nat
  /-- marked LATE; 1 bit; 12_regulation.md R306; none -/
  late : Bool
  /-- device time from which its slot has held it; ns or none; 04_tile_commands.md R110; none -/
  waitSince : Option Nat
  /-- GEN under which the hub translated a customer-die request that it forwarded; 32 bits or none; 10_attention_kv.md R246; none -/
  gen : Option Nat
  deriving DecidableEq, Repr

/-- One entry of a unit queue (Table 4.1). -/
structure Cmd where
  /-- number given at dispatch, rising; model's number; 04_tile_commands.md R97; none -/
  serial : Nat
  /-- dispatching stream; 4 bits; 04_tile_commands.md R116; none -/
  stream : Nat
  /-- ring index; 20 bits; 04_tile_commands.md R116; none -/
  idx : Nat
  /-- the descriptor; 256 bits; 04_tile_commands.md R101; none -/
  desc : Nat
  /-- absolute deadline in 64 ns units, when DL_EN = 1; 16 bits or none; 12_regulation.md R305; none -/
  deadline : Option Nat
  /-- ACLK in which it became the next to begin in its queue; count or none; 03_garnet_array.md R69, R70; none -/
  headAt : Option Nat
  /-- waiting, executing or executed; 3 values; 04_tile_commands.md R99; none -/
  phase : Phase
  /-- completion status once executed; 1 bit; 04_tile_commands.md R100; none -/
  ok : Bool
  /-- its FAIL raised a tile fault; 1 bit; 04_tile_commands.md R117; none -/
  faulted : Bool
  /-- an abort stopped it; 1 bit; 04_tile_commands.md R100, Table 4.14; none -/
  stopped : Bool
  /-- parts in the order the walk reached them; at most 16; 06_spinel_dma.md R158; none -/
  parts : List Part
  /-- bursts and messages without a response; list; 06_spinel_dma.md R158; none -/
  pend : List Pend
  /-- a tagged word was carried; 1 bit; 06_spinel_dma.md Table 6.7; none -/
  poison : Bool
  /-- a 17th destination was reached; 1 bit; 06_spinel_dma.md R158; none -/
  ovf : Bool
  /-- appends of the command that have not ended, by number; list; 10_attention_kv.md R257, R261; none -/
  apps : List Nat
  deriving DecidableEq, Repr

/-- A weight bank of Garnet with the attributes of Table 3.1. -/
structure Bank where
  /-- LOADED; 1 bit; 03_garnet_array.md R64, R86; 0 -/
  loaded : Bool
  /-- PREC, weight precision b; 1-8 (4 bits); 03_garnet_array.md R64; DESIGN CHOICE 0 (log 3) -/
  prec : Nat
  /-- FMT, 1 for INT1; 1 bit; 03_garnet_array.md R64; DESIGN CHOICE 0 (log 3) -/
  int1 : Bool
  /-- SCALE, 1 for page mode; 1 bit; 03_garnet_array.md R64; DESIGN CHOICE 0 (log 3) -/
  page : Bool
  /-- exponent byte of each column; 128 x 8 bits; 03_garnet_array.md R64; DESIGN CHOICE 0 (log 3) -/
  exps : SMap Nat
  /-- plane occupancy of each column; 128 x 8 bits; 03_garnet_array.md R64, R86; 0 -/
  occ : SMap Nat
  /-- for each column the 9-bit registers of its rows; 128 x 128 x 9 bits; 03_garnet_array.md R62, R63, R86; code 0 with valid parity -/
  cols : SMap (SMap Nat)
  deriving DecidableEq, Repr

/-- The open accumulation group of Garnet (R75). -/
structure Group where
  /-- TOKENS latched; 1-64; 03_garnet_array.md R75; no group -/
  tokens : Nat
  /-- NCOLS latched; 1-128; 03_garnet_array.md R75; no group -/
  ncols : Nat
  /-- floor F latched; 8 bits two's complement; 03_garnet_array.md R75; no group -/
  f : Int
  deriving DecidableEq, Repr

/-- The results of a closed group that wait for the E port (R75, R78). -/
structure RunOut where
  /-- serial number of the run; model's number; 03_garnet_array.md R78; none -/
  serial : Nat
  /-- records of the tokens still to be written, in token order; list; 03_garnet_array.md R75; none -/
  toks : List (List La80)
  /-- byte offset from DST at which the next token begins; count; 03_garnet_array.md R75; none -/
  off : Nat
  /-- bytes of the word that the tokens written so far have not filled; fewer than 32; 03_garnet_array.md R75; none -/
  carry : List Byte
  /-- converted FP32 rows collected for an append; list of rows; 10_attention_kv.md R256; none -/
  rows : List (List Nat)
  deriving DecidableEq, Repr

/-- The matrix array of one tile. -/
structure Garnet where
  /-- physical register set 0; Bank; 03_garnet_array.md R62; codes 0, not loaded -/
  set0 : Bank
  /-- physical register set 1; Bank; 03_garnet_array.md R62; codes 0, not loaded -/
  set1 : Bank
  /-- which set is active (BANK); 1 bit; 03_garnet_array.md R68, Table 3.8; 0 -/
  active1 : Bool
  /-- execute path HALTED; 1 bit; 03_garnet_array.md R83; 0 -/
  halted : Bool
  /-- accumulator bank, entry t x 128 + c; 8,192 entries; 03_garnet_array.md R74; DESIGN CHOICE empty (log 3) -/
  acc : SMap Acc
  /-- EXP byte and NONFINITE (bit 8) held per token position; 64 x 9 bits; 03_garnet_array.md R74; DESIGN CHOICE 0 (log 3) -/
  tok : SMap Nat
  /-- the open group; Option; 03_garnet_array.md R75, R86; none -/
  group : Option Group
  /-- results waiting to be written; list; 03_garnet_array.md R78; empty -/
  outs : List RunOut
  deriving DecidableEq, Repr

/-- One append of K or V rows between a tile and Topaz (R257 to R261). -/
structure Append where
  /-- number of the append; model's number; 10_attention_kv.md R259; none -/
  id : Nat
  /-- serial number of the command it belongs to; model's number; 10_attention_kv.md R257; none -/
  cmd : Nat
  /-- the unit queue that holds the command; 2 values; 10_attention_kv.md R257; none -/
  unit : TUnit
  /-- SEQ; 20 bits; 10_attention_kv.md R260; none -/
  seq : Nat
  /-- LAYER; 8 bits; 10_attention_kv.md R260; none -/
  layer : Nat
  /-- KVHEAD; 4 bits; 10_attention_kv.md R260; none -/
  kvhead : Nat
  /-- PART, bit 0 K and bit 1 V; 2 bits; 10_attention_kv.md R256; none -/
  part : Nat
  /-- positions to append; 1-256; 10_attention_kv.md R260; none -/
  ntok : Nat
  /-- the rows are INT8 codes already (KV_APPEND); 1 bit; 10_attention_kv.md R258; none -/
  coded : Bool
  /-- K rows: 128 values of 8 bits (codes) or 32 bits (FP32), with the 2-bit tags of their words; list; 10_attention_kv.md R257; none -/
  krows : List (List Nat × List Nat)
  /-- V rows in the same form; list; 10_attention_kv.md R257; none -/
  vrows : List (List Nat × List Nat)
  /-- class of the command; 3 bits; 12_regulation.md R300; none -/
  cls : Nat
  /-- deadline of the command; 16 bits or none; 12_regulation.md R305; none -/
  deadline : Option Nat
  /-- rows resolved, as (row address, page-entry address, part 0 K or 1 V, row); list or none; 10_attention_kv.md R260; none -/
  res : Option (List (Nat × Nat × Nat × Nat))
  /-- cause of a failed resolution, 0 none; 4 bits; 10_attention_kv.md R260; none -/
  cause : Nat
  /-- write bursts and messages without response; list; 10_attention_kv.md R261; none -/
  pend : List Pend
  /-- a write failed; 1 bit; 10_attention_kv.md R261; none -/
  bad : Bool
  deriving DecidableEq, Repr

/-- A Jasper program of one tile at its region's bank-edge unit (R221 to R233). -/
structure JProg where
  /-- serial number of the JASPER_START; model's number; 09_jasper.md R222; no program -/
  serial : Nat
  /-- program header; 256 bits; 09_jasper.md Table 9.2; no program -/
  hdr : Nat
  /-- steps; 128 bits each; 09_jasper.md Table 9.3; no program -/
  steps : List Nat
  /-- argument block; 512 bits; 09_jasper.md Table 9.4; no program -/
  args : Nat
  /-- the lock has been taken; 1 bit; 09_jasper.md R228; no program -/
  locked : Bool
  /-- device time at which the lock was taken; ns; 09_jasper.md R233; no program -/
  lockAt : Nat
  /-- numbers of the steps that have ended; list; 09_jasper.md R223; no program -/
  ended : List Nat
  /-- the program is being stopped; 1 bit; 09_jasper.md R233; no program -/
  stopping : Bool
  /-- block registers, channel x 128 + column; 8 x 128 x 48 bits; 09_jasper.md R220; 0 at start of a program -/
  blk : SMap Int
  /-- accumulation group, element = column; 128 entries; 09_jasper.md R220; no program -/
  acc : SMap Acc
  deriving DecidableEq, Repr

/-- A cycle the deadlock detector has timestamped (R115). -/
structure DlMark where
  /-- set of streams; 16 bits; 04_tile_commands.md R115; none -/
  mask : Nat
  /-- issue ACLK count at the first evaluation that found it; count; 04_tile_commands.md R115; none -/
  since : Nat
  deriving DecidableEq, Repr

/-- A class H fault on its way from Collie to the region controller (R116). -/
structure FaultRep where
  /-- fault code; 8 bits; 04_tile_commands.md R116; none -/
  code : Nat
  /-- TILE_FAULT_INFO of the fault; 64 bits; 04_tile_commands.md R116; none -/
  info : Nat
  deriving DecidableEq, Repr

/-- A token timeout that fell due in an ACLK and is not raised yet (R113). -/
structure WdDue where
  /-- stream; 4 bits; 04_tile_commands.md R113; none -/
  stream : Nat
  /-- ring index of its head; 20 bits; 04_tile_commands.md R116; none -/
  idx : Nat
  /-- TAG of its head; 12 bits; 04_tile_commands.md R116; none -/
  tag : Nat
  /-- slot that it was blocked on; 6 bits; 04_tile_commands.md R113; none -/
  slot : Nat
  deriving DecidableEq, Repr

/-- Everything a tile holds that no register shows. -/
structure Tile where
  /-- fetch buffers, loop and watchdog state of the streams; 16 streams; 04_tile_commands.md R94 to R113; reset streams -/
  streams : SMap Stream
  /-- stream last granted at each PRIO level; 4 x 4 bits; 04_tile_commands.md R98; DESIGN CHOICE 15 (log 4) -/
  lastGrant : SMap Nat
  /-- tile-local ACLK count; count; 04_tile_commands.md R114, 14_determinism.md R353; 0 -/
  aclk : Nat
  /-- issue ACLK so far; count; 04_tile_commands.md R115, 16_thermal_power.md R392; 0 -/
  issue : Nat
  /-- Garnet weight port queue; depth 2; 04_tile_commands.md R99; empty -/
  qLoad : List Cmd
  /-- Garnet execute path queue; depth 4; 04_tile_commands.md R99; empty -/
  qExec : List Cmd
  /-- Beryl queue; depth 4; 04_tile_commands.md R99; empty -/
  qBeryl : List Cmd
  /-- DMA engine queue; depth 16; 04_tile_commands.md R99; empty -/
  qDma : List Cmd
  /-- bank-edge queue entry; depth 1; 04_tile_commands.md R99; empty -/
  qJasper : List Cmd
  /-- next command serial number; model's number; 04_tile_commands.md R97; 0 -/
  serial : Nat
  /-- the matrix array; Garnet; 03_garnet_array.md R62 to R75; reset array -/
  garnet : Garnet
  /-- append queue of the DMA engine; list; 10_attention_kv.md R259; empty -/
  appends : List Append
  /-- Jasper program; Option; 09_jasper.md R221; none -/
  jprog : Option JProg
  /-- activation latches of the vault's channels, channel x 128 + k; 8 x 128 bytes; 09_jasper.md R217; DESIGN CHOICE 0 (log 3) -/
  actLatch : SMap Nat
  /-- exponent latches, channel x 2,048 + i; 8 x 2 KiB; 09_jasper.md R217; DESIGN CHOICE 0 (log 3) -/
  expLatch : SMap Nat
  /-- token timeouts that fell due and are not raised yet; list; 04_tile_commands.md R113; empty -/
  wdDue : List WdDue
  /-- timestamped cycles of the deadlock detector; list; 04_tile_commands.md R115; empty -/
  dl : List DlMark
  /-- class H reports not yet taken by the region controller; list; 04_tile_commands.md R116; empty -/
  reports : List FaultRep
  /-- remote requests that wait at their source under a throttle; list in arrival order; 12_regulation.md R308; empty -/
  waiting : List Msg
  /-- thermal duty; 0-64; 16_thermal_power.md R390; 64 -/
  dutyThermal : Nat
  /-- model duty; 0-64; 16_thermal_power.md R394; 64 -/
  dutyModel : Nat
  /-- cap duty; 0-64; 16_thermal_power.md R396; 64 -/
  dutyCap : Nat
  /-- ramp duty; 0-64; 16_thermal_power.md R397; 64 -/
  dutyRamp : Nat
  /-- device time since which no throttle condition has held; ns or none; 16_thermal_power.md R390; none -/
  coolSince : Option Nat
  /-- plane cycles since the last power estimate; count; 16_thermal_power.md R395; 0 -/
  actPlanes : Nat
  /-- Beryl element groups since the last power estimate; count; 16_thermal_power.md R395; 0 -/
  actGroups : Nat
  /-- vault bursts since the last power estimate; count; 16_thermal_power.md R395; 0 -/
  actBursts : Nat
  /-- Jasper steps since the last power estimate; count; 16_thermal_power.md R395; 0 -/
  actSteps : Nat
  /-- power estimates in RUN, newest first, for the 10 ms mean; at most 100 values in mW; 16_thermal_power.md R398; empty -/
  runPower : List Nat
  /-- warm-idle filler power; mW; 16_thermal_power.md R398; 0 -/
  filler : Nat
  /-- mean power of the last 10 ms in RUN, from which the filler decays, 0 for the filler of MEMTEST; mW; 16_thermal_power.md R398, 17_bringup.md R430; 0 -/
  fillMean : Nat
  /-- last power estimate from its activity; mW; 16_thermal_power.md R395; 0 -/
  estMw : Nat
  /-- ACLK in which the stop in progress or done began; count or none; 04_tile_commands.md R118; none -/
  stopAclk : Option Nat
  /-- beats asked of the E port of Spinel and not yet granted, in the order of asking; list; 06_spinel_dma.md R146; empty -/
  ePorts : List PortReq
  /-- beats asked of the D port; list; 06_spinel_dma.md R147; empty -/
  dPorts : List PortReq
  /-- banks of the D beat deferred in the last ACLK; 32-bit mask or none; 06_spinel_dma.md R148; none -/
  dDefer : Option Nat
  /-- rows delivered or written back with tag X in this period, channel x 2^18 + window; list; 08_ecc_repair.md R209; empty -/
  xRows : List Nat
  /-- device time at which the count of those rows last restarted; ns; 08_ecc_repair.md R209; 0 -/
  xFrom : Nat
  /-- external slots being filled, slot to the number of the command whose messages fill it; numbers; 04_tile_commands.md R110; empty -/
  fills : SMap Nat
  /-- writes from outside into no slot that have begun and not ended, by their command; list; 06_spinel_dma.md R160; empty -/
  begun : List Nat
  /-- multicast commands declared failed here whose later messages are discarded; numbers; 11_fabric.md R286; empty -/
  pruned : List Nat
  /-- device time from which the stall timer of its local port runs; ns or none; 11_fabric.md R286; none -/
  mcSince : Option Nat
  deriving DecidableEq, Repr

/-! ### Vault channel -/

/-- Who asked for a vault burst and takes its answer; a descriptor fetch with the GEN under which its address was translated.
[07_vaults.md R175; 10_attention_kv.md R246] -/
inductive Req where
  | dma (serial : Nat) | append (id : Nat) | remote (m : Msg) | fetch (stream gen : Nat) | page | move | none
  deriving DecidableEq, Repr

/-- One burst at a channel (R151). -/
structure Burst where
  /-- number of the burst; model's number; 07_vaults.md R170; none -/
  id : Nat
  /-- direction, 1 write; 1 bit; 06_spinel_dma.md R151; none -/
  write : Bool
  /-- share: 0 local read, 1 local write, 2 remote; 2 bits; 07_vaults.md R175; none -/
  share : Nat
  /-- class label; 3 bits; 12_regulation.md R300; none -/
  cls : Nat
  /-- window within the channel; 18 bits; 07_vaults.md R166; none -/
  win : Nat
  /-- sectors requested; 64 bits; 06_spinel_dma.md R151; none -/
  mask : Nat
  /-- sectors to write; list; 06_spinel_dma.md R151; none -/
  secs : List Sector
  /-- requester; dma, append, remote, fetch, page, move or none; 07_vaults.md R175; none -/
  req : Req
  /-- deadline in 64 ns units; 16 bits or none; 12_regulation.md R305; none -/
  deadline : Option Nat
  /-- marked LATE; 1 bit; 12_regulation.md R306; none -/
  late : Bool
  /-- attempts made; 3 bits; 07_vaults.md R180; none -/
  tries : Nat
  /-- VCLK from which it may issue again after a failed attempt; count; 07_vaults.md R180; none -/
  notBefore : Nat
  /-- VCLK at which the latest attempt was issued; count; 07_vaults.md R168; none -/
  issued : Nat
  /-- served while LATE and counted; 1 bit; 12_regulation.md R306; none -/
  counted : Bool
  /-- XOR-merge write of a rebuild sequencer; 1 bit; 15_fault_tolerance.md R369; none -/
  merge : Bool
  deriving DecidableEq, Repr

/-- A row under recovery by the page code (R193). -/
structure Recovery where
  /-- the failed burst; Burst; 08_ecc_repair.md R193; none -/
  burst : Burst
  /-- the requested sectors have been delivered already; 1 bit; 08_ecc_repair.md R193; none -/
  delivered : Bool
  /-- the page-code fetch has ended; 1 bit; 08_ecc_repair.md R193; none -/
  fetched : Bool
  /-- the page-code fetch was lost on the interface; 1 bit; 07_vaults.md R181; none -/
  lost : Bool
  deriving DecidableEq, Repr

/-- A failing row that waits for its move to a spare (R201). -/
structure RemapJob where
  /-- window of the row; 18 bits; 08_ecc_repair.md R201; none -/
  win : Nat
  /-- sectors to be written with tag X; 64 bits; 08_ecc_repair.md R193, R201; none -/
  xmask : Nat
  /-- its write to the spare has been made; 1 bit; 08_ecc_repair.md R201; none -/
  written : Bool
  /-- attempts made of that write; 3 bits; 07_vaults.md R180; none -/
  tries : Nat
  /-- VCLK from which it may be issued again after a failed attempt; count; 07_vaults.md R180; none -/
  notBefore : Nat
  deriving DecidableEq, Repr

/-- Everything a vault channel holds that no register shows. -/
structure Chan where
  /-- VCLK of channel time passed; count; 07_vaults.md R172, R176; 0 -/
  now : Nat
  /-- slot of the frame at the next boundary; count; 07_vaults.md R176; 0 -/
  slot : Nat
  /-- SPLIT_RD, SPLIT_WR, SPLIT_RM latched at the frame boundary; 3 x 4 bits; 07_vaults.md R178; 5, 2, 1 -/
  split : Nat × Nat × Nat
  /-- bursts received and not issued, in arrival order; list; 07_vaults.md R170; empty -/
  queue : List Burst
  /-- bursts issued whose outcome is not known, in issue order; list; 07_vaults.md R180; empty -/
  flight : List Burst
  /-- VCLK of the last activate of each bank; 16 counts; 07_vaults.md R169; none -/
  lastAct : SMap Nat
  /-- class last chosen in credit, by share; 3 x 3 bits; 12_regulation.md R304; DESIGN CHOICE 7 (log 4) -/
  rrIn : SMap Nat
  /-- class last chosen out of credit, by share; 3 x 3 bits; 12_regulation.md R304; DESIGN CHOICE 7 (log 4) -/
  rrOut : SMap Nat
  /-- credit counters CR, share x 8 + class, in 1/7 byte; 24 counters; 12_regulation.md R303; DESIGN CHOICE 0 (log 4) -/
  cr : SMap Nat
  /-- MIN_eff, share x 8 + class, in 1/64 of 0.1 GB/s; 24 values; 12_regulation.md R303, R311; 0 -/
  minEff : SMap Nat
  /-- VCLK at which the last refresh fell due; count; 07_vaults.md R172; 0 -/
  refLast : Nat
  /-- VCLK at which the next refresh falls due; count; 07_vaults.md R172, R174; 2,730 -/
  refDue : Nat
  /-- next B2 interval is 683; 1 bit; 07_vaults.md R172; 0 -/
  refOdd : Bool
  /-- next row to refresh in each bank; 14 bits; 07_vaults.md R172; 0 -/
  refRow : Nat
  /-- recoveries in progress, the one in the recovery buffer first; list; 08_ecc_repair.md R193; empty -/
  recov : List Recovery
  /-- rows waiting for their move to a spare; list; 08_ecc_repair.md R201; empty -/
  remapQ : List RemapJob
  /-- remap table, window to spare; at most 64 per bank; 08_ecc_repair.md R201, R203; empty -/
  remap : SMap Nat
  /-- spares in use or retired, per bank; 16 x 64 bits; 08_ecc_repair.md R201, R203; 0 -/
  spareUsed : SMap Nat
  /-- spare word columns in use, per bank; 16 x 4 bits; 08_ecc_repair.md R203; 0 -/
  colUsed : SMap Nat
  /-- word column that each spare column in use replaces, bank x 4 + spare; 64 x 9 bits; 08_ecc_repair.md R203, Table 8.6; empty -/
  colMap : SMap Nat
  /-- spare connections: entry to connection + 2,048 x SOURCE; 32 entries; 07_vaults.md Table 7.12; empty -/
  conns : SMap Nat
  /-- windows corrected in the last scrub pass with their consecutive passes, oldest first; 64 entries; 08_ecc_repair.md R200; empty -/
  ceLast : List (Nat × Nat)
  /-- windows corrected so far in the present pass with their consecutive passes; 64 entries; 08_ecc_repair.md R200; empty -/
  ceNow : List (Nat × Nat)
  /-- next window to scrub; 18 bits; 08_ecc_repair.md R198; 0 -/
  scrubWin : Nat
  /-- device time of the last scrub, or of the last interval passed without one; ns; 08_ecc_repair.md R198; 0 -/
  scrubAt : Nat
  /-- windows already found with tag X; list; 08_ecc_repair.md R210; empty -/
  ueWins : List Nat
  /-- the channel is closed for self-refresh entry; 1 bit; 07_vaults.md R185; 0 -/
  closing : Bool
  /-- parity failures that await the next read the channel serves whole; count; 07_vaults.md R180, R181; DESIGN CHOICE 0 (log 70) -/
  armFail : Nat
  /-- VCLK at which the Jasper step of each bank ends; 16 counts; 09_jasper.md R216; none -/
  jEnd : SMap Nat
  /-- POP results in the burst slot being filled, 0 to 7; 3 bits; 09_jasper.md R235; DESIGN CHOICE 0 (log 71) -/
  popSlot : Nat
  /-- the next scrub read has met a lock and is counted as held; 1 bit; 09_jasper.md R238; 0 -/
  scrubHeld : Bool
  deriving DecidableEq, Repr

/-! ### Links -/

/-- A sequenced flit kept in a replay buffer. -/
structure SentFlit where
  /-- SEQ; 12 bits; 11_fabric.md R279; none -/
  seq : Nat
  /-- the flit without its link fields; 512 bits; 11_fabric.md R272; none -/
  bits : Nat
  /-- message it belongs to; model's number; 11_fabric.md R271; none -/
  msg : Nat
  /-- last flit of the message; 1 bit; 11_fabric.md Table 11.2; none -/
  eom : Bool
  /-- VC; 2 bits; 11_fabric.md Table 11.2; none -/
  vc : Nat
  deriving DecidableEq, Repr

/-- One direction of a link: its sender and its receiver. -/
structure Link where
  /-- next SEQ to give; 12 bits; 11_fabric.md R279; 0 -/
  nextSeq : Nat
  /-- replay buffer, oldest first; 2,048 or 64 flits; 11_fabric.md R279; empty -/
  replay : List SentFlit
  /-- flits of the replay buffer already sent since the last replay began; count; 11_fabric.md R280; 0 -/
  cursor : Nat
  /-- device time at which ACK_SEQ last advanced, or the first outstanding flit was sent; ns; 11_fabric.md R280; 0 -/
  ackAt : Nat
  /-- a NAK has arrived and its replay has not begun; 1 bit; 11_fabric.md R280; 0 -/
  nakSeen : Bool
  /-- consecutive replays without ACK_SEQ advancing; count; 11_fabric.md R281; 0 -/
  replays : Nat
  /-- an Onyx link retrains; 1 bit; 11_fabric.md R281; 0 -/
  retrain : Bool
  /-- credit left, per VC; 4 counts; 11_fabric.md R276; 0 -/
  credit : SMap Nat
  /-- last credit count received, per VC; 4 x 12 bits; 11_fabric.md R276; 0 -/
  lastCount : SMap Nat
  /-- message being sent on each VC with its flits sent; 4 entries; 11_fabric.md R271; none -/
  cur : SMap (Nat × Nat)
  /-- the last message taken from request and multicast was multicast; 1 bit; 11_fabric.md R278; DESIGN CHOICE 0 (log 4) -/
  lastMc : Bool
  /-- class last chosen in credit, by VC; 3 bits each; 12_regulation.md R304; DESIGN CHOICE 7 (log 4) -/
  rrIn : SMap Nat
  /-- class last chosen out of credit, by VC; 3 bits each; 12_regulation.md R304; DESIGN CHOICE 7 (log 4) -/
  rrOut : SMap Nat
  /-- credit counters CR per class, in 1/20 byte; 8 counters; 12_regulation.md R303; DESIGN CHOICE 0 (log 4) -/
  cr : SMap Nat
  /-- MIN_eff per class, in 1/64 of 0.1 GB/s; 8 values; 12_regulation.md R303, R311; 0 -/
  minEff : SMap Nat
  /-- flit slots of the present span of 256 FCLK used by CAR messages; count; 11_fabric.md R288; 0 -/
  carUsed : Nat
  /-- flit slots of the present span of 256 FCLK; count; 11_fabric.md R288; 0 -/
  span : Nat
  /-- next SEQ expected by the receiver; 12 bits; 11_fabric.md R279; 0 -/
  expect : Nat
  /-- a flit has been accepted since initialisation; 1 bit; 11_fabric.md R279; 0 -/
  accepted : Bool
  /-- a NAK is due to be sent; 1 bit; 11_fabric.md R279; 0 -/
  nakDue : Bool
  /-- a NAK was raised since the last accepted flit; 1 bit; 11_fabric.md R279; 0 -/
  nakSent : Bool
  /-- flits in the input buffer, per VC; 4 counts; 11_fabric.md Table 11.5; 0 -/
  used : SMap Nat
  /-- flits that have left the input buffer, per VC; 4 counts; 11_fabric.md R276; 0 -/
  left : SMap Nat
  /-- VC whose credit count is sent next; 2 bits; 11_fabric.md R276; 0 -/
  turn : Nat
  /-- flits of the message being received from the customer die, per VC; lists; 11_fabric.md R271; empty -/
  partial_ : SMap (List Nat)
  /-- an Onyx link that is DOWN (the state of links 0 to 8 is in FAB_LINK_STATUS); 1 bit; 11_fabric.md R281; 0 -/
  down : Bool
  deriving DecidableEq, Repr

/-! ### Regions, Agate and Topaz -/

/-- An entry of a region's translation cache (R241). -/
structure CacheEnt where
  /-- index VA[39:21]; 19 bits; 10_attention_kv.md R239; none -/
  idx : Nat
  /-- the entry as Agate supplied it; 64 bits; 10_attention_kv.md Table 10.1; none -/
  ent : Nat
  /-- GEN under which it was supplied; 32 bits; 10_attention_kv.md R241; none -/
  gen : Nat
  deriving DecidableEq, Repr

/-- Everything a region controller holds that no register shows. -/
structure Region where
  /-- translation cache, newest first; at most 4,096 entries; 10_attention_kv.md R241; empty -/
  cache : List CacheEnt
  /-- GEN last broadcast to the region; 32 bits; 10_attention_kv.md R241; 0 -/
  gen : Nat
  /-- latest OVER summary of each region, with the device time of its arrival; 16 x 18 masks of 8 bits; 12_regulation.md R307, R308; none -/
  ovf : SMap (Nat × List Nat)
  /-- remote bursts admitted in this 64 VCLK, tile x 8 + class; counts; 12_regulation.md R308; empty -/
  admits : SMap Nat
  /-- start count S received and not yet taken, with the ACLK count of its arrival; 64 bits or none; 14_determinism.md R353, R354; none -/
  startS : Option (Nat × Nat)
  /-- device time since which readings are at or below 82 °C; ns or none; 07_vaults.md R171; none -/
  hold1 : Option Nat
  /-- device time since which readings are at or below 92 °C; ns or none; 07_vaults.md R171; none -/
  hold2 : Option Nat
  /-- the upward edge of B1 has been reached and its hold not completed since; 1 bit; 07_vaults.md R171; 0 -/
  in1 : Bool
  /-- the upward edge of B2 has been reached and its hold not completed since; 1 bit; 07_vaults.md R171; 0 -/
  in2 : Bool
  /-- resources in deficit by kind (RD, WR, RM, ONYX); 4 bits; 12_regulation.md R311; 0 -/
  deficit : Nat
  /-- the accounting boundary since the last change has recomputed the scaling; 1 bit; 12_regulation.md R311; 0 -/
  deficitPosted : Bool
  deriving DecidableEq, Repr

/-- The hub's regulator (12_regulation.md R308). -/
structure HubQos where
  /-- latest summary of each region: its arrival and 18 masks; 16 x (ns, 144 bits); 12_regulation.md R308; empty -/
  ovf : SMap (Nat × List Nat)
  /-- bursts admitted in this 64 VCLK, by tile and class; counts; 12_regulation.md R308; empty -/
  admits : SMap Nat
  deriving DecidableEq, Repr

/-- A write to Agate that the host link holds by flow control: a live update with its index, or the value written to AGATE_GEN.
[10_attention_kv.md R242, R247] -/
inductive HostWrite where
  | upd (i e : Nat) | gen (v : Nat)
  deriving DecidableEq, Repr

/-- Agate beyond its registers. -/
structure Agate where
  /-- physical bank 0: entry with its check byte above it; 524,288 x 72 bits; 10_attention_kv.md R241; DESIGN CHOICE 0 (log 3) -/
  bank0 : SMap Nat
  /-- physical bank 1: entry with its check byte above it; 524,288 x 72 bits; 10_attention_kv.md R241; DESIGN CHOICE 0 (log 3) -/
  bank1 : SMap Nat
  /-- REBUILT marks of the shadow bank; indices; 10_attention_kv.md R243; empty -/
  rebuilt : List Nat
  /-- delta log, oldest first; 4,096 records; 10_attention_kv.md R245; empty -/
  log : List (Nat × Nat)
  /-- writes held on the host link, oldest first; list; 10_attention_kv.md R242, R246, R247; empty -/
  held : List HostWrite
  /-- regions that have not acknowledged the last invalidation; 16 bits; 10_attention_kv.md R242; 0 -/
  updWait : Nat
  /-- regions that have not acknowledged the last GEN; 16 bits; 10_attention_kv.md R246; 0 -/
  genWait : Nat
  /-- FROM and TO of the sweep that runs; 9 + 9 bits or none; 10_attention_kv.md R244; none -/
  sweep : Option (Nat × Nat)
  deriving DecidableEq, Repr

/-- A Topaz command that waits for appends in flight (R253). -/
structure TopazCmd where
  /-- OP: CLOSE or TRUNCATE; 4 bits; 10_attention_kv.md R253; none -/
  op : Nat
  /-- SEQ; 20 bits; 10_attention_kv.md Table 10.11; none -/
  seq : Nat
  /-- LAYER; 8 bits; 10_attention_kv.md Table 10.11; none -/
  layer : Nat
  /-- KVHEAD; 4 bits; 10_attention_kv.md Table 10.11; none -/
  kvhead : Nat
  /-- LEN; 21 bits; 10_attention_kv.md Table 10.11; none -/
  len : Nat
  deriving DecidableEq, Repr

/-- Topaz beyond its registers. -/
structure Topaz where
  /-- cached descriptors, newest first; 32,768 x 512 bits; 10_attention_kv.md R251; empty -/
  cache : List (Nat × Nat)
  /-- command accepted that waits for appends; Option; 10_attention_kv.md R253; none -/
  cmd : Option TopazCmd
  /-- appends resolved and not completed, as (SEQ, LAYER, KVHEAD, PART, tile, append); list; 10_attention_kv.md R259; empty -/
  flight : List (Nat × Nat × Nat × Nat × Nat × Nat)
  /-- logical tiles whose KV_POOL_LOW is posted and armed again only above the mark; list; 10_attention_kv.md R255; empty -/
  low : List Nat
  deriving DecidableEq, Repr

/-! ### Host interface -/

/-- One event (Table 18.11). -/
structure Event where
  /-- CODE; 16 bits; 18_host_firmware.md Table 18.11; none -/
  code : Nat
  /-- SEQ; 32 bits; 18_host_firmware.md Table 18.11; none -/
  seq : Nat
  /-- TIME; 64 bits; 18_host_firmware.md Table 18.11; none -/
  time : Nat
  /-- PAYLOAD; 128 bits; 18_host_firmware.md R451; none -/
  payload : Nat
  deriving DecidableEq, Repr

/-- What waits for the host link (R436): a completion of a ring, an event, or an interrupt. -/
inductive Post where
  | cqe (ring : Nat) (entry : Nat) (now : Bool) | evt (e : Event) | irq (vector : Nat)
  deriving DecidableEq, Repr

/-- A host command in progress (R448). -/
structure HostCmd where
  /-- command ring; 6 bits; 18_host_firmware.md R442; none -/
  ring : Nat
  /-- CID; 16 bits; 18_host_firmware.md Table 18.4; none -/
  cid : Nat
  /-- OPCODE; 8 bits; 18_host_firmware.md Table 18.5; none -/
  op : Nat
  /-- the entry; 512 bits; 18_host_firmware.md Table 18.4; none -/
  entry : Nat
  /-- the state word is STARTED (else QUEUED); 1 bit; 18_host_firmware.md R448; none -/
  started : Bool
  /-- device time at which the first plan tile entered RUN; 64 bits or none; 18_host_firmware.md Table 18.10; none -/
  tStart : Option Nat
  /-- device time at which the last plan tile stopped; 64 bits; 18_host_firmware.md Table 18.10; none -/
  tEnd : Nat
  /-- first faulted plan tile, logical, with its fault code; 9 + 8 bits or none; 18_host_firmware.md R446; none -/
  firstFault : Option (Nat × Nat)
  deriving DecidableEq, Repr

/-- The HOST_COPY that an access to the customer window belongs to. -/
structure CopyRef where
  /-- its ring; 6 bits; 18_host_firmware.md R442; none -/
  ring : Nat
  /-- its CID; 16 bits; 18_host_firmware.md Table 18.4; none -/
  cid : Nat
  /-- its HPA; 64 bits; 18_host_firmware.md Table 18.5; none -/
  hpa : Nat
  /-- cause of a host bus error met before the bytes ran out, 0 for none; 8 bits; 18_host_firmware.md Table 18.7; none -/
  bus : Nat
  deriving DecidableEq, Repr

/-- A host access to the customer window that has not ended (R295, R435). -/
structure Bar2Acc where
  /-- bytes of the access; count; 18_host_firmware.md R435; none -/
  n : Nat
  /-- it is a write; 1 bit; 18_host_firmware.md R435; none -/
  write : Bool
  /-- bytes still to write; bytes; 18_host_firmware.md R435; none -/
  data : List Byte
  /-- pieces of one window each that are not done, as (address, length); list; 18_host_firmware.md R435; none -/
  pieces : List (Nat × Nat)
  /-- its request at endpoint 16 that has no response: number, and whether it is a write; model's number; 11_fabric.md R295; none -/
  wait : Option (Nat × Bool)
  /-- bytes read so far; bytes; 18_host_firmware.md R435; none -/
  bytes : List Byte
  /-- a tagged sector was read; 1 bit; 08_ecc_repair.md Table 8.4; none -/
  ep : Bool
  /-- device virtual address of its first byte; 48 bits; 18_host_firmware.md R435; none -/
  va : Nat
  /-- for each byte read so far, whether its sector is tagged; bits; 08_ecc_repair.md Table 8.4; none -/
  marks : List Bool
  /-- the HOST_COPY it belongs to, none for a BAR2 access; ring, CID, HPA; 18_host_firmware.md R442; none -/
  copy : Option CopyRef
  /-- the burst of its next piece has met a lock and is counted as held; 1 bit; 09_jasper.md R228, Table 9.10; none -/
  held : Bool
  deriving DecidableEq, Repr

/-- An error that the endpoint reports through AER (Table 8.4, R435). -/
inductive AerErr where
  /-- a completion was sent with EP set -/
  | poisonedSent
  /-- a poisoned TLP was received -/
  | poisonedReceived
  /-- a request was completed with Completer Abort -/
  | completerAbort
  deriving DecidableEq, Repr

/-- The configuration space of the PCI Express function, as far as the host writes it (R433, R434). -/
structure PciCfg where
  /-- Memory Space Enable: the BARs are decoded; 1 bit; 18_host_firmware.md R434; 0 -/
  memEnable : Bool
  /-- power state D3hot, else D0; 1 bit; 18_host_firmware.md Table 18.1; 0 -/
  d3hot : Bool
  /-- MSI-X Enable; 1 bit; 18_host_firmware.md Table 18.1; 0 -/
  msixEnable : Bool
  /-- MSI-X Function Mask; 1 bit; 18_host_firmware.md Table 18.1; 0 -/
  funcMask : Bool
  /-- ASPM L1 enabled; 1 bit; 18_host_firmware.md Table 18.1; 0 -/
  aspmL1 : Bool
  /-- addresses of BAR0/1, BAR2/3 and BAR4/5; 3 x 64 bits; 18_host_firmware.md Table 18.2; DESIGN CHOICE 0 (log 61) -/
  bars : Nat × Nat × Nat
  /-- Max_Payload_Size in force, 128 x 2^k bytes; k below 3; 18_host_firmware.md Table 18.1; PRESUMED 0 (the family's, log 61) -/
  maxPayload : Fin 3
  /-- Max_Read_Request_Size in bytes; 128-4096; 18_host_firmware.md Table 18.1; PRESUMED 512 (the family's, log 61) -/
  maxReadReq : Nat
  deriving DecidableEq, Repr

/-- The host interface beyond its registers. -/
structure HostIf where
  /-- next event SEQ; 32 bits; 18_host_firmware.md R449; 0 -/
  evtSeq : Nat
  /-- events were dropped since the last posted entry; 1 bit; 18_host_firmware.md R449; 0 -/
  evtLost : Bool
  /-- events held while the event ring is disabled; 256 entries; 18_host_firmware.md R449; empty -/
  evtBuf : List Event
  /-- posted completions, events and interrupts that wait for the link; list; 18_host_firmware.md R436; empty -/
  waiting : List Post
  /-- unsignalled entries per CQ, 64 for the event ring; 65 counts; 18_host_firmware.md R440; 0 -/
  unsig : SMap Nat
  /-- device time at which the oldest unsignalled entry was posted, per CQ; 65 times; 18_host_firmware.md R440; none -/
  oldest : SMap Nat
  /-- host commands in progress; at most 8 per ring; 18_host_firmware.md R442, R448; empty -/
  cmds : List HostCmd
  /-- final STATUS of ended commands, newest first, as (ring, CID, status); list; 18_host_firmware.md R448; empty -/
  finals : List (Nat × Nat × Nat)
  /-- ring served last; 6 bits; 18_host_firmware.md R442; DESIGN CHOICE 63 (log 4) -/
  lastRing : Nat
  /-- rings whose ENABLE = 0 write waits for commands in progress; list; 18_host_firmware.md R438; empty -/
  stopping : List Nat
  /-- the host link is up; 1 bit; 17_bringup.md R415, 18_host_firmware.md R436; 0 -/
  linkUp : Bool
  /-- Bus Master Enable is set; 1 bit; 17_bringup.md R415, 18_host_firmware.md R436; 0 -/
  bme : Bool
  /-- configuration space; PciCfg; 18_host_firmware.md R433, R434; PciCfg.reset -/
  pci : PciCfg
  /-- MSI-X messages sent, newest last, as (address, data); list; 18_host_firmware.md R440; empty -/
  msix : List (Nat × Nat)
  /-- data the device wrote to host memory, newest last, as (bus address, bytes); list; 18_host_firmware.md R442; empty -/
  out : List (Nat × List Byte)
  /-- high halves latched by 32-bit counter reads, requester x 2^26 + offset; 32 bits each; 18_host_firmware.md R456; none -/
  latch : SMap Nat
  /-- tile list of the loaded plan: logical tiles; list; 18_host_firmware.md R445; empty -/
  plan : List Nat
  /-- register records of the loaded plan, as (logical tile, offset, value); list; 18_host_firmware.md R446; empty -/
  planRegs : List (Nat × Nat × Nat)
  /-- feature word of the loaded plan; 64 bits; 14_determinism.md R349, Table 14.3; 0 -/
  planFeat : Nat
  /-- completions answered to BAR2 reads, newest last: bytes, EP flag, abort flag; list; 18_host_firmware.md R435; empty -/
  bar2Out : List (List Byte × Bool × Bool)
  /-- errors reported through AER, newest last; list; 08_ecc_repair.md Table 8.4, 18_host_firmware.md R435, Table 18.1; empty -/
  aer : List AerErr
  /-- host accesses to the customer window, in the order received; list; 18_host_firmware.md R435; empty -/
  bar2 : List Bar2Acc
  deriving DecidableEq, Repr

/-! ### Kelpie -/

/-- What a port sends: a WCT packet, a RoCE v2 packet, a pause frame (priority, quanta) or a PTP event message
with the timestamp recorded for it and, over UDP on IPv6, its UDP checksum; and a frame that goes to the control compartment.
[13_network.md R315, R318, R340] -/
inductive NetOut where
  | wct (p : WctPkt) | roce (p : RocePkt) | pause (port pri quanta : Nat)
  | ptp (port seqId ts corr : Nat) (csum : Option Nat) | ctrl (net : NetHdr)
  deriving DecidableEq, Repr

/-- A packet the sender holds until it is acknowledged (R324). -/
structure TxPkt where
  /-- PSN; 32 bits; 13_network.md Table 13.3; none -/
  psn : Nat
  /-- MSN of its message; 32 bits; 13_network.md Table 13.3; none -/
  msn : Nat
  /-- WCT header; 256 bits; 13_network.md Table 13.3; none -/
  hdr : Nat
  /-- payload; bytes; 13_network.md R320; none -/
  payload : List Byte
  /-- device time it was last sent; ns, or none while it waits; 13_network.md R324; none -/
  sentAt : Option Nat
  /-- an ACK has shown a higher PSN received and not this one; 1 bit; 13_network.md R324; none -/
  gap : Bool
  /-- work queue of its WQE; 10 bits; 13_network.md R328; none -/
  queue : Nat
  /-- ring index of its WQE; 16 bits; 13_network.md R328; none -/
  idx : Nat
  deriving DecidableEq, Repr

/-- A message being received on a context (R322, R326). -/
structure RxMsg where
  /-- MSN; 32 bits; 13_network.md Table 13.3; none -/
  msn : Nat
  /-- PSN of its last packet once that has been received; 32 bits or none; 13_network.md R322; none -/
  lastPsn : Option Nat
  /-- receiver queue to trigger at completion; 10 bits or none; 13_network.md R329; none -/
  rtrig : Option Nat
  /-- immediate of its last packet; 32 bits; 13_network.md Table 13.3; none -/
  imm : Nat
  /-- receiving-side cause of a failure, 0 none; 4 bits; 13_network.md R326; none -/
  cause : Nat
  deriving DecidableEq, Repr

/-- One connection context beyond the 128 bytes of Table 13.4. -/
structure Ctx where
  /-- the context; 1,024 bits; 13_network.md Table 13.4; 0 -/
  bits : Nat
  /-- PSNs beyond EPSN received; within 128; 13_network.md R322; empty -/
  got : List Nat
  /-- packets accepted since the last ACK; count; 13_network.md R323; 0 -/
  unacked : Nat
  /-- device time of the first unacknowledged acceptance; ns or none; 13_network.md R323; none -/
  unackedAt : Option Nat
  /-- a CE mark was received since the previous ACK; 1 bit; 13_network.md Table 13.3; 0 -/
  ceSeen : Bool
  /-- device time of the last NAK RNR sent; ns or none; 13_network.md R325; none -/
  rnrAt : Option Nat
  /-- device time of the last CNP sent; ns or none; 13_network.md R338; none -/
  cnpAt : Option Nat
  /-- messages being received; list; 13_network.md R322, R329; empty -/
  rx : List RxMsg
  /-- packets held by the sender, in PSN order; list; 13_network.md R324; empty -/
  tx : List TxPkt
  /-- present retransmission timeout; µs; 13_network.md R324; 0 -/
  rto : Nat
  /-- device time UNA last advanced or the timer was restarted; ns; 13_network.md R324; 0 -/
  rtoAt : Nat
  /-- device time since which UNA has not advanced, for HOLD; ns; 13_network.md R325; 0 -/
  holdAt : Nat
  /-- message held by an RNR with the device time it is held until; MSN and ns, or none; 13_network.md R325; none -/
  rnrHold : Option (Nat × Nat)
  /-- device time at which its priority was paused; ns or none; 13_network.md R318; none -/
  pausedAt : Option Nat
  /-- next MSN to send; 32 bits; 13_network.md Table 13.3; 0 -/
  nextMsn : Nat
  /-- CC periods without a mark; count; 13_network.md R327; 0 -/
  quiet : Nat
  /-- an ACK with ECE arrived in this CC period; 1 bit; 13_network.md R327; 0 -/
  ece : Bool
  /-- device time at which the CC period began; ns; 13_network.md R327; 0 -/
  ccAt : Nat
  /-- a NAK PSN Sequence Error has been sent for the present gap; 1 bit; 13_network.md R337; 0 -/
  seqNak : Bool
  /-- RDMA WRITE in progress: next address, bytes left, R_Key; or none; 13_network.md R336; none -/
  roceWr : Option (Nat × Nat × Nat)
  deriving DecidableEq, Repr

/-- A WQE that has been read and started (R328). -/
structure Wqe where
  /-- work queue; 10 bits; 13_network.md R328; none -/
  queue : Nat
  /-- ring index; 16 bits; 13_network.md R328; none -/
  idx : Nat
  /-- the entry; 512 bits; 13_network.md Table 13.5; none -/
  bits : Nat
  /-- its work has ended; 1 bit; 13_network.md R328; none -/
  ended : Bool
  /-- cause, 0 OK; 4 bits; 13_network.md Table 13.6; none -/
  cause : Nat
  deriving DecidableEq, Repr

/-- A collective in progress (R331 to R335). -/
structure Coll where
  /-- COLL_ID; 16 bits; 13_network.md Table 13.7; none -/
  id : Nat
  /-- work queue of its WQE; 10 bits; 13_network.md R331; none -/
  queue : Nat
  /-- ring index of its WQE; 16 bits; 13_network.md R331; none -/
  idx : Nat
  /-- the descriptor; 512 bits; 13_network.md Table 13.7; none -/
  desc : Nat
  /-- contexts to the ranks, from CTXL; P x 16 bits; 13_network.md Table 13.7; none -/
  ctxs : List Nat
  /-- chunks received whole, as (phase, chunk, from rank); list; 13_network.md R333; empty -/
  got : List (Nat × Nat × Nat)
  /-- bytes received of each chunk, as phase x 2^20 + chunk x 2^10 + rank; counts; 13_network.md R333; empty -/
  bytes : SMap Nat
  /-- partials of the DIRECT reduction or the own chunk, by element; 128-bit records; 13_network.md R334; empty -/
  part : SMap Nat
  /-- MSNs given to the messages it sends, as phase x 2^20 + chunk x 2^10 + rank; 32 bits each; 13_network.md Table 13.3; empty -/
  msns : SMap Nat
  /-- bytes of each message it sends that have joined those to send, by the same keys; counts; 13_network.md R335; empty -/
  sentBytes : SMap Nat
  /-- messages all of whose packets have joined those to send, by the same keys; list; 13_network.md R335; empty -/
  sent : List Nat
  /-- cause of failure, 0 none; 4 bits; 13_network.md R335; none -/
  cause : Nat
  deriving DecidableEq, Repr

/-- Kelpie beyond its registers. -/
structure Kelpie where
  /-- contexts; 40,960 x 1,024 bits and their timers; 13_network.md R321; not valid -/
  ctx : SMap Ctx
  /-- WQEs started and not completed, in ring order; at most 8 per queue; 13_network.md R328; empty -/
  wqes : List Wqe
  /-- collectives in progress; list; 13_network.md R331; empty -/
  colls : List Coll
  /-- device time until which a priority is paused, port x 8 + priority; ns; 13_network.md R318; none -/
  pause : SMap Nat
  /-- occupancy of the receive buffer, half x 8 + priority; bytes of 16 MiB; 13_network.md R318; 0 -/
  rxOcc : SMap Nat
  /-- XOFF in force, half x 8 + priority; 16 bits; 13_network.md R318; 0 -/
  xoff : List Nat
  /-- modes of the ports in force are in KELPIE_PORT_STATUS; device time of the last retrain, per port; ns; 13_network.md R317; 0 -/
  retrainAt : SMap Nat
  /-- receive timestamp rings, newest first, at most 64 per port; (port, sequenceId, seconds x 2^30 + ns, fraction); 13_network.md R340; empty -/
  rxTs : List (Nat × Nat × Nat)
  /-- transmit timestamp rings, newest first, at most 256 per half; (port, sequenceId, timestamp); 13_network.md R340; empty -/
  txTs : List (Nat × Nat × Nat)
  /-- PTP clock below one nanosecond fraction unit; 2^-44 ns units under FRAC; 28 bits; 13_network.md R339; 0 -/
  ptpLow : Nat
  /-- latched KELPIE_PTP_NS; 64 bits or none; 13_network.md R339; none -/
  ptpLatch : Option Nat
  /-- queues in which a WQE has failed while others are started; list; 13_network.md R330; empty -/
  stopping : List Nat
  /-- immediate of the last received message that triggered a queue; 1,024 x 32 bits; 13_network.md Table 13.3, R330; 0 -/
  imm : SMap Nat
  /-- frames that wait for a paused priority, as (port, priority, frame), oldest first; list; 13_network.md R318; empty -/
  held : List (Nat × Nat × NetOut)
  /-- device ACLK count at the write of ARM; count; 13_network.md R341; 0 -/
  armAt : Nat
  /-- START_TIME had passed when ARM was set; 1 bit; 13_network.md R341; 0 -/
  armLate : Bool
  /-- SYNC_OUT is driven high since; ns or none; 13_network.md R341; none -/
  syncOut : Option Nat
  /-- second of device time, and frames that went to the control compartment in it; s and count; 13_network.md R315; 0, 0 -/
  ctrlRate : Nat × Nat
  /-- frames and packets sent, newest last; list; 13_network.md R320, R336, R318; empty -/
  out : List NetOut
  deriving DecidableEq, Repr

/-! ### Bloodhound and Opal -/

/-- A fence report to Bloodhound (R363). -/
structure FenceRep where
  /-- region; 4 bits; 15_fault_tolerance.md R363; none -/
  region : Nat
  /-- slot; 5 bits; 15_fault_tolerance.md R363; none -/
  slot : Nat
  /-- fault code; 8 bits; 15_fault_tolerance.md R363; none -/
  code : Nat
  /-- of a report queued again: logical tile, the standby bound to it, and the tile that Agate entries are moved from; 9 bits each or none; 16_thermal_power.md R406; none -/
  again : Option (Nat × Option Nat × Nat)
  deriving DecidableEq, Repr

/-- A recovery in progress (R370). -/
structure Recov where
  /-- the fence report it answers; FenceRep; 15_fault_tolerance.md R370; none -/
  rep : FenceRep
  /-- logical tile; 9 bits or none bound; 15_fault_tolerance.md R370; none -/
  ltile : Option Nat
  /-- physical standby once bound; 9 bits or none; 15_fault_tolerance.md R366; none -/
  standby : Option Nat
  /-- physical tile that Agate entries are moved from; 9 bits; 15_fault_tolerance.md R370, R375; none -/
  src : Nat
  /-- the swap of TRANSLATE is complete; 1 bit; 15_fault_tolerance.md R370; none -/
  swapped : Bool
  /-- next Agate index that REBUILD looks at; 19 bits; 15_fault_tolerance.md R370; none -/
  next : Nat
  /-- windows written as unrecoverable; count; 15_fault_tolerance.md R370; none -/
  lost : Nat
  /-- replay records of this recovery; count; 15_fault_tolerance.md R372; none -/
  records : Nat
  deriving DecidableEq, Repr

/-- Bloodhound beyond its registers. -/
structure Blood where
  /-- fence reports waiting, in arrival order; at most 16; 15_fault_tolerance.md R375; empty -/
  reports : List FenceRep
  /-- the recovery in progress; Option; 15_fault_tolerance.md R370; none -/
  recov : Option Recov
  /-- records due in the field defect log and not yet appended; list of 64 bits; 08_ecc_repair.md R206; empty -/
  logQ : List Nat
  /-- FIELD_LOG_FULL has been posted in this boot; 1 bit; 08_ecc_repair.md R206; 0 -/
  logFullPosted : Bool
  /-- compute dies that have isolated themselves; list; 15_fault_tolerance.md R378; empty -/
  isolated : List Nat
  deriving DecidableEq, Repr

/-! ### Husky -/

/-- A domain request that Husky holds (R409). -/
structure PdReq where
  /-- domain; 9 bits; 16_thermal_power.md R409; none -/
  domain : Nat
  /-- 1 ON, 2 OFF; 2 bits; 16_thermal_power.md Table 16.6; none -/
  op : Nat
  /-- accepted and switching; 1 bit; 16_thermal_power.md R409; none -/
  going : Bool
  deriving DecidableEq, Repr

/-- A transfer on the regulators' bus that sets something: SETDASA to a static address, or a private write of a 16-bit register.
[20_signals_package.md R474] -/
inductive RailXfer where
  | setdasa (addr : Nat) | write (addr reg value : Nat)
  deriving DecidableEq, Repr

/-- Husky and the thermal monitor beyond their registers. -/
structure Husky where
  /-- the last readings of each sensor, newest first; 1,000 x 20 x 12 bits; 16_thermal_power.md R384; empty -/
  hist : SMap (List Int)
  /-- raw readings of the previous self-check, plain and swapped, per sensor; 1,000 pairs; 16_thermal_power.md R386; none -/
  selfPrev : SMap (Int × Int)
  /-- consecutive samples in which a pair differs by more than 6 °C, per hot spot; 291 counts; 16_thermal_power.md R387; 0 -/
  pairDiff : SMap Nat
  /-- hot spots whose throttle condition held in the last sample; list; 16_thermal_power.md R390; empty -/
  throttling : List Nat
  /-- samples of the present millisecond; count; 16_thermal_power.md R399; 0 -/
  sampleNo : Nat
  /-- tiles whose maximum was within 10 °C of TJ_THROTTLE in a sample of the present millisecond; list; 16_thermal_power.md R399; empty -/
  hotTiles : List Nat
  /-- POWER_CHECK has started the thermal monitor and the tray link; 1 bit; 17_bringup.md Table 17.8, R429; 0 -/
  monOn : Bool
  /-- the last report had PUMP_FAULT = 1; 1 bit; 16_thermal_power.md R403; 0 -/
  pumpFault : Bool
  /-- FLOW of the last five valid reports, newest first; 5 x 16 bits; 16_thermal_power.md R402; empty -/
  flows : List Nat
  /-- SEQ of the last report; 8 bits or none; 16_thermal_power.md R404; none -/
  lastSeq : Option Nat
  /-- device time of the last report or of its absence; ns; 16_thermal_power.md R404; 0 -/
  reportAt : Nat
  /-- missing reports in a row; count; 16_thermal_power.md R404; 0 -/
  missing : Nat
  /-- consecutive valid reports; count; 16_thermal_power.md R404; 0 -/
  valid : Nat
  /-- consecutive valid reports with FLOW below 20 % of F; count; 16_thermal_power.md R403; 0 -/
  lowRun : Nat
  /-- device time since which the flow has been implausible; ns or none; 16_thermal_power.md R402; none -/
  implSince : Option Nat
  /-- device time since which the reported mean has stayed within 1.1 of the implied flow; ns or none; 16_thermal_power.md R402; none -/
  okSince : Option Nat
  /-- device time since which the effective flow has been at least 80 % of F; ns or none; 16_thermal_power.md R406; none -/
  flowOkSince : Option Nat
  /-- flow cap in force; W, or none; 16_thermal_power.md R403; none -/
  flowCap : Option Nat
  /-- device time of the last upward step of the flow cap; ns; 16_thermal_power.md R396; 0 -/
  capAt : Nat
  /-- SEQ of the next demand; 8 bits; 16_thermal_power.md Table 16.3; 0 -/
  demandSeq : Nat
  /-- device time of the last change of the demand; ns; 16_thermal_power.md R401; 0 -/
  demandAt : Nat
  /-- a reason to demand MAX_FLOW holds; 1 bit; 16_thermal_power.md R401; 0 -/
  demandMax : Bool
  /-- scale of the power estimates by rail VCORE0 to VCORE3, in 1/65,536; 4 counts; 16_thermal_power.md R395, 20_signals_package.md R475; 65,536 -/
  estScale : SMap Nat
  /-- estimated power outside the tiles, as the last measurement of all rails leaves it; mW, or none before one; 16_thermal_power.md R395; none -/
  baseEst : Option Nat
  /-- rise of power that RAMP still allows in the present 100 µs; mW; 16_thermal_power.md R397; 20,000 (RAMP at reset) -/
  rampUp : Nat
  /-- fall of power that RAMP still allows in the present 100 µs; mW; 16_thermal_power.md R397; 20,000 (RAMP at reset) -/
  rampDown : Nat
  /-- a cap duty was below 64 in the present millisecond; 1 bit; 16_thermal_power.md Table 16.7; 0 -/
  capLow : Bool
  /-- temperatures of the model's nodes, region x 27 + node; 432 temperatures; 16_thermal_power.md R394; 0 -/
  nodes : SMap Int
  /-- predictions made for each node, newest first, at most 50, region x 27 + node; 1/8 °C; 16_thermal_power.md R394; empty -/
  predicted : SMap (List Int)
  /-- device time since which a sensor exceeds its prediction, per sensor; ns; 16_thermal_power.md R394; none -/
  driftSince : SMap Nat
  /-- MARGIN has been doubled since cold reset; 1 bit; 16_thermal_power.md R394; 0 -/
  drifted : Bool
  /-- device time of the trigger of the orderly stop in progress; ns or none; 16_thermal_power.md R405; none -/
  stopAt : Option Nat
  /-- device time at which the stop reached step 4; ns or none; 16_thermal_power.md R405; none -/
  stoppedAt : Option Nat
  /-- domain requests held, in arrival order; list; 16_thermal_power.md R409; empty -/
  requests : List PdReq
  /-- RAIL telemetry reads failed in a row, per rail; 8 counts; 20_signals_package.md R475; 0 -/
  railMiss : SMap Nat
  /-- tile and bank-edge domains that the orderly stop switched off, and of them those that wait for power after RESUME; list; 16_thermal_power.md R406; empty -/
  resumeOn : List Nat
  /-- model steps made; count; 16_thermal_power.md R394; 0 -/
  modelNo : Nat
  /-- power estimates made; count; 16_thermal_power.md R395; 0 -/
  estNo : Nat
  /-- demand frames sent to the tray, newest last; 24 bits each; 16_thermal_power.md R401; empty -/
  demands : List Nat
  /-- SETDASA and setpoint transfers sent to the regulators, newest last; list; 20_signals_package.md R474; empty -/
  railOut : List RailXfer
  deriving DecidableEq, Repr

/-! ### Start, Opal and Mastiff -/

/-- The device start (R353). -/
structure Start where
  /-- start count sent to the regions; 64 bits or none; 14_determinism.md R353; none -/
  s : Option Nat
  /-- regions that have not started; 16 bits; 14_determinism.md R353; 0 -/
  left : Nat
  /-- device time at which the device ACLK count was zeroed; ns; 14_determinism.md R353; 0 -/
  clk0 : Nat
  deriving DecidableEq, Repr

/-- A signature asked of Mastiff (R463): of the Opal digest, to an address, or of the first 384 bytes of a report. -/
inductive SignJob where
  | digest (bytes : List Byte) (va : Nat) | report (bytes : List Byte)
  deriving DecidableEq, Repr

/-- Mastiff beyond its registers. -/
structure Mastiff where
  /-- signature requests, in arrival order; list; 19_security.md R463; empty -/
  jobs : List SignJob
  /-- public part of the identity key; 2,592 bytes; 19_security.md R462; empty -/
  pub : List Byte
  /-- private part of the identity key; bytes; 19_security.md R462; empty -/
  priv : List Byte
  /-- header of the running image; 256 bytes; 19_security.md R469; empty -/
  fwHeader : List Byte
  /-- the running image was pushed through the mailbox; 1 bit; 19_security.md Table 19.4; 0 -/
  recovery : Bool
  /-- compartments that do not run: not started yet, or crashed and not restarted; list of 0-4; 17_bringup.md R415, 18_host_firmware.md R454; 1 to 4 -/
  crashed : List Nat
  deriving DecidableEq, Repr

/-- The security fuses and the identity of the part. -/
structure Fuses where
  /-- VENDOR_KEY_HASH; 512 bits; 19_security.md Table 19.1; DESIGN CHOICE 0 (log 5) -/
  vendorKeyHash : Nat
  /-- ID_SEED; 256 bits; 19_security.md Table 19.1; DESIGN CHOICE 0 (log 5) -/
  idSeed : Nat
  /-- SERIAL; 64 bits; 19_security.md Table 19.1; DESIGN CHOICE 0 (log 5) -/
  serial : Nat
  /-- SVN, number of bits set; 0-64; 19_security.md Table 19.1; DESIGN CHOICE 0 (log 5) -/
  svn : Nat
  /-- DBG_ARM; 1 bit; 19_security.md Table 19.1; DESIGN CHOICE 1 (log 5) -/
  dbgArm : Bool
  /-- DEBUG_EVER; 1 bit; 19_security.md Table 19.1; DESIGN CHOICE 0 (log 5) -/
  debugEver : Bool
  /-- HUB_ID; 64 bits; 00_scope.md Table 0.3; DESIGN CHOICE NG288-17JU, stepping 0 (log 5) -/
  hubId : Nat
  /-- hash of the fuse map; 512 bits; 08_ecc_repair.md R204; DESIGN CHOICE hash of the empty map (log 5) -/
  mapHash : Nat
  deriving DecidableEq, Repr

/-- The configuration flash, area by area (Table 17.2). -/
structure Flash where
  /-- the flash answers reads (4-byte addressing, R484) and its header holds the magic value; 2 bits; 17_bringup.md R415, R417; DESIGN CHOICE false (log 6) -/
  readOk : Bool
  /-- the flash header matches; 1 bit; 17_bringup.md R415; DESIGN CHOICE false (log 6) -/
  headerOk : Bool
  /-- fuse map; bytes; 17_bringup.md Table 17.2, 08_ecc_repair.md R204; DESIGN CHOICE one end record (log 6) -/
  fuseMap : List Byte
  /-- device certificate; 7,296 bytes; 19_security.md R462; DESIGN CHOICE empty (log 6) -/
  cert : List Byte
  /-- firmware image; 16 MiB; 17_bringup.md Table 17.2; DESIGN CHOICE empty (log 6) -/
  fw : List Byte
  /-- set pointer area half A, 256-bit records in order; 1,024 records; 17_bringup.md R418; DESIGN CHOICE empty (log 6) -/
  ptrA : List Nat
  /-- set pointer area half B; 1,024 records; 17_bringup.md R418; DESIGN CHOICE empty (log 6) -/
  ptrB : List Nat
  /-- field defect log; 8,192 x 64 bits; 08_ecc_repair.md R206; DESIGN CHOICE empty (log 6) -/
  fieldLog : List Nat
  /-- configuration set slot 0; 4 MiB; 17_bringup.md Table 17.2; DESIGN CHOICE empty (log 6) -/
  slot0 : List Byte
  /-- configuration set slot 1; 4 MiB; 17_bringup.md Table 17.2; DESIGN CHOICE empty (log 6) -/
  slot1 : List Byte
  /-- Vendor ID, Subsystem Vendor ID and Subsystem ID of the factory sector; 3 x 16 bits; 18_host_firmware.md R433; DESIGN CHOICE 0 (log 6) -/
  pciIds : Nat × Nat × Nat
  deriving DecidableEq, Repr

/-- The Step Sequencer and the configuration sets beyond their registers. -/
structure Boot where
  /-- device time at which the running step began; ns; 17_bringup.md R427; 0 -/
  stepAt : Nat
  /-- a debug instruction is in effect at the test port, else one that is not debug; 1 bit; 19_security.md R468; 0 -/
  tapDebug : Bool
  /-- ARG of the running step; 8 bits; 17_bringup.md R426; 0 -/
  arg : Nat
  /-- outcome of the running step once its action has ended: the cause, 0 for DONE; 8 bits or none; 17_bringup.md R427; none -/
  out : Option Nat
  /-- steps of the stored list still to replay, with ARG; at most ten; 17_bringup.md R414; empty -/
  replay : List (Nat × Nat)
  /-- image of the set in force; bytes or none; 17_bringup.md R425; none -/
  set : Option (List Byte)
  /-- sequence number of the set in force; 32 bits; 17_bringup.md R424; 0 -/
  setSeq : Nat
  /-- READY has been reached; 1 bit; 17_bringup.md R426; 0 -/
  ready : Bool
  /-- split of the set last applied, RD, WR, RM; 3 x 4 bits; 12_regulation.md R310; DESIGN CHOICE 5:2:1 (log 48) -/
  split : Nat × Nat × Nat
  /-- user sensor offsets of CAL, per sensor; 1,000 x 1/8 °C; 17_bringup.md Table 17.7; 0 -/
  sensorCal : SMap Int
  /-- user voltage trims of CAL, per rail; 8 x mV; 17_bringup.md Table 17.7; 0 -/
  railTrim : SMap Int
  /-- user band edges of CAL, per index; 4 x °C; 17_bringup.md Table 17.7; factory values -/
  bandEdge : SMap Nat
  /-- tiles recorded bad by R207; list; 08_ecc_repair.md R207; empty -/
  badTiles : List Nat
  /-- sensors found broken at POWER_CHECK, which read VALID = 0 until cold reset; list; 17_bringup.md R428; empty -/
  deadSensors : List Nat
  /-- tiles excluded by R428; list; 17_bringup.md R428; empty -/
  excluded : List Nat
  /-- outcome of the customer site at DIE_LINKS; 0 absent, 1 unpopulated, 2 DOWN, 3 up; 17_bringup.md Table 17.10; 0 -/
  site : Nat
  /-- RESET_N has been low since; device time, or none while high; 20_signals_package.md R478; none -/
  resetLow : Option Nat
  /-- the management rail is applied; 1 bit; 20_signals_package.md R481; 1 -/
  powered : Bool
  /-- THERMTRIP_N is driven low; 1 bit; 16_thermal_power.md R407; 0 -/
  tripLow : Bool
  deriving DecidableEq, Repr

/-! ### The whole block -/

/-- The state of the NG288. -/
structure State where
  /-- commands that wait, first in first out; list; the row's cut (log 1); empty -/
  pending : List Instr
  /-- every register of the manual by BAR0 offset, where it differs from its reset value; 64 bits each; 00_scope.md R15; reset values -/
  regs : SMap Nat
  /-- the tiles; 288; 01_architecture.md R23; reset tiles -/
  tiles : SMap Tile
  /-- the vault channels, tile x 8 + channel; 2,304; 01_architecture.md R23; reset channels -/
  chans : SMap Chan
  /-- the region controllers; 16; 01_architecture.md R23; reset regions -/
  regions : SMap Region
  /-- the directed links; 1,794; 11_fabric.md R263 to R269; reset links -/
  links : SMap Link
  /-- fabric messages sent and not yet taken by their destination; list; 11_fabric.md R271; empty -/
  msgs : List Msg
  /-- next number for a message, burst or append; model's number; log 1; 0 -/
  nextId : Nat
  /-- vault data, (tile x 8 + channel) x 2^29 + row x 2,048 + byte; bytes; 07_vaults.md R163 to R166; DESIGN CHOICE 0 (log 2) -/
  vaultData : Memory
  /-- light-code check bytes of the vaults, (tile x 8 + channel) x 2^26 + row x 256 + word; bytes; 08_ecc_repair.md R190; DESIGN CHOICE 0 (log 2) -/
  vaultChk : Memory
  /-- page-code bytes of the vaults, (tile x 8 + channel) x 2^25 + row x 128 + i; bytes; 08_ecc_repair.md R191; DESIGN CHOICE 0 (log 2) -/
  vaultPage : Memory
  /-- sector tags of the vaults, (tile x 8 + channel) x 2^24 + row x 64 + sector; 2 bits each; 08_ecc_repair.md Table 8.3; DESIGN CHOICE 0 (log 2) -/
  vaultTag : Memory
  /-- rows whose unsealed mark is set, (tile x 8 + channel) x 2^18 + row; 1 bit each; 09_jasper.md R214; DESIGN CHOICE 0 (log 2) -/
  unsealed : Memory
  /-- Spinel data, (tile x 12,288 + word) x 32 + byte; 384 KiB per tile; 06_spinel_dma.md R141; DESIGN CHOICE 0 (log 2) -/
  spData : Memory
  /-- Spinel check bytes, (tile x 12,288 + word) x 4 + quarter; bytes; 08_ecc_repair.md R188; DESIGN CHOICE 0 (log 2) -/
  spChk : Memory
  /-- Spinel word tags, tile x 12,288 + word, and bit 2 where a read has found the word uncorrectable; 3 bits each; 06_spinel_dma.md R141, R149; DESIGN CHOICE 0 (log 2) -/
  spTag : Memory
  /-- ring SRAM; 32 MiB; 18_host_firmware.md R437; DESIGN CHOICE 0 (log 2) -/
  bar4 : Memory
  /-- Agate; Agate; 10_attention_kv.md R241; reset Agate -/
  agate : Agate
  /-- the hub's regulator; HubQos; 12_regulation.md R308; empty -/
  hubQos : HubQos
  /-- Topaz; Topaz; 10_attention_kv.md R250; reset Topaz -/
  topaz : Topaz
  /-- Kelpie; Kelpie; 13_network.md R312; reset Kelpie -/
  kelpie : Kelpie
  /-- Bloodhound; Blood; 15_fault_tolerance.md R375; reset Bloodhound -/
  blood : Blood
  /-- Husky and the thermal monitor; Husky; 16_thermal_power.md R384; reset Husky -/
  husky : Husky
  /-- device start; Start; 14_determinism.md R353; none -/
  start : Start
  /-- Mastiff; Mastiff; 17_bringup.md R415; reset Mastiff -/
  mastiff : Mastiff
  /-- fuses; Fuses; 19_security.md R461; the part (log 5) -/
  fuses : Fuses
  /-- configuration flash; Flash; 17_bringup.md R417; the flash (log 6) -/
  flash : Flash
  /-- Step Sequencer; Boot; 17_bringup.md R426; reset sequencer -/
  boot : Boot
  /-- host interface; HostIf; 18_host_firmware.md R436; reset interface -/
  host : HostIf
  /-- results that a free value of Config has been drawn from; the model's own counter, not the spec's; log 7; DESIGN CHOICE 0 (log 7) -/
  draws : Nat
  deriving DecidableEq, Repr

/-! ### Reasons to stop -/

/-- Why a command stops the block with a fault. -/
inductive Fault where
  /-- REGISTER_WRITE, COUNTER_CLEAR or COUNTER_LOW_READ names an offset of 64 MiB or more: no such address exists in
  BAR0 (18_host_firmware.md R434). Safe: the host cannot send such an access. -/
  | outsideBar0
  deriving DecidableEq, Repr

/-- Why a command has no meaning. -/
inductive Refusal where
  /-- An arm that has no meaning yet. -/
  | notModelled (mnemonic : String)
  /-- A command whose data operand does not have the shape its row can have (WellFormed.lean); raised by the meanings of
  the rows that carry lists. Safe: no such command can be sent. -/
  | illFormed
  deriving DecidableEq, Repr

/-! ### Reset values -/

/-- A stream after reset. [04_tile_commands.md R107] -/
def Stream.reset : Stream := ⟨[], 0, 0, none, 0, 0, none⟩

/-- A weight bank after reset: code 0 everywhere, not loaded. [03_garnet_array.md R62, R86] -/
def Bank.reset : Bank := ⟨false, 0, false, false, [], [], []⟩

/-- The matrix array after reset. [03_garnet_array.md R68, R86] -/
def Garnet.reset : Garnet := ⟨Bank.reset, Bank.reset, false, false, [], [], none, []⟩

/-- A tile after reset. [04_tile_commands.md R107; 16_thermal_power.md R393] -/
def Tile.reset : Tile where
  streams := []
  lastGrant := []
  aclk := 0
  issue := 0
  qLoad := []
  qExec := []
  qBeryl := []
  qDma := []
  qJasper := []
  serial := 0
  garnet := Garnet.reset
  appends := []
  jprog := none
  actLatch := []
  expLatch := []
  wdDue := []
  dl := []
  reports := []
  waiting := []
  dutyThermal := 64
  dutyModel := 64
  dutyCap := 64
  dutyRamp := 64
  coolSince := none
  actPlanes := 0
  actGroups := 0
  actBursts := 0
  actSteps := 0
  runPower := []
  filler := 0
  fillMean := 0
  estMw := 0
  stopAclk := none
  ePorts := []
  dPorts := []
  dDefer := none
  xRows := []
  xFrom := 0
  fills := []
  begun := []
  pruned := []
  mcSince := none

/-- A vault channel after reset. [07_vaults.md R172, R178] -/
def Chan.reset : Chan where
  now := 0
  slot := 0
  split := (5, 2, 1)
  queue := []
  flight := []
  lastAct := []
  rrIn := []
  rrOut := []
  cr := []
  minEff := []
  refLast := 0
  refDue := 2730
  refOdd := false
  refRow := 0
  recov := []
  remapQ := []
  remap := []
  spareUsed := []
  colUsed := []
  colMap := []
  conns := []
  ceLast := []
  ceNow := []
  scrubWin := 0
  scrubAt := 0
  ueWins := []
  closing := false
  armFail := 0
  jEnd := []
  popSlot := 0
  scrubHeld := false

/-- A link after reset. [11_fabric.md R279] -/
def Link.reset : Link where
  nextSeq := 0
  replay := []
  cursor := 0
  ackAt := 0
  nakSeen := false
  replays := 0
  retrain := false
  credit := []
  lastCount := []
  cur := []
  lastMc := false
  rrIn := []
  rrOut := []
  cr := []
  minEff := []
  carUsed := 0
  span := 0
  expect := 0
  accepted := false
  nakDue := false
  nakSent := false
  used := []
  left := []
  turn := 0
  partial_ := []
  down := false

/-- A region controller after reset. [10_attention_kv.md R241; 12_regulation.md R308] -/
def Region.reset : Region where
  cache := []
  gen := 0
  ovf := []
  admits := []
  startS := none
  hold1 := none
  hold2 := none
  in1 := false
  in2 := false
  deficit := 0
  deficitPosted := false

/-- Agate after reset. [10_attention_kv.md R241, R243] -/
def Agate.reset : Agate := ⟨[], [], [], [], [], 0, 0, none⟩

/-- Topaz after reset. [10_attention_kv.md R251] -/
def Topaz.reset : Topaz := ⟨[], none, [], []⟩

/-- The configuration space after reset. [18_host_firmware.md R433, R434; 20_signals_package.md R479] -/
def PciCfg.reset : PciCfg := ⟨false, false, false, false, false, (0, 0, 0), 0, 512⟩

/-- The host interface after reset. [18_host_firmware.md R436, R449] -/
def HostIf.reset : HostIf where
  evtSeq := 0
  evtLost := false
  evtBuf := []
  waiting := []
  unsig := []
  oldest := []
  cmds := []
  finals := []
  lastRing := 63
  stopping := []
  linkUp := false
  bme := false
  pci := PciCfg.reset
  msix := []
  out := []
  latch := []
  plan := []
  planRegs := []
  planFeat := 0
  bar2Out := []
  aer := []
  bar2 := []

/-- A context after reset: not valid. [13_network.md R321] -/
def Ctx.reset : Ctx where
  bits := 0
  got := []
  unacked := 0
  unackedAt := none
  ceSeen := false
  rnrAt := none
  cnpAt := none
  rx := []
  tx := []
  rto := 0
  rtoAt := 0
  holdAt := 0
  rnrHold := none
  pausedAt := none
  nextMsn := 0
  quiet := 0
  ece := false
  ccAt := 0
  seqNak := false
  roceWr := none

/-- Kelpie after reset. [13_network.md R314, R321] -/
def Kelpie.reset : Kelpie where
  ctx := []
  wqes := []
  colls := []
  pause := []
  rxOcc := []
  xoff := []
  retrainAt := []
  rxTs := []
  txTs := []
  ptpLow := 0
  ptpLatch := none
  stopping := []
  imm := []
  held := []
  armAt := 0
  armLate := false
  syncOut := none
  ctrlRate := (0, 0)
  out := []

/-- Bloodhound after reset. [15_fault_tolerance.md R370] -/
def Blood.reset : Blood := ⟨[], none, [], false, []⟩

/-- Husky after reset. [16_thermal_power.md R395] -/
def Husky.reset : Husky where
  hist := []
  selfPrev := []
  pumpFault := false
  pairDiff := []
  throttling := []
  sampleNo := 0
  hotTiles := []
  monOn := false
  flows := []
  lastSeq := none
  reportAt := 0
  missing := 0
  valid := 0
  lowRun := 0
  implSince := none
  okSince := none
  flowOkSince := none
  flowCap := none
  capAt := 0
  demandSeq := 0
  demandAt := 0
  demandMax := false
  estScale := []
  baseEst := none
  rampUp := 20000
  rampDown := 20000
  capLow := false
  nodes := []
  predicted := []
  driftSince := []
  drifted := false
  stopAt := none
  stoppedAt := none
  requests := []
  railMiss := []
  resumeOn := []
  modelNo := 0
  estNo := 0
  demands := []
  railOut := []

/-- The device start after reset. [14_determinism.md R353] -/
def Start.reset : Start := ⟨none, 0, 0⟩

/-- Mastiff after reset: the firmware compartments have not started. [17_bringup.md R415] -/
def Mastiff.reset : Mastiff := ⟨[], [], [], [], false, [1, 2, 3, 4]⟩

/-- HUB_ID of an NG288-17JU of stepping 0 (log 5). [00_scope.md Table 0.3] -/
def partId : Nat := 0x02881C0000000001

/-- SHA3-512 of a fuse map of one end record, as a number. [08_ecc_repair.md R204] -/
def emptyMapHash : Nat :=
  0xf6f86a292fed9e10b923bcab6709b4c46bd96c0079facdd6398e775c5e57e7020f7aec77f7165a734a56248cd0671319bd5e832d64a59759ed5285ccb91dde0a

/-- The fuses of the modelled part (log 5). [19_security.md Table 19.1] -/
def Fuses.part : Fuses := ⟨0, 0, 0, 0, true, false, partId, emptyMapHash⟩

/-- An empty configuration flash (log 6). [17_bringup.md Table 17.2] -/
def Flash.empty : Flash := ⟨false, false, List.replicate 8 0, [], [], [], [], [], [], [], (0, 0, 0)⟩

/-- The sequencer after reset. [17_bringup.md R426] -/
def Boot.reset : Boot where
  stepAt := 0
  tapDebug := false
  arg := 0
  out := none
  replay := []
  set := none
  setSeq := 0
  ready := false
  split := (5, 2, 1)
  sensorCal := []
  railTrim := []
  bandEdge := []
  badTiles := []
  deadSensors := []
  excluded := []
  site := 0
  resetLow := none
  powered := true
  tripLow := false

/-- Registers whose reset value is a fuse, a grade or a table: HUB_ID, EFF_CAP_W and USER_W of grade 17, and the feature
offer of Table 18.3. [00_scope.md R9; 16_thermal_power.md Table 16.6; 18_host_firmware.md Table 18.3] -/
def partRegs : SMap Nat :=
  [(0x00000000, partId), (0x00200008, 1400 * 2 ^ 16), (0x00200018, 1400), (0x00700110, 15)]

/-- The NG288 right after reset, before its boot ROM has run. [17_bringup.md R413, R415] -/
def State.reset : State where
  pending := []
  regs := partRegs
  tiles := []
  chans := []
  regions := []
  links := []
  msgs := []
  nextId := 0
  vaultData := []
  vaultChk := []
  vaultPage := []
  vaultTag := []
  unsealed := []
  spData := []
  spChk := []
  spTag := []
  bar4 := []
  agate := Agate.reset
  hubQos := ⟨[], []⟩
  topaz := Topaz.reset
  kelpie := Kelpie.reset
  blood := Blood.reset
  husky := Husky.reset
  start := Start.reset
  mastiff := Mastiff.reset
  fuses := Fuses.part
  flash := Flash.empty
  boot := Boot.reset
  host := HostIf.reset
  draws := 0

end Sys2Proof.Machine
end

