-- ==== Sys2Proof/Machine/Ops.lean ====
section
/-! DEFINITION. The operations every unit shares: register fields, counters, events, interrupts, and the sparse tables of
tiles, channels, regions and links. -/

namespace Sys2Proof.Machine

/-! ### Registers -/

/-- The value register `r`, instance (i, j), holds. [00_scope.md R15] -/
def rget (s : State) (r : Reg) (i : Nat := 0) (j : Nat := 0) : Nat := smGet s.regs (regOff r i j) r.reset

/-- `s` with `v` in register `r`, instance (i, j). [00_scope.md R15] -/
def rset (s : State) (r : Reg) (v : Nat) (i : Nat := 0) (j : Nat := 0) : State :=
  { s with regs := smSet s.regs (regOff r i j) (v % 2 ^ 64) }

/-- The value of a field. [00_scope.md R10] -/
def fget (s : State) (f : Fld) (i : Nat := 0) (j : Nat := 0) : Nat := bitsOf (rget s f.reg i j) f.lo f.w

/-- `s` with a field written. [00_scope.md R10] -/
def fset (s : State) (f : Fld) (v : Nat) (i : Nat := 0) (j : Nat := 0) : State :=
  rset s f.reg (setBits (rget s f.reg i j) f.lo f.w v) i j

/-- A field of one bit as a Bool. -/
def fbit (s : State) (f : Fld) (i : Nat := 0) (j : Nat := 0) : Bool := fget s f i j != 0

/-- `s` with register `r`, instance (i, j), at its reset value. -/
def rreset (s : State) (r : Reg) (i : Nat := 0) (j : Nat := 0) : State :=
  { s with regs := smDel s.regs (regOff r i j) }

/-- Device time in nanoseconds. [18_host_firmware.md R457] -/
def now (s : State) : Nat := rget s HUB_TIME

/-- Device time in the 64 ns units of deadlines. [12_regulation.md R305] -/
def now64 (s : State) : Nat := now s / 64 % 65536

/-- A fresh number for a message, burst or append. -/
def fresh (s : State) : State × Nat := ({ s with nextId := s.nextId + 1 }, s.nextId)

/-! ### Tables of units -/

/-- Tile `p`. [01_architecture.md R23] -/
def tileOf (s : State) (p : Nat) : Tile := smGet s.tiles p Tile.reset

/-- `s` with tile `p` changed by `f`. -/
def onTile (s : State) (p : Nat) (f : Tile → Tile) : State := { s with tiles := smSet s.tiles p (f (tileOf s p)) }

/-- Channel `c` of tile `p`. [01_architecture.md R23] -/
def chanOf (s : State) (p c : Nat) : Chan := smGet s.chans (p * 8 + c) Chan.reset

/-- `s` with channel `c` of tile `p` changed by `f`. -/
def onChan (s : State) (p c : Nat) (f : Chan → Chan) : State :=
  { s with chans := smSet s.chans (p * 8 + c) (f (chanOf s p c)) }

/-- Region controller `g`. [01_architecture.md R23] -/
def regionOf (s : State) (g : Nat) : Region := smGet s.regions g Region.reset

/-- `s` with region controller `g` changed by `f`. -/
def onRegion (s : State) (g : Nat) (f : Region → Region) : State :=
  { s with regions := smSet s.regions g (f (regionOf s g)) }

/-- Directed link `l`. -/
def linkOf (s : State) (l : Nat) : Link := smGet s.links l Link.reset

/-- `s` with directed link `l` changed by `f`. -/
def onLink (s : State) (l : Nat) (f : Link → Link) : State := { s with links := smSet s.links l (f (linkOf s l)) }

/-- Stream `k` of a tile. [04_tile_commands.md R91] -/
def streamOf (t : Tile) (k : Nat) : Stream := smGet t.streams k Stream.reset

/-- A tile with stream `k` changed by `f`. -/
def onStreamT (t : Tile) (k : Nat) (f : Stream → Stream) : Tile :=
  { t with streams := smSet t.streams k (f (streamOf t k)) }

/-- `s` with stream `k` of tile `p` changed by `f`. -/
def onStream (s : State) (p k : Nat) (f : Stream → Stream) : State := onTile s p fun t => onStreamT t k f

/-! ### Interrupts -/

/-- Completions, events and interrupts may leave. [18_host_firmware.md R436] -/
def hostReady (s : State) : Bool := s.host.linkUp && s.host.bme

/-- The message of vector `v` is masked, by itself or by the function mask. [18_host_firmware.md R440, Table 18.1] -/
def irqMasked (s : State) (v : Nat) : Bool := fbit s MSIX_DATA__MASK v || s.host.pci.funcMask

/-- The MSI-X message of vector `v` is sent, or its PBA bit is set while it is masked. [18_host_firmware.md R440] -/
def sendIrq (s : State) (v : Nat) : State :=
  if hostReady s then
    if irqMasked s v then
      rset s MSIX_PBA (setBits (rget s MSIX_PBA (v / 64)) (v % 64) 1 1) (v / 64)
    else
      { s with host := { s.host with msix := s.host.msix ++ [(rget s MSIX_ADDR v, fget s MSIX_DATA__DATA v)] } }
  else { s with host := { s.host with waiting := s.host.waiting ++ [.irq v] } }

/-- COALESCE is granted. [18_host_firmware.md Table 18.3] -/
def coalesceGranted (s : State) : Bool := bitOf (rget s HOST_FEAT_GRANT 0) 3

/-- COAL_CNT and COAL_US in force for completion ring `q`, or for the event ring 64. [18_host_firmware.md R440] -/
def coalOf (s : State) (q : Nat) : Nat × Nat :=
  if coalesceGranted s then
    if q = 64 then (fget s HOST_EVT_CFG__COAL_CNT, fget s HOST_EVT_CFG__COAL_US)
    else (fget s HOST_RING_COAL__COAL_CNT q, fget s HOST_RING_COAL__COAL_US q)
  else (0, 0)

/-- The vector of completion ring `q`, or of the event ring 64. [18_host_firmware.md R440] -/
def vectorOf (s : State) (q : Nat) : Nat :=
  if q = 64 then fget s HOST_EVT_CFG__VECTOR else fget s HOST_RING_CFG__VECTOR q

/-- Send the message of ring `q` and count its entries as signalled. -/
def signalRing (s : State) (q : Nat) : State :=
  let s := sendIrq s (vectorOf s q)
  { s with host := { s.host with unsig := smDel s.host.unsig q, oldest := smDel s.host.oldest q } }

/-- An entry has been posted on ring `q`; `atOnce` for IRQ_NOW = 1. [18_host_firmware.md R440] -/
def notePosted (s : State) (q : Nat) (atOnce : Bool) : State :=
  let n := smGet s.host.unsig q 0 + 1
  let oldest := if n = 1 then smSet s.host.oldest q (now s) else s.host.oldest
  let s := { s with host := { s.host with unsig := smSet s.host.unsig q n, oldest := oldest } }
  let c := coalOf s q
  if c.1 = 0 || c.1 ≤ n || c.2 = 0 || atOnce then signalRing s q else s

/-! ### Counters and events -/

/-- The value of a counter after one more event. [18_host_firmware.md R455] -/
def counterNext (v n : Nat) : Nat :=
  if v % 2 ^ 63 + n ≤ countMax then v + n else countMax + 2 ^ 63

/-- A counter incremented by `n`, without its CNT_SAT event; true when SAT first becomes 1. [18_host_firmware.md R455] -/
def bumpRaw (s : State) (r : Reg) (n i j : Nat) : State × Bool :=
  let v := rget s r i j
  let w := counterNext v n
  (rset s r w i j, v < 2 ^ 63 && 2 ^ 63 ≤ w)

/-- An event is dropped. A saturating HOST_EVT_DROP_COUNT generates one CNT_SAT, which finds the ring full and is dropped
too. [18_host_firmware.md R449, R455] -/
def dropEvent (s : State) : State :=
  let r := bumpRaw { s with host := { s.host with evtLost := true } } HOST_EVT_DROP_COUNT 1 0 0
  if r.2 && fbit r.1 HUB_CNT_CTRL__SAT_EVT_EN then
    { r.1 with host := { r.1.host with evtSeq := (r.1.host.evtSeq + 1) % 2 ^ 32 } }
  else r.1

/-- The 256-bit event entry. [18_host_firmware.md Table 18.11] -/
def eventBits (e : Event) (dropped : Bool) (phase : Nat) : Nat :=
  e.code % 2 ^ 16 + flag dropped * 2 ^ 30 + phase * 2 ^ 31 + e.seq * 2 ^ 32 + e.time % 2 ^ 64 * 2 ^ 64
    + e.payload % 2 ^ 128 * 2 ^ 128

/-- An event reaches the enabled event ring: it is written and signalled, or dropped when 2^LOG2 - 1 entries are
outstanding. [18_host_firmware.md R440, R449] -/
def writeEvent (s : State) (e : Event) : State :=
  let size := 2 ^ fget s HOST_EVT_CFG__LOG2
  let tail := fget s HOST_EVT_STATE__TAIL
  let head := fget s DB_EVT_HEAD__INDEX
  if (tail + size - head) % size = size - 1 then dropEvent s
  else
    let ph := fget s HOST_EVT_STATE__PHASE
    let a := fget s HOST_EVT_CFG__BASE * 4096 + tail * 32
    let s := { s with
      bar4 := memWrite s.bar4 a (leBytes 32 (eventBits e s.host.evtLost ph))
      host := { s.host with evtLost := false } }
    let s := fset s HOST_EVT_STATE__TAIL ((tail + 1) % size)
    let s := if tail + 1 = size then fset s HOST_EVT_STATE__PHASE (1 - ph) else s
    notePosted s 64 false

/-- A unit posts event `code`: held in the firmware buffer while the ring is disabled, behind the host link while it is
down, otherwise written. [18_host_firmware.md R436, R449] -/
def postEvent (s : State) (code payload : Nat) : State :=
  let e : Event := ⟨code, s.host.evtSeq, now s, payload⟩
  let s := { s with host := { s.host with evtSeq := (s.host.evtSeq + 1) % 2 ^ 32 } }
  if fbit s HOST_EVT_CFG__ENABLE then
    if hostReady s then writeEvent s e
    else { s with host := { s.host with waiting := s.host.waiting ++ [.evt e] } }
  else if s.host.evtBuf.length < 256 then { s with host := { s.host with evtBuf := s.host.evtBuf ++ [e] } }
  else dropEvent s

/-- CNT_SAT. [21_register_index.md Table 21.5] -/
def evtCntSat : Nat := 0x1202

/-- Counter `r`, instance (i, j), counts `n` events; its first saturation posts CNT_SAT. [18_host_firmware.md R455] -/
def bumpN (s : State) (r : Reg) (n : Nat) (i : Nat := 0) (j : Nat := 0) : State :=
  let x := bumpRaw s r n i j
  if x.2 && fbit x.1 HUB_CNT_CTRL__SAT_EVT_EN then postEvent x.1 evtCntSat (regOff r i j) else x.1

/-- Counter `r` counts one event. [18_host_firmware.md R455] -/
def bump (s : State) (r : Reg) (i : Nat := 0) (j : Nat := 0) : State := bumpN s r 1 i j

/-- `s` changed by `f` when `b` holds. -/
def whenS (b : Bool) (f : State → State) (s : State) : State := if b then f s else s

/-- `s` passed through `f` for each element of a list. -/
def forS {α : Type} (l : List α) (f : α → State → State) (s : State) : State := l.foldl (fun st x => f x st) s

/-! ### Power, fences and binding -/

/-- Firmware compartment `k` serves: it has started and not crashed (0 Mastiff, 1 Husky, 2 Bloodhound, 3 Sheltie, 4 Kelpie control).
[18_host_firmware.md R452, R454] -/
def compUp (s : State) (k : Nat) : Bool := !s.mastiff.crashed.contains k

/-- A draw of a free value has been used (log 7). -/
def drawn (s : State) : State := { s with draws := s.draws + 1 }

/-- Domain `n` is ON. [16_thermal_power.md R408] -/
def domOn (s : State) (n : Nat) : Bool := fget s HUSKY_PD_STATE__STATE n = 1

/-- Region of a tile. [01_architecture.md R23] -/
def regOfTile (p : Nat) : Nat := p / 18

/-- Slot of a tile. [01_architecture.md R23] -/
def slotOfTile (p : Nat) : Nat := p % 18

/-- Tile `p` is fenced, by its own bit or with its region. [15_fault_tolerance.md R363, R377] -/
def fenced (s : State) (p : Nat) : Bool :=
  bitOf (fget s REGION_FENCE__FENCED (p / 18)) (p % 18) || fbit s REGION_FENCE__REGION_FENCED (p / 18)

/-- Tile `p` is powered and its die is not isolated: it goes on by itself, fenced or not. [15_fault_tolerance.md R363, R378] -/
def tileRuns (s : State) (p : Nat) : Bool := domOn s p && !s.blood.isolated.contains (p / 72)

/-- Tile `p` is a standby under rebuild. [15_fault_tolerance.md R370, Table 15.8] -/
def rebuilding (s : State) (p : Nat) : Bool := bitOf (fget s REGION_FENCE__REBUILDING (p / 18)) (p % 18)

/-- Tile `p` is powered and not fenced. [01_architecture.md R34; 15_fault_tolerance.md R363] -/
def tileUp (s : State) (p : Nat) : Bool := domOn s p && !fenced s p && !s.blood.isolated.contains (p / 72)

/-- Tile `p` answers other masters: it is up and not under rebuild. [15_fault_tolerance.md R363, R370] -/
def tileOpen (s : State) (p : Nat) : Bool := tileUp s p && !rebuilding s p

/-- The physical tile bound to logical tile `lt`. [01_architecture.md R26] -/
def physOf (s : State) (lt : Nat) : Option Nat :=
  if lt < 288 then
    if fbit s REGION_BIND__BOUND (lt / 18) (lt % 18) then
      some (lt / 18 * 18 + fget s REGION_BIND__SLOT (lt / 18) (lt % 18))
    else none
  else none

/-- The logical tile bound to physical tile `p`. [01_architecture.md R26] -/
def logOf (s : State) (p : Nat) : Option Nat :=
  ((List.range 18).find? fun k => physOf s (p / 18 * 18 + k) == some p).map fun k => p / 18 * 18 + k

/-- The logical tile of `p` as a 9-bit field of an event; a free value where none is bound (log 7).
[18_host_firmware.md R450, R451] -/
def logField (s : State) (p : Nat) : Nat := (logOf s p).getD (Config.unboundLogical p (now s) % 512)

/-- The part has Jasper layers. [00_scope.md R4] -/
def partJ (s : State) : Bool := fbit s HUB_ID__OPT_J

/-- The part has the customer-die site. [00_scope.md R6] -/
def partU (s : State) : Bool := fbit s HUB_ID__OPT_U

/-- Region `g` is a Jasper region of this part. [00_scope.md R4] -/
def jasperRegion (s : State) (g : Nat) : Bool := partJ s && decide (8 ≤ g) && decide (g < 16)

/-- ACLK in MHz: 1,750, 1,500 or 1,200 by grade. [00_scope.md Table 0.1] -/
def aclkMHz (s : State) : Nat :=
  match fget s HUB_ID__GRADE with
  | 2 => 1500
  | 3 => 1200
  | _ => 1750

/-- Module power limit in watts. [00_scope.md Table 0.1] -/
def gradeW (s : State) : Nat :=
  match fget s HUB_ID__GRADE with
  | 2 => 1150
  | 3 => 850
  | _ => 1400

end Sys2Proof.Machine
end

