-- ==== Sys2Proof/Machine/Flags.lean ====
section
/-! DEFINITION. The flag computations: TILE_ARITH_STATUS (R60), TILE_BERYL_STATUS (R126, R140) and the arithmetic
counters (R61). -/

namespace Sys2Proof.Machine

/-- `s` with a sticky one-bit field set when `b` holds. -/
def setIf (s : State) (b : Bool) (f : Fld) (i : Nat := 0) (j : Nat := 0) : State := if b then fset s f 1 i j else s

/-- The arithmetic flags of an accumulated element: SAT_N and SAT_L are recorded. [02_arithmetic.md R60] -/
def noteSat (s : State) (p : Nat) (satN satL : Bool) : State :=
  setIf (setIf s satN TILE_ARITH_STATUS__SAT_N p) satL TILE_ARITH_STATUS__SAT_L p

/-- `n` activation codes 0x80 were streamed. [02_arithmetic.md R42, R60, R61] -/
def noteActClamp (s : State) (p n : Nat) : State :=
  if n = 0 then s else bumpN (fset s TILE_ARITH_STATUS__ACT_CLAMP 1 p) TILE_ACT_CLAMP_COUNT n p

/-- `n` KV elements were clamped. [02_arithmetic.md R46, R60, R61] -/
def noteKvClamp (s : State) (p n : Nat) : State :=
  if n = 0 then s else bumpN (fset s TILE_ARITH_STATUS__KV_CLAMP 1 p) TILE_KV_CLAMP_COUNT n p

/-- A quantiser met a NaN or an infinity. [02_arithmetic.md R44, R46, R60] -/
def noteNonfinite (s : State) (p : Nat) (b : Bool) : State := setIf s b TILE_ARITH_STATUS__NONFINITE p

/-- The flags of Beryl steps go to TILE_BERYL_STATUS. [05_beryl_vector.md R126] -/
def noteBeryl (s : State) (p : Nat) (fl : FFlags) : State :=
  let s := setIf s fl.invalid TILE_BERYL_STATUS__INVALID p
  let s := setIf s fl.divzero TILE_BERYL_STATUS__DIVZERO p
  let s := setIf s fl.ovf TILE_BERYL_STATUS__OVF p
  setIf s fl.unf TILE_BERYL_STATUS__UNF p

/-- `n` output elements converted or written as records with SAT_N or SAT_L set. [02_arithmetic.md R61] -/
def noteSatCount (s : State) (p n : Nat) : State := if n = 0 then s else bumpN s TILE_SAT_COUNT n p

end Sys2Proof.Machine
end

