-- ==== Sys2Proof/Machine/Operands.lean ====
section
/-! DEFINITION. Operand forms: the fields of command descriptors (Tables 4.2 to 4.12), Spinel addresses with their shapes
(R103, R142 to R145), and the Spinel words a command reads. -/

namespace Sys2Proof.Machine

/-! ### Descriptor header (Table 4.2) -/

/-- OPCODE. [04_tile_commands.md Table 4.2] -/
def dOp (d : Nat) : Nat := bitsOf d 0 8
/-- SYNC. [04_tile_commands.md Table 4.2] -/
def dSync (d : Nat) : Bool := bitOf d 8
/-- NOTIFY. [04_tile_commands.md Table 4.2] -/
def dNotify (d : Nat) : Bool := bitOf d 9
/-- IN_EN. [04_tile_commands.md Table 4.2] -/
def dInEn (d : Nat) : Bool := bitOf d 10
/-- IN_REL. [04_tile_commands.md Table 4.2] -/
def dInRel (d : Nat) : Bool := bitOf d 11
/-- OUT_EN. [04_tile_commands.md Table 4.2] -/
def dOutEn (d : Nat) : Bool := bitOf d 12
/-- IN_SLOT. [04_tile_commands.md Table 4.2] -/
def dIn (d : Nat) : Nat := bitsOf d 16 6
/-- OUT_SLOT. [04_tile_commands.md Table 4.2] -/
def dOut (d : Nat) : Nat := bitsOf d 24 6
/-- CLASS. [04_tile_commands.md Table 4.2] -/
def dClass (d : Nat) : Nat := bitsOf d 32 3
/-- DEADLINE, when DL_EN = 1. [04_tile_commands.md Table 4.2] -/
def dDeadline (d : Nat) : Option Nat := if bitOf d 35 then some (bitsOf d 48 16) else none
/-- TAG. [04_tile_commands.md Table 4.2] -/
def dTag (d : Nat) : Nat := bitsOf d 36 12

/-- The fields of the header. [04_tile_commands.md Table 4.2] -/
def headFields : List (Nat × Nat) :=
  [(0, 8), (8, 1), (9, 1), (10, 1), (11, 1), (12, 1), (16, 6), (24, 6), (32, 3), (35, 1), (36, 12), (48, 16)]

/-- The named body fields of an opcode. [04_tile_commands.md Tables 4.4 to 4.12] -/
def bodyFields (op : Nat) : List (Nat × Nat) :=
  if op = 0x03 then [(64, 20), (84, 16)]
  else if op = 0x10 then [(64, 16), (80, 16), (96, 4), (100, 1), (101, 1), (102, 1), (104, 7), (112, 8)]
  else if op = 0x12 then
    [(64, 16), (80, 16), (96, 16), (112, 7), (120, 8), (128, 8), (136, 1), (137, 1), (138, 2), (144, 32), (176, 1)]
  else if op = 0x20 then
    [(64, 16), (80, 16), (96, 16), (112, 16), (128, 16), (144, 8), (152, 4), (156, 4), (160, 32), (192, 64)]
  else if op = 0x30 ∨ op = 0x31 then [(64, 48), (112, 16), (128, 32), (160, 16), (176, 32), (208, 16)]
  else if op = 0x32 ∨ op = 0x33 then [(64, 48), (112, 16), (128, 16), (144, 16), (160, 16), (176, 2), (192, 32)]
  else if op = 0x34 then [(64, 16), (80, 16), (96, 32), (128, 6), (134, 1), (160, 4), (192, 18)]
  else if op = 0x35 then [(64, 16), (80, 20), (100, 8), (108, 4), (112, 9), (121, 2)]
  else if op = 0x40 then [(64, 48), (128, 48)]
  else []

/-- `x` is zero outside the fields. [00_scope.md R18] -/
def onlyFields (fs : List (Nat × Nat)) (x : Nat) : Bool := fs.foldl (fun y f => setBits y f.1 f.2 0) x = 0

/-! ### Spinel addresses -/

/-- Number of words of Spinel. [06_spinel_dma.md R142] -/
def spWords : Nat := 12288

/-- Word index of a Spinel address. [04_tile_commands.md R103] -/
def spaWord (a : Nat) : Nat := bitsOf a 0 14

/-- SHAPE of a Spinel address: 0 linear, 1 row, 2 column. [04_tile_commands.md R103] -/
def spaShape (a : Nat) : Nat := bitsOf a 14 2

/-- A Spinel address field in range. [04_tile_commands.md R103] -/
def spaOk (a : Nat) : Bool := decide (spaWord a < spWords) && decide (spaShape a ≠ 3)

/-- The start satisfies the condition of its shape. [06_spinel_dma.md R144] -/
def shapeOk (a : Nat) : Bool :=
  if spaShape a = 1 then spaWord a % 32 = 0
  else if spaShape a = 2 then spaWord a / 32 % 32 = 0
  else true

/-- Position of a word in the order of column shape: tile, column, row. [06_spinel_dma.md R144] -/
def colPos (w : Nat) : Nat := w / 1024 * 1024 + w % 32 * 32 + w / 32 % 32

/-- Word `k` that a walk from address `a` visits; 12,288 or more when the walk has passed the last word.
[06_spinel_dma.md R144] -/
def walkWord (a k : Nat) : Nat :=
  if spaShape a = 2 then colPos (colPos (spaWord a) + k) else spaWord a + k

/-- The `n` words of a walk from position `k` on. [06_spinel_dma.md R144] -/
def walkWords (a k n : Nat) : List Nat := (List.range n).map fun i => walkWord a (k + i)

/-- The walk of `n` words from `a` stays within Spinel, and `a` satisfies its shape. [06_spinel_dma.md R144] -/
def walkFits (a n : Nat) : Bool :=
  shapeOk a && decide ((if spaShape a = 2 then colPos (spaWord a) else spaWord a) + n ≤ spWords)

/-- Bank of a word. [06_spinel_dma.md R143] -/
def spBank (w : Nat) : Nat := (w / 32 % 32 + w % 32) % 32

/-- ⌈a / b⌉. -/
def ceilDiv (a b : Nat) : Nat := (a + b - 1) / b

/-! ### Body fields by unit -/

/-- Parameters of GARNET_LOAD. [04_tile_commands.md Table 4.5] -/
structure LoadP where
  src : Nat
  expSrc : Nat
  prec : Nat
  int1 : Bool
  page : Bool
  rowMajor : Bool
  first : Nat
  ncols : Nat
  deriving DecidableEq, Repr

/-- GARNET_LOAD. [04_tile_commands.md Table 4.5] -/
def loadP (d : Nat) : LoadP :=
  ⟨bitsOf d 64 16, bitsOf d 80 16, bitsOf d 96 4, bitOf d 100, bitOf d 101, bitOf d 102, bitsOf d 104 7, bitsOf d 112 8⟩

/-- Parameters of GARNET_RUN. [04_tile_commands.md Table 4.6] -/
structure RunP where
  act : Nat
  scl : Nat
  dst : Nat
  tokens : Nat
  ncols : Nat
  f : Int
  accStart : Bool
  accEnd : Bool
  form : Nat
  appTag : Nat
  appEn : Bool
  deriving DecidableEq, Repr

/-- GARNET_RUN. [04_tile_commands.md Table 4.6] -/
def runP (d : Nat) : RunP :=
  ⟨bitsOf d 64 16, bitsOf d 80 16, bitsOf d 96 16, bitsOf d 112 7, bitsOf d 120 8, sext 8 (bitsOf d 128 8),
    bitOf d 136, bitOf d 137, bitsOf d 138 2, bitsOf d 144 32, bitOf d 176⟩

/-- Parameters of BERYL_OP. [04_tile_commands.md Table 4.7] -/
structure BerylP where
  a : Nat
  b : Nat
  c : Nat
  dst : Nat
  len : Nat
  vop : Nat
  fin : Nat
  fout : Nat
  imm : Nat
  aux : Nat
  deriving DecidableEq, Repr

/-- BERYL_OP. [04_tile_commands.md Table 4.7] -/
def berylP (d : Nat) : BerylP :=
  ⟨bitsOf d 64 16, bitsOf d 80 16, bitsOf d 96 16, bitsOf d 112 16, bitsOf d 128 16, bitsOf d 144 8, bitsOf d 152 4,
    bitsOf d 156 4, bitsOf d 160 32, bitsOf d 192 64⟩

/-- Parameters of DMA_READ and DMA_WRITE. [04_tile_commands.md Table 4.8] -/
structure StrideP where
  va : Nat
  spa : Nat
  bytes : Nat
  rows : Nat
  vstride : Nat
  sstride : Nat
  deriving DecidableEq, Repr

/-- DMA_READ and DMA_WRITE. [04_tile_commands.md Table 4.8] -/
def strideP (d : Nat) : StrideP :=
  ⟨bitsOf d 64 48, bitsOf d 112 16, bitsOf d 128 32, bitsOf d 160 16, bitsOf d 176 32, bitsOf d 208 16⟩

/-- Parameters of DMA_GATHER and DMA_SCATTER. [04_tile_commands.md Table 4.9] -/
structure GatherP where
  va : Nat
  spa : Nat
  idx : Nat
  count : Nat
  elem : Nat
  fmt : Nat
  stride : Nat
  deriving DecidableEq, Repr

/-- DMA_GATHER and DMA_SCATTER. [04_tile_commands.md Table 4.9] -/
def gatherP (d : Nat) : GatherP :=
  ⟨bitsOf d 64 48, bitsOf d 112 16, bitsOf d 128 16, bitsOf d 144 16, bitsOf d 160 16, bitsOf d 176 2, bitsOf d 192 32⟩

/-- Parameters of DMA_MULTICAST. [04_tile_commands.md Table 4.10] -/
structure McastP where
  src : Nat
  dst : Nat
  bytes : Nat
  slot : Nat
  slotEn : Bool
  region : Nat
  mask : Nat
  deriving DecidableEq, Repr

/-- DMA_MULTICAST. [04_tile_commands.md Table 4.10] -/
def mcastP (d : Nat) : McastP :=
  ⟨bitsOf d 64 16, bitsOf d 80 16, bitsOf d 96 32, bitsOf d 128 6, bitOf d 134, bitsOf d 160 4, bitsOf d 192 18⟩

/-- Parameters of KV_APPEND. [04_tile_commands.md Table 4.11] -/
structure KvP where
  src : Nat
  seq : Nat
  layer : Nat
  kvhead : Nat
  ntok : Nat
  part : Nat
  deriving DecidableEq, Repr

/-- KV_APPEND. [04_tile_commands.md Table 4.11] -/
def kvP (d : Nat) : KvP :=
  ⟨bitsOf d 64 16, bitsOf d 80 20, bitsOf d 100 8, bitsOf d 108 4, bitsOf d 112 9, bitsOf d 121 2⟩

/-- PROG_VA and ARG_VA of JASPER_START. [04_tile_commands.md Table 4.12] -/
def jasperP (d : Nat) : Nat × Nat := (bitsOf d 64 48, bitsOf d 128 48)

/-! ### Ranges that Collie checks -/

/-- Most bytes of one transfer: the size of Spinel. [04_tile_commands.md Table 4.8] -/
def spBytes : Nat := 393216

/-- The field ranges of Tables 4.4 to 4.12 that check 2 of R102 covers hold. The ranges of PREC, TOKENS, NCOLS, FIRST_COL
and OUT_FORM are Garnet's (R65), and IDX_FMT is the DMA engine's (Table 6.6). [04_tile_commands.md R102, R103] -/
def bodyOk (log2 : Nat) (d : Nat) : Bool :=
  let op := dOp d
  if op = 0x03 then decide (0 < bitsOf d 64 20) && decide (bitsOf d 64 20 < 2 ^ log2)
  else if op = 0x10 then spaOk (loadP d).src && spaOk (loadP d).expSrc
  else if op = 0x12 then spaOk (runP d).act && spaOk (runP d).scl && spaOk (runP d).dst
  else if op = 0x20 then
    spaOk (berylP d).a && spaOk (berylP d).b && spaOk (berylP d).c && spaOk (berylP d).dst && decide (0 < (berylP d).len)
  else if op = 0x30 ∨ op = 0x31 then
    let x := strideP d
    decide (x.va % 32 = 0) && spaOk x.spa && decide (x.bytes % 32 = 0) && decide (32 ≤ x.bytes)
      && decide (x.bytes ≤ spBytes) && decide (0 < x.rows) && decide (x.vstride % 32 = 0)
      && decide (x.bytes * x.rows ≤ spBytes)
  else if op = 0x32 ∨ op = 0x33 then
    let x := gatherP d
    spaOk x.spa && spaOk x.idx && decide (0 < x.count) && decide (x.elem % 32 = 0) && decide (32 ≤ x.elem)
      && decide (x.elem ≤ 32768) && decide (x.stride % 32 = 0) && decide (x.elem * x.count ≤ spBytes)
  else if op = 0x34 then
    let x := mcastP d
    spaOk x.src && spaOk x.dst && decide (x.bytes % 32 = 0) && decide (32 ≤ x.bytes) && decide (x.bytes ≤ spBytes)
  else if op = 0x35 then
    let x := kvP d
    spaOk x.src && decide (0 < x.ntok) && decide (x.ntok ≤ 256) && decide (x.part ≠ 0)
  else true

/-! ### Beryl operand sizes (Table 5.1, Table 5.2) -/

/-- Element size in bytes of a Beryl format code. [05_beryl_vector.md Table 5.1] -/
def fmtSize (f : Nat) : Nat :=
  if f = 0 then 4 else if f = 1 then 2 else if f = 2 then 1 else if f = 3 then 16 else 4

/-- The operation reads operand B. [05_beryl_vector.md Table 5.2, R132, R135] -/
def vopUsesB (v : Nat) : Bool :=
  v = 0x01 || v = 0x02 || v = 0x03 || v = 0x04 || v = 0x06 || v = 0x07 || v = 0x18 || v = 0x31 || v = 0x32 || v = 0x40
    || v = 0x50

/-- The operation reads operand C. [05_beryl_vector.md Table 5.2, R132] -/
def vopUsesC (v : Nat) : Bool := v = 0x04 || v = 0x32

/-- The operation is a row operation with N in IMM[15:0]. [05_beryl_vector.md Table 5.2] -/
def vopRow (v : Nat) : Bool :=
  v = 0x20 || v = 0x21 || v = 0x22 || v = 0x23 || v = 0x30 || v = 0x31 || v = 0x32 || v = 0x33 || v = 0x50

/-- Row length N. [05_beryl_vector.md Table 5.2] -/
def berylN (x : BerylP) : Nat := x.imm % 65536

/-- Number of rows R. [05_beryl_vector.md R122] -/
def berylRows (x : BerylP) : Nat := x.len / berylN x

/-- Words that operand A occupies. [05_beryl_vector.md R122] -/
def wordsA (x : BerylP) : Nat := ceilDiv (x.len * fmtSize x.fin) 32

/-- Words that operand B occupies: N gains for a normalisation, one record a row for SAMPLE, else LEN elements.
[05_beryl_vector.md R122, R132, R135] -/
def wordsB (x : BerylP) : Nat :=
  if x.vop = 0x50 then berylRows x
  else if x.vop = 0x31 ∨ x.vop = 0x32 then ceilDiv (berylN x * fmtSize x.fin) 32
  else wordsA x

/-- Words that operand C occupies. [05_beryl_vector.md R122, R132] -/
def wordsC (x : BerylP) : Nat := if x.vop = 0x32 then ceilDiv (berylN x * fmtSize x.fin) 32 else wordsA x

/-- Bytes of an index of IDX_FMT. [06_spinel_dma.md Table 6.6] -/
def idxSize (f : Nat) : Nat := if f = 1 then 2 else 4

/-- The operands in Spinel that a command reads, as (address, first position, words). [04_tile_commands.md R112] -/
def readRuns (d : Nat) : List (Nat × Nat × Nat) :=
  let op := dOp d
  if op = 0x10 then
    let x := loadP d
    [(x.src, 0, ceilDiv (x.ncols * 16 * x.prec) 32), (x.expSrc, 0, if x.page then 1 else ceilDiv x.ncols 32)]
  else if op = 0x12 then
    let x := runP d
    [(x.act, 0, x.tokens * 4), (x.scl, 0, ceilDiv (x.tokens * 2) 32)]
  else if op = 0x20 then
    let x := berylP d
    [(x.a, 0, wordsA x)] ++ (if vopUsesB x.vop then [(x.b, 0, wordsB x)] else [])
      ++ (if vopUsesC x.vop then [(x.c, 0, wordsC x)] else [])
  else if op = 0x31 then
    let x := strideP d
    (List.range x.rows).map fun i => (x.spa, i * x.sstride, x.bytes / 32)
  else if op = 0x32 then
    let x := gatherP d
    [(x.idx, 0, ceilDiv (x.count * idxSize x.fmt) 32)]
  else if op = 0x33 then
    let x := gatherP d
    [(x.idx, 0, ceilDiv (x.count * idxSize x.fmt) 32), (x.spa, 0, x.count * (x.elem / 32))]
  else if op = 0x34 then [((mcastP d).src, 0, (mcastP d).bytes / 32)]
  else if op = 0x35 then [((kvP d).src, 0, (kvP d).ntok * (if (kvP d).part = 3 then 8 else 4))]
  else []

/-- Lowest and highest of a list of words, if any. -/
def spanOf : List Nat → Option (Nat × Nat)
  | [] => none
  | w :: ws =>
    match spanOf ws with
    | none => some (w, w)
    | some (a, b) => some (min w a, max w b)

/-- The words of Spinel that a command reads, in the order of its operands. [04_tile_commands.md R112] -/
def readWords (d : Nat) : List Nat :=
  ((readRuns d).flatMap fun r => walkWords r.1 r.2.1 r.2.2).filter fun w => decide (w < spWords)

/-- The span from the lowest to the highest Spinel word the command reads. [04_tile_commands.md R112] -/
def readSpan (d : Nat) : Option (Nat × Nat) := spanOf (readWords d)

/-! ### Targets (Table 4.1, Table 4.3) -/

/-- The unit queue of an opcode, as numbered in Table 4.1 (0 weight port, 1 execute path, 2 Beryl, 3 DMA, 4 bank-edge
unit); none for a Collie command. [04_tile_commands.md Table 4.1] -/
def unitOf (op : Nat) : Option TUnit :=
  if op = 0x10 then some .load
  else if op = 0x11 ∨ op = 0x12 then some .exec
  else if op = 0x20 then some .beryl
  else if 0x30 ≤ op ∧ op ≤ 0x35 then some .dma
  else if op = 0x40 then some .jasper
  else none

/-- Depth of a unit queue. [04_tile_commands.md Table 4.1] -/
def depthOf : TUnit → Nat
  | .load => 2
  | .exec => 4
  | .beryl => 4
  | .dma => 16
  | .jasper => 1

/-- UNIT code of TILE_FAULT. [04_tile_commands.md Table 4.19] -/
def unitCode : TUnit → Nat
  | .load => 1
  | .exec => 2
  | .beryl => 3
  | .dma => 4
  | .jasper => 5

/-- The queue a number of 0 to 4 names. [04_tile_commands.md Table 4.1] -/
def unitNo : Nat → TUnit
  | 0 => .load
  | 1 => .exec
  | 2 => .beryl
  | 3 => .dma
  | _ => .jasper

/-- An opcode of Table 4.3. [04_tile_commands.md Table 4.3] -/
def opKnown (op : Nat) : Bool :=
  decide (op ≤ 0x04) || (decide (0x10 ≤ op) && decide (op ≤ 0x12)) || op = 0x20
    || (decide (0x30 ≤ op) && decide (op ≤ 0x35)) || op = 0x40

/-- The IN_EN and OUT_EN bits Table 4.3 allows: (IN_EN may be 0, may be 1, OUT_EN may be 0, may be 1).
[04_tile_commands.md Table 4.3] -/
def enAllowed (op : Nat) : Bool × Bool × Bool × Bool :=
  if op = 0x01 then (false, true, true, false)
  else if op = 0x02 then (true, false, false, true)
  else if op = 0x10 ∨ op = 0x31 ∨ op = 0x33 ∨ op = 0x34 ∨ op = 0x35 then (true, true, true, false)
  else if op = 0x12 ∨ op = 0x20 ∨ op = 0x32 ∨ op = 0x40 then (true, true, true, true)
  else if op = 0x30 then (true, false, true, true)
  else (true, false, true, false)

/-- The enable bits of a descriptor are allowed. [04_tile_commands.md R102 check 3] -/
def enOk (d : Nat) : Bool :=
  let a := enAllowed (dOp d)
  (if dInEn d then a.2.1 else a.1) && (if dOutEn d then a.2.2.2 else a.2.2.1) && (dInEn d || !dInRel d)

end Sys2Proof.Machine
end

