-- ==== Sys2Proof/Machine/Spinel.lean ====
section
/-! DEFINITION. Spinel's words: data, check bytes and tags, as they are written and read (R149, R150). -/

namespace Sys2Proof.Machine

/-! ### The two ports (R145 to R148) -/

/-- Word `w` follows word `v` in the same beat: the next one of its row, or of its column where the walk goes down columns.
[06_spinel_dma.md R145] -/
def follows (col : Bool) (v w : Nat) : Bool :=
  if col then w = v + 32 && w / 1024 = v / 1024 else w = v + 1 && w / 32 = v / 32

/-- The beats of a walk: each runs to the end of the row or column that it stands in. [06_spinel_dma.md R145] -/
def beatsOf (col : Bool) : List Nat → List (List Nat)
  | [] => []
  | w :: ws =>
    match beatsOf col ws with
    | (v :: r) :: l => if follows col w v then (w :: v :: r) :: l else [w] :: (v :: r) :: l
    | _ => [[w]]

/-- The beats of words walked in the SHAPE of an address. [06_spinel_dma.md R144, R145] -/
def shapeBeats (a : Nat) (ws : List Nat) : List (List Nat) := beatsOf (spaShape a = 2) ws

/-- The beats of `n` words of an operand from position `k` on. [06_spinel_dma.md R145] -/
def walkBeats (a k n : Nat) : List (List Nat) := shapeBeats a (walkWords a k n)

/-- The banks that words touch, as a mask. [06_spinel_dma.md R143] -/
def bankMask (ws : List Nat) : Nat := ws.foldl (fun m w => setBits m (spBank w) 1 1) 0

/-- Beats that a requester of some rank of Table 6.1 asks of the E port. [06_spinel_dma.md R146] -/
def ePort (s : State) (p rank : Nat) (beats : List (List Nat)) : State :=
  if beats.isEmpty then s
  else onTile s p fun t => { t with ePorts := t.ePorts ++ [⟨rank, beats.map bankMask, 0⟩] }

/-- Beats that a requester of some rank of Table 6.2 asks of the D port. [06_spinel_dma.md R147] -/
def dPort (s : State) (p rank : Nat) (beats : List (List Nat)) : State :=
  if beats.isEmpty then s
  else onTile s p fun t => { t with dPorts := t.dPorts ++ [⟨rank, beats.map bankMask, 0⟩] }

/-- Order of a requester: one refused for 8 consecutive ACLK first, then by rank. [06_spinel_dma.md R146, R147] -/
def portKey (r : PortReq) : Nat := (if 8 ≤ r.refused then 0 else 8) + r.rank

/-- The requester that goes first of those that `ok` lets, by its place; the one that asked first of equals.
[06_spinel_dma.md R146, R147] -/
def portPick (ok : PortReq → Bool) (l : List PortReq) : Option Nat :=
  ((l.zipIdx.filter fun x => ok x.1).foldl
    (fun b x => match b with
      | some y => if portKey x.1 < portKey y.1 then some x else b
      | none => some x) none).map fun x => x.2

/-- The banks of the beat that a requester asks for. -/
def headBeat (r : PortReq) : Nat := r.beats.headD 0

/-- The banks of the beat granted at a place. -/
def grantedBeat (l : List PortReq) (i : Option Nat) : Nat := match i with
  | some k => ((l[k]?).map headBeat).getD 0
  | none => 0

/-- The requesters after a grant: the one at the place has moved its beat, the others were refused. [06_spinel_dma.md R146] -/
def portGrant (l : List PortReq) (i : Option Nat) : List PortReq :=
  ((l.zipIdx.map fun x => if some x.2 = i then { x.1 with beats := x.1.beats.drop 1, refused := 0 }
    else { x.1 with refused := x.1.refused + 1 }).filter fun r => !r.beats.isEmpty)

/-- One ACLK of the two ports: a deferred D beat completes, and refuses every E beat that would touch one of its banks; otherwise
each port grants one beat, and a D beat that meets the banks of the E beat is deferred. [06_spinel_dma.md R146 to R148] -/
def portStep (s : State) (p : Nat) : State :=
  let t := tileOf s p
  match t.dDefer with
  | some m =>
    let meets := fun r => decide (Nat.land m (headBeat r) ≠ 0)
    let i := portPick (fun r => !meets r) t.ePorts
    let s := onTile s p fun t => { t with ePorts := portGrant t.ePorts i, dPorts := portGrant t.dPorts none, dDefer := none }
    let n := (t.ePorts.filter meets).length
    if n = 0 then s else bumpN s TILE_SPINEL_E_REFUSE_COUNT n p
  | none =>
    let i := portPick (fun _ => true) t.ePorts
    let j := portPick (fun _ => true) t.dPorts
    let hit := decide (Nat.land (grantedBeat t.ePorts i) (grantedBeat t.dPorts j) ≠ 0)
    if t.ePorts.isEmpty && t.dPorts.isEmpty then s
    else
      let s := onTile s p fun u => { u with
        ePorts := portGrant u.ePorts i
        dPorts := portGrant u.dPorts j
        dDefer := if hit then some (grantedBeat t.dPorts j) else none }
      if hit then bump s TILE_SPINEL_D_DEFER_COUNT p else s

/-! ### Words -/

/-- Key of a word of tile `p`. -/
def spKey (p w : Nat) : Nat := p * 12288 + w

/-- Stored tag of a word. [06_spinel_dma.md R149] -/
def spTagOf (s : State) (p w : Nat) : Nat := (memGet s.spTag (spKey p w)).toNat % 4

/-- An uncorrectable error of the word as it stands has been found by a read. [06_spinel_dma.md R149] -/
def spFound (s : State) (p w : Nat) : Bool := decide (4 ≤ (memGet s.spTag (spKey p w)).toNat)

/-- Stored bytes of a word, uncorrected. [06_spinel_dma.md R142] -/
def spRaw (s : State) (p w : Nat) : List Byte := memRead s.spData (spKey p w * 32) 32

/-- Quarter `q` of 32 bytes. [06_spinel_dma.md R149] -/
def quarterOf (bs : List Byte) (q : Nat) : Nat := leNat ((bs.drop (q * 8)).take 8)

/-- The check bytes of 32 bytes, one per quarter. [06_spinel_dma.md R149; 08_ecc_repair.md R189] -/
def spChecks (bs : List Byte) : List Byte := (List.range 4).map fun q => BitVec.ofNat 8 (lightCheck (quarterOf bs q))

/-- Data bits 0, or 0 and 1, of quarter 0 inverted. [06_spinel_dma.md Table 6.9] -/
def spoil (double : Bool) : List Byte → List Byte
  | [] => []
  | b :: bs => (b ^^^ (if double then 3 else 1)) :: bs

/-- A write of one word with its tag, with the injected error of TILE_SPINEL_CTRL when it is armed for the word.
[06_spinel_dma.md R149, Table 6.9] -/
def spWrite (s : State) (p w : Nat) (data : List Byte) (tag : Nat) : State :=
  let inj := fbit s TILE_SPINEL_CTRL__INJ_ARM p && fget s TILE_SPINEL_CTRL__INJ_WORD p = w
  let stored := if inj then spoil (fbit s TILE_SPINEL_CTRL__INJ_DOUBLE p) data else data
  let s := { s with
    spData := memWrite s.spData (spKey p w * 32) stored
    spChk := memWrite s.spChk (spKey p w * 4) (spChecks data)
    spTag := memSet s.spTag (spKey p w) (BitVec.ofNat 8 (tag % 4)) }
  if inj then fset s TILE_SPINEL_CTRL__INJ_ARM 0 p else s

/-- What a read of a word gives: the data, the tag that was stored, and the lowest uncorrectable quarter first found
by this read. -/
structure SpRead where
  data : List Byte
  tag : Nat
  ue : Option Nat
  deriving DecidableEq, Repr

/-- The outcome of the light code on each quarter of a word. [06_spinel_dma.md R149] -/
def spDecode (s : State) (p w : Nat) : List (Nat × LightOut) :=
  let raw := spRaw s p w
  let chk := memRead s.spChk (spKey p w * 4) 4
  (List.range 4).map fun q => (quarterOf raw q, lightDecode (quarterOf raw q) (chk.getD q 0).toNat)

/-- The delivered value of a quarter. -/
def quarterOut (x : Nat × LightOut) : Nat :=
  match x.2 with
  | .corrected d => d
  | _ => x.1

/-- The quarter was corrected. -/
def quarterCe (x : Nat × LightOut) : Bool :=
  match x.2 with
  | .corrected _ => true
  | _ => false

/-- A read of one word through the light code, whatever its tag: corrections are counted; an uncorrectable quarter makes the tag X
and is logged. A word found so keeps that mark beside its tag, and later reads of it are handled by R150.
[06_spinel_dma.md R149, R150] -/
def spRead (s : State) (p w : Nat) : State × SpRead :=
  let tag := spTagOf s p w
  let qs := spDecode s p w
  let data := qs.flatMap fun x => leBytes 8 (quarterOut x)
  let ce := (qs.filter quarterCe).length
  let ue := (qs.filter fun x => x.2 = .bad).length
  let s := if ce = 0 then s else bumpN s TILE_SPINEL_CE_COUNT ce p
  if ue = 0 ∨ spFound s p w then (s, ⟨data, tag, none⟩)
  else
    let q := qs.findIdx fun x => x.2 = .bad
    let s := bumpN s TILE_SPINEL_UE_COUNT ue p
    let s := { s with spTag := memSet s.spTag (spKey p w) 7 }
    let s :=
      if fbit s TILE_SPINEL_ECC_LOG__VALID p then fset s TILE_SPINEL_ECC_LOG__MULTI 1 p
      else
        let s := fset s TILE_SPINEL_ECC_LOG__WORD w p
        let s := fset s TILE_SPINEL_ECC_LOG__QUARTER q p
        let s := fset s TILE_SPINEL_ECC_LOG__BANK (spBank w) p
        fset s TILE_SPINEL_ECC_LOG__VALID 1 p
    (s, ⟨data, 3, some q⟩)

/-- What a run of reads gives: the bytes of the words up to the first that is tagged or uncorrectable, and that word. -/
structure SpRun where
  bytes : List Byte
  stop : Option (Nat × SpRead)
  deriving DecidableEq, Repr

/-- Words read in order; the run stops at the first word whose tag is not clean. [06_spinel_dma.md R149, R150] -/
def spReadRun (s : State) (p : Nat) : List Nat → State × SpRun
  | [] => (s, ⟨[], none⟩)
  | w :: ws =>
    let r := spRead s p w
    if r.2.tag ≠ 0 then (r.1, ⟨[], some (w, r.2)⟩)
    else
      let x := spReadRun r.1 p ws
      (x.1, ⟨r.2.data ++ x.2.bytes, x.2.stop⟩)

/-- Words read in order for a transfer: every word with its tag, and the first uncorrectable one. [06_spinel_dma.md R150] -/
def spReadAll (s : State) (p : Nat) : List Nat → State × List SpRead
  | [] => (s, [])
  | w :: ws =>
    let r := spRead s p w
    let x := spReadAll r.1 p ws
    (x.1, r.2 :: x.2)

/-- Words written in order from a byte list, clean, the last filled up with zeros. [05_beryl_vector.md R122] -/
def spWriteRun (s : State) (p : Nat) : List Nat → List Byte → State
  | [], _ => s
  | w :: ws, bs =>
    let here := bs.take 32
    spWriteRun (spWrite s p w (here ++ List.replicate (32 - here.length) 0) 0) p ws (bs.drop 32)

end Sys2Proof.Machine
end

