-- ==== Sys2Proof/Machine/Stop.lean ====
section
/-! DEFINITION. Slot tokens at completion and abort (Table 4.14), the stop sequence of a tile and the raising of a tile
fault (R116 to R118), shared by every unit of a tile. -/

namespace Sys2Proof.Machine

/-! ### Queues -/

/-- The queue of a unit. [04_tile_commands.md R99] -/
def queueOf (t : Tile) : TUnit → List Cmd
  | .load => t.qLoad
  | .exec => t.qExec
  | .beryl => t.qBeryl
  | .dma => t.qDma
  | .jasper => t.qJasper

/-- A tile with the queue of a unit replaced. [04_tile_commands.md R99] -/
def setQueue (t : Tile) (u : TUnit) (q : List Cmd) : Tile :=
  match u with
  | .load => { t with qLoad := q }
  | .exec => { t with qExec := q }
  | .beryl => { t with qBeryl := q }
  | .dma => { t with qDma := q }
  | .jasper => { t with qJasper := q }

/-- The five queues. -/
def allUnits : List TUnit := [.load, .exec, .beryl, .dma, .jasper]

/-- `s` with the command of serial number `n` in a queue of tile `p` changed by `f`. -/
def onCmd (s : State) (p : Nat) (u : TUnit) (n : Nat) (f : Cmd → Cmd) : State :=
  onTile s p fun t => setQueue t u (mapIf (fun c => c.serial = n) f (queueOf t u))

/-- `s` with the command of serial number `n` removed from a queue of tile `p`. -/
def dropCmd (s : State) (p : Nat) (u : TUnit) (n : Nat) : State :=
  onTile s p fun t => setQueue t u ((queueOf t u).filter fun c => c.serial ≠ n)

/-- The oldest command of a queue that is in the given phase. -/
def firstIn (t : Tile) (u : TUnit) (ph : Phase) : Option Cmd := (queueOf t u).find? fun c => c.phase = ph

/-- The command of serial number `n` in a queue. -/
def cmdBy (t : Tile) (u : TUnit) (n : Nat) : Option Cmd := (queueOf t u).find? fun c => c.serial = n

/-- The first command of a list in phase queued is stamped as the next to begin. -/
def stampFirst (a : Nat) : List Cmd → List Cmd
  | [] => []
  | c :: cs =>
    if c.phase = .queued then (if c.headAt.isNone then { c with headAt := some a } else c) :: cs
    else c :: stampFirst a cs

/-- The next command of a queue becomes the next to begin; the weight port accepts one load at a time.
[03_garnet_array.md R67, R69, R70] -/
def stampNext (t : Tile) (u : TUnit) : Tile :=
  if u = .load && (queueOf t u).any (fun c => c.phase = .active) then t
  else setQueue t u (stampFirst t.aclk (queueOf t u))

/-- Every unit queue is empty and nothing is in flight: no command, no append and no program. [04_tile_commands.md R117] -/
def tileQuiet (t : Tile) : Bool :=
  t.qLoad.isEmpty && t.qExec.isEmpty && t.qBeryl.isEmpty && t.qDma.isEmpty && t.qJasper.isEmpty && t.appends.isEmpty
    && t.garnet.outs.isEmpty && t.jprog.isNone

/-- QUIET follows the queues. [04_tile_commands.md Table 4.17] -/
def updQuiet (s : State) (p : Nat) : State := fset s TILE_COLLIE_STATUS__QUIET (flag (tileQuiet (tileOf s p))) p

/-! ### Tile state -/

/-- STATE of a tile: 0 IDLE, 1 RUN, 2 STOPPING, 3 STOPPED. [04_tile_commands.md Table 4.17] -/
def tileState (s : State) (p : Nat) : Nat := fget s TILE_COLLIE_STATUS__STATE p

/-- STATE changes, and CTRL.RUN reads 1 while it is RUN or STOPPING; outside RUN no stream is token-blocked. [04_tile_commands.md Tables 4.16, 4.17] -/
def setTileState (s : State) (p st : Nat) : State :=
  let s := fset (fset s TILE_COLLIE_STATUS__STATE st p) TILE_COLLIE_CTRL__RUN (flag (st = 1 || st = 2)) p
  if st = 1 then s
  else
    let s := forS (List.range 16) (fun k st => if fget st TILE_STREAM_STATUS__STATE p k = 2 then
      fset (fset st TILE_STREAM_STATUS__STATE 1 p k) TILE_STREAM_STATUS__BLOCK_US 0 p k else st) s
    forS (List.range 64) (fun k st => fset (fset st TILE_SLOT_STATE__P_WAIT 0 p k) TILE_SLOT_STATE__C_WAIT 0 p k)
    (fset s TILE_COLLIE_STATUS__BLOCK_MASK 0 p)

/-! ### Slot tokens -/

/-- State of slot `k` of tile `p`: 0 EMPTY, 1 FILLING, 2 FULL, 3 DRAINING. [04_tile_commands.md Table 4.13] -/
def slotState (s : State) (p k : Nat) : Nat := fget s TILE_SLOT_STATE__STATE p k

/-- The state of a slot changes. [04_tile_commands.md R108] -/
def setSlot (s : State) (p k st : Nat) : State := fset s TILE_SLOT_STATE__STATE st p k

/-- Token transitions of a command that completes OK. [04_tile_commands.md Table 4.14] -/
def tokensOk (s : State) (p d : Nat) : State :=
  let s := if dOutEn d && slotState s p (dOut d) = 1 then setSlot s p (dOut d) 2 else s
  if dInEn d && slotState s p (dIn d) = 3 then setSlot s p (dIn d) (if dInRel d then 0 else 2) else s

/-- Token transitions of a command that completes FAIL, or is discarded or stopped by an abort.
[04_tile_commands.md Table 4.14] -/
def tokensFail (s : State) (p d : Nat) : State :=
  let s := if dOutEn d && slotState s p (dOut d) = 1 then fset (setSlot s p (dOut d) 0) TILE_SLOT_STATE__ERR 1 p (dOut d) else s
  if dInEn d && slotState s p (dIn d) = 3 then setSlot s p (dIn d) 2 else s

/-- One command of stream `k` has completed or been discarded. [04_tile_commands.md R97] -/
def oneOut (s : State) (p k : Nat) : State := onStream s p k fun x => { x with out := x.out - 1 }

/-- A command is discarded or stopped by an abort: it does not complete and posts nothing. [04_tile_commands.md R100] -/
def discardCmd (s : State) (p : Nat) (u : TUnit) (c : Cmd) : State :=
  oneOut (tokensFail (dropCmd s p u c.serial) p c.desc) p c.stream

/-! ### DMA status -/

/-- A failure keeps its first cause. [06_spinel_dma.md R158] -/
def failPart (n err : Nat) (parts : List Part) : List Part :=
  listModify (fun x => if x.err = 0 then { x with err := err } else x) n parts

/-- Some traffic of part `n` will never be issued. [06_spinel_dma.md R158, Table 6.7] -/
def cutPart (parts : List Part) (n : Nat) : List Part := listModify (fun x => { x with cut := true }) n parts

/-- The status word of a DMA command. [06_spinel_dma.md Table 6.7] -/
def dmaStatus (c : Cmd) (ok : Bool) : Nat :=
  let bits := c.parts.zipIdx
  let okMask := sumNat (bits.map fun x => if x.1.err = 0 && !x.1.cut then 2 ^ x.2 else 0)
  let used := 2 ^ c.parts.length - 1
  let bad := bits.find? fun x => x.1.err ≠ 0
  let first := match bad with
    | some x => x.2
    | none => 0
  let err := if c.stopped then 6 else match bad with
    | some x => x.1.err
    | none => 0
  okMask + used * 2 ^ 16 + first * 2 ^ 32 + err * 2 ^ 36 + flag c.ovf * 2 ^ 40 + flag c.poison * 2 ^ 41 + flag ok * 2 ^ 42

/-- An aborted DMA command whose bursts have all ended is stopped, with ERR = 6 in its status word.
[06_spinel_dma.md R160] -/
def dmaStopDone (s : State) (p : Nat) (c : Cmd) : State :=
  let s := rset s TILE_DMA_LAST (dmaStatus { c with stopped := true } false) p (c.stream % 16)
  discardCmd s p .dma c

/-! ### The abort of each unit -/

/-- A queued command is discarded. [04_tile_commands.md R117] -/
def abortQueued (s : State) (p : Nat) (u : TUnit) : State :=
  forS ((queueOf (tileOf s p) u).filter fun c => c.phase = .queued) (fun c st => discardCmd st p u c) s

/-- The physical bank that is shadow is changed by `f`. [03_garnet_array.md R62] -/
def onShadow (g : Garnet) (f : Bank → Bank) : Garnet :=
  if g.active1 then { g with set0 := f g.set0 } else { g with set1 := f g.set1 }

/-- Garnet on a tile abort: commands not begun are discarded, a load in progress stops and leaves the shadow bank not
loaded, the open group closes without results, HALTED clears; a run whose results are being written completes.
[03_garnet_array.md R87] -/
def abortGarnet (s : State) (p : Nat) : State :=
  let s := abortQueued (abortQueued s p .load) p .exec
  let s := match firstIn (tileOf s p) .load .active with
    | some c =>
      discardCmd (onTile s p fun t => { t with garnet := onShadow t.garnet fun b => { b with loaded := false } }) p .load c
    | none => s
  onTile s p fun t => { t with garnet := { t.garnet with group := none, halted := false } }

/-- The bursts of the DMA engine's commands that wait at the source are given up; an append that loses one is not written whole.
Those of a run that completes in full stay. [06_spinel_dma.md R160; 03_garnet_array.md R87] -/
def dropUnsent (t : Tile) : Tile :=
  let mine := t.qDma.flatMap (fun c => c.pend) ++ (t.appends.filter fun a => a.unit = .dma).flatMap (fun a => a.pend)
  let gone := (mine.filter fun x => t.waiting.any fun m => m.txn = x.id).map fun x => x.id
  let keep := fun (l : List Pend) => l.filter fun x => !gone.contains x.id
  let cut := fun (c : Cmd) (l : List Pend) (ps : List Part) =>
    (l ++ (t.appends.filter fun a => a.unit = .dma && a.cmd = c.serial).flatMap (fun a => a.pend)).foldl
      (fun ps x => if gone.contains x.id then cutPart ps x.part else ps) ps
  { t with
    waiting := t.waiting.filter fun m => !gone.contains m.txn
    qDma := t.qDma.map fun c => { c with parts := cut c c.pend c.parts, pend := keep c.pend }
    appends := t.appends.map fun a => { a with pend := keep a.pend, bad := a.bad || a.pend.any fun x => gone.contains x.id } }

/-- The DMA engine on a tile abort: queued commands are discarded, bursts that have not left and appends of its commands that
Topaz has not resolved are dropped, and an active command is stopped once its bursts have ended. [06_spinel_dma.md R160] -/
def abortDma (s : State) (p : Nat) : State :=
  let s := onTile (abortQueued s p .dma) p dropUnsent
  let gone := ((tileOf s p).appends.filter fun a => a.unit = .dma && a.res.isNone).map fun a => a.id
  let s := onTile s p fun t => { t with
    appends := t.appends.filter fun a => !gone.contains a.id
    qDma := t.qDma.map fun c => { c with apps := c.apps.filter fun a => !gone.contains a } }
  forS ((tileOf s p).qDma.filter fun c => c.phase = .active)
    (fun c st =>
      if c.faulted then st
      else if c.pend.isEmpty && c.apps.isEmpty then dmaStopDone st p c
      else onCmd st p .dma c.serial fun x => { x with stopped := true }) s

/-- The bank-edge unit on a tile abort: no step starts, the group is discarded, the lock is released and the command is
stopped; steps are indivisible here. [09_jasper.md R233] -/
def abortJasper (s : State) (p : Nat) : State :=
  let s := abortQueued s p .jasper
  let s := onTile s p fun t => { t with jprog := none }
  let s :=
    if 8 ≤ p / 18 then
      let s := rset s REGION_JASPER_CTX 0 (p / 18) (p % 18)
      fset s REGION_JASPER_STATUS__RUN_MASK (setBits (fget s REGION_JASPER_STATUS__RUN_MASK (p / 18)) (p % 18) 1 0) (p / 18)
    else s
  match firstIn (tileOf s p) .jasper .active with
  | some c => discardCmd s p .jasper c
  | none => s

/-- Collie signals abort to every unit. [04_tile_commands.md R117] -/
def abortUnits (s : State) (p : Nat) : State := updQuiet (abortJasper (abortDma (abortQueued (abortGarnet s p) p .beryl) p) p) p

/-! ### Faults -/

/-- Class H codes. [15_fault_tolerance.md Table 15.1] -/
def classH (code : Nat) : Bool :=
  code = 0x03 || code = 0x0F || code = 0x10 || code = 0x41 || code = 0x4D || code = 0x60 || code = 0x68

/-- The command a fault concerns: its stream, ring index and TAG. [04_tile_commands.md R116] -/
structure FaultCmd where
  stream : Nat
  idx : Nat
  tag : Nat
  deriving DecidableEq, Repr

/-- The command fields of a queue entry. -/
def cmdRef (c : Cmd) : FaultCmd := ⟨c.stream, c.idx, dTag c.desc⟩

/-- The command fields of a fault that concerns no command of the tile: free values (log 7). -/
def noCmdRef (s : State) : FaultCmd :=
  ⟨Config.noCommand 0 (now s), Config.noCommand 1 (now s), Config.noCommand 2 (now s)⟩

/-- The fault record. [04_tile_commands.md Table 4.19] -/
def faultWord (code unit : Nat) (x : FaultCmd) : Nat :=
  1 + flag (classH code) * 4 + code * 2 ^ 8 + x.stream % 16 * 2 ^ 16 + unit * 2 ^ 20 + x.idx % 2 ^ 20 * 2 ^ 24
    + x.tag % 2 ^ 12 * 2 ^ 44

/-- Step 2 of R117: the fault is recorded, or MULTI is set; it is counted in either case. [04_tile_commands.md R117] -/
def recordFault (s : State) (p code unit : Nat) (x : FaultCmd) (info : Nat) : State :=
  let s := bump s TILE_FAULT_COUNT p
  if fbit s TILE_FAULT__VALID p then fset s TILE_FAULT__MULTI 1 p
  else
    let s := rset s TILE_FAULT (faultWord code unit x) p
    let s := rset s TILE_FAULT_INFO info p
    fset s TILE_COLLIE_STATUS__FAULTED 1 p

/-- The warm-idle filler of a tile that leaves RUN takes over at its mean power over the last 10 ms in RUN, or at its last
estimate where none was made in RUN (log 77); a fenced tile, and a tile that the orderly stop takes out of RUN, runs none.
[16_thermal_power.md R398, R405] -/
def fillStart (s : State) (p : Nat) : State :=
  if fenced s p || s.husky.stopAt.isSome || fget s HUSKY_STATUS__STATE ≠ 0 then s
  else onTile s p fun t =>
    let m := if t.runPower.isEmpty then t.estMw else sumNat t.runPower / t.runPower.length
    { t with fillMean := m, filler := m }

/-- The stop sequence of a running tile: STOPPING, and abort to every unit; the ACLK is kept for an abort that falls into it.
[04_tile_commands.md R117, R118] -/
def stopTile (s : State) (p : Nat) : State :=
  if tileState s p = 1 then abortUnits (onTile (setTileState (fillStart s p) p 2) p fun t => { t with stopAclk := some t.aclk }) p
  else s

/-- A tile fault: recorded and counted; reported to the region controller when its class is H; a tile in RUN stops.
[04_tile_commands.md R116, R117] -/
def raiseFault (s : State) (p code unit : Nat) (x : FaultCmd) (info : Nat) : State :=
  let s := recordFault s p code unit x info
  let s := if classH code then onTile s p fun t => { t with reports := t.reports ++ [⟨code, info⟩] } else s
  stopTile s p

/-- The command executes to its end with status `ok`; its completion step follows. [04_tile_commands.md R100] -/
def finishCmd (s : State) (p : Nat) (u : TUnit) (n : Nat) (ok : Bool) : State :=
  onTile (onCmd s p u n fun c => { c with phase := .done, ok := ok }) p fun t => stampNext t u

/-- The command completes FAIL and raises a tile fault. [04_tile_commands.md R117] -/
def failCmd (s : State) (p : Nat) (u : TUnit) (c : Cmd) (code info : Nat) : State :=
  let s := onCmd s p u c.serial fun x => { x with phase := .done, ok := false, faulted := true }
  raiseFault s p code (unitCode u) (cmdRef c) info

/-- A read by a command found word `w` with an uncorrectable quarter (FLT_SPINEL_ECC, UNIT 6) or a stored tag
(`code`, of the reading unit); the command completes FAIL. [06_spinel_dma.md R149, R150, Table 6.8] -/
def failRead (s : State) (p : Nat) (u : TUnit) (c : Cmd) (code w : Nat) (r : SpRead) : State :=
  let s := onCmd s p u c.serial fun x => { x with phase := .done, ok := false, faulted := true }
  match r.ue with
  | some q => raiseFault s p 0x41 6 (cmdRef c) (w + q * 2 ^ 16)
  | none => raiseFault s p code (unitCode u) (cmdRef c) (w + r.tag * 2 ^ 16)

/-! ### Issue duty (R393) -/

/-- The duty of a tile: 0 during an orderly stop, else the least of its four duties. [16_thermal_power.md R393, R405] -/
def dutyNow (s : State) (p : Nat) : Nat :=
  let t := tileOf s p
  if s.husky.stopAt.isSome || fget s HUSKY_STATUS__STATE ≠ 0 then 0
  else min (min t.dutyThermal t.dutyModel) (min t.dutyCap t.dutyRamp)

/-- DUTY and THROTTLED of a tile follow its duties. [16_thermal_power.md Table 16.6] -/
def updDuty (s : State) (p : Nat) : State :=
  let s := fset s HUSKY_TILE__DUTY (dutyNow s p) p
  fset s HUSKY_TILE__THROTTLED (flag (decide ((tileOf s p).dutyThermal < 64))) p

/-- Static part of the estimate of tile `p`, scaled to its rail. [16_thermal_power.md R395] -/
def staticEst (s : State) (p : Nat) : Nat := Config.staticMw p * smGet s.husky.estScale (p / 72) 65536 / 65536

/-- The ramp duty of a tile that enters RUN: the level whose estimated power, the static part and a share of the rest, equals the
filler's. [16_thermal_power.md R398] -/
def rampStart (s : State) (p : Nat) : State :=
  let st := staticEst s p
  let rest := Config.tileFullMw p - st
  updDuty (onTile s p fun t => { t with
    dutyRamp := if rest = 0 then 64 else min 64 ((t.filler - st) * 64 / rest)
    filler := 0 }) p

end Sys2Proof.Machine
end

