-- ==== Sys2Proof/Machine/VaultMem.lean ====
section
/-! DEFINITION. The stored rows of the vaults: data, check bytes, page code, tags and seal (R188); a write burst (R192,
R196, R231); a read through both codes with its counters, log and events (R190 to R202, R209, R210). -/

namespace Sys2Proof.Machine

/-! ### Geometry -/

/-- Vault `p` is a Jasper vault. [07_vaults.md R167; 09_jasper.md R212] -/
def jasperVault (s : State) (p : Nat) : Bool := jasperRegion s (p / 18)

/-- Rows, and windows, of one channel. [07_vaults.md R167; 08_ecc_repair.md R198] -/
def chanRows (s : State) (p : Nat) : Nat := if jasperVault s p then 147456 else 196608

/-- Number of a channel in the device. -/
def chNo (p c : Nat) : Nat := p * 8 + c

/-- The stored row of a window: its own, or the spare that the remap table names (spares follow the 196,608 rows).
[08_ecc_repair.md R201] -/
def rowOf (s : State) (p c w : Nat) : Nat :=
  match smFind (chanOf s p c).remap w with
  | some sp => 196608 + w % 16 * 64 + sp
  | none => w

/-- Bit `c` of CH_OUT: the channel is mapped out. [07_vaults.md R184] -/
def chanOut (s : State) (p c : Nat) : Bool := bitOf (fget s TILE_VAULT_STATUS__CH_OUT p) c

/-- The majority, bit by bit, of the three copies of a mark of `n` bits held side by side in `x`. [08_ecc_repair.md R188] -/
def majority (n x : Nat) : Nat :=
  let a := bitsOf x 0 n
  let b := bitsOf x n n
  let c := bitsOf x (2 * n) n
  (a &&& b) ||| (b &&& c) ||| (a &&& c)

/-- A sector tag as stored: three copies. [08_ecc_repair.md R188, Table 8.1] -/
def tagStored (t : Nat) : Byte := BitVec.ofNat 8 (t % 4 * 21)

/-- A sector tag as read: the majority of its copies. [08_ecc_repair.md R188] -/
def tagRead (b : Byte) : Nat := majority 2 b.toNat

/-- The unsealed mark of a stored row, the majority of its three copies. [08_ecc_repair.md R188; 09_jasper.md R215] -/
def rowUnsealed (s : State) (p c r : Nat) : Bool := majority 1 (memGet s.unsealed (chNo p c * 2 ^ 18 + r)).toNat != 0

/-- `s` with the unsealed mark of a stored row written to its three copies. [08_ecc_repair.md R188; 09_jasper.md R215, R230, R231] -/
def setUnsealed (s : State) (p c r : Nat) (b : Bool) : State :=
  { s with unsealed := memSet s.unsealed (chNo p c * 2 ^ 18 + r) (if b then 7 else 0) }

/-- A stored row as the light code sees it: 256 words with their check bytes, 64 tags, and the seal. [08_ecc_repair.md R188] -/
structure RowView where
  words : List Nat
  chk : List Nat
  tags : List Nat
  unsealed : Bool
  deriving DecidableEq, Repr

/-- Number of 64-bit words that a byte list spells, as words. -/
def wordsOf (n : Nat) (bs : List Byte) : List Nat := (chunks 8 n bs).map leNat

/-- The 2,048 bytes of a stored row. -/
def rowBytes (s : State) (p c r : Nat) : List Byte := memRead s.vaultData (chNo p c * 2 ^ 29 + r * 2048) 2048

/-- The 128 page-code bytes of a stored row. [08_ecc_repair.md R191] -/
def rowCode (s : State) (p c r : Nat) : List Byte := memRead s.vaultPage (chNo p c * 2 ^ 25 + r * 128) 128

/-- The view of the row behind window `w`. -/
def viewRow (s : State) (p c w : Nat) : RowView :=
  let r := rowOf s p c w
  { words := wordsOf 256 (rowBytes s p c r)
    chk := (memRead s.vaultChk (chNo p c * 2 ^ 26 + r * 256) 256).map BitVec.toNat
    tags := (memRead s.vaultTag (chNo p c * 2 ^ 24 + r * 64) 64).map tagRead
    unsealed := rowUnsealed s p c r }

/-- The burst status of a read: the 64 tags from bit 0, the seal state in bit 128, and the even parity of these in bit 129.
[08_ecc_repair.md R188] -/
def burstStatus (v : RowView) : Nat :=
  let x := (v.tags.zipIdx.foldl (fun a t => a + t.1 % 4 * 4 ^ t.2) 0) + (if v.unsealed then 0 else 2 ^ 128)
  x + popcount 129 x % 2 * 2 ^ 129

/-- The status parity of a burst is right: an even number of its 130 bits is set. [08_ecc_repair.md R188] -/
def statusPasses (x : Nat) : Bool := popcount 130 x % 2 = 0

/-! ### The codes on a row -/

/-- The light code on every word of the window; words of tagged sectors are taken as stored. [08_ecc_repair.md R190, R193,
R195] -/
def lightRow (v : RowView) : List (Nat × LightOut) :=
  ((v.words.zip v.chk).zipIdx).map fun x =>
    (x.1.1, if v.tags.getD (x.2 / 4) 0 = 0 then lightDecode x.1.1 x.1.2 else .clean)

/-- A word is uncorrectable. [08_ecc_repair.md R190] -/
def wordBad (x : Nat × LightOut) : Bool := x.2 = .bad

/-- The words of sector `i`. -/
def sectorWords {α : Type} (l : List α) (i : Nat) : List α := (l.drop (4 * i)).take 4

/-- Sectors that hold an uncorrectable word. [08_ecc_repair.md R193] -/
def badSectors (l : List (Nat × LightOut)) : List Nat := (List.range 64).filter fun i => (sectorWords l i).any wordBad

/-- Number of corrected words. [08_ecc_repair.md R190] -/
def corrected (l : List (Nat × LightOut)) : Nat := (l.filter quarterCe).length

/-- The 32 bytes that four words spell. -/
def bytesOfWords (l : List Nat) : List Byte := l.flatMap fun w => leBytes 8 w

/-- The page-code decode, accepted when every codeword decodes and every word then passes the light code: the restored
words. [08_ecc_repair.md R193] -/
def pageFix (v : RowView) (code : List Byte) : Option (List (Nat × LightOut)) :=
  match pageDecode ((bytesOfWords v.words).map BitVec.toNat) (code.map BitVec.toNat) with
  | none => none
  | some bs =>
    let out := ((wordsOf 256 (bs.map fun b => BitVec.ofNat 8 b)).zip v.chk).map fun x => (x.1, lightDecode x.1 x.2)
    if out.any wordBad then none else some out

/-- A row after recovery: its words, its tags, the words corrected in the decoded row, and whether the page code restored
it. [08_ecc_repair.md R193] -/
structure RowFix where
  words : List Nat
  tags : List Nat
  ce : Nat
  good : Bool
  deriving DecidableEq, Repr

/-- Words of `a` where the sector's tag is clean, of `b` elsewhere. -/
def pickWords (tags : List Nat) (a b : List Nat) : List Nat :=
  ((a.zip b).zipIdx).map fun x => if tags.getD (x.2 / 4) 0 = 0 then x.1.1 else x.1.2

/-- Step 5 of R193: the sectors with an uncorrectable word are marked X, the others are as the light code left them.
[08_ecc_repair.md R193] -/
def unrestored (v : RowView) : RowFix :=
  let l := lightRow v
  let bad := badSectors l
  ⟨l.map quarterOut, v.tags.zipIdx.map fun x => if bad.contains x.2 then 3 else x.1, 0, false⟩

/-- Steps 3 to 5 of R193: restored by the page code, or with the bad sectors marked X. Tagged sectors stay as stored.
[08_ecc_repair.md R193, R195] -/
def fixRow (v : RowView) (code : List Byte) : RowFix :=
  match pageFix v code with
  | some out => ⟨pickWords v.tags (out.map quarterOut) v.words, v.tags, corrected out, true⟩
  | none => unrestored v

/-- The sectors of a mask, ascending. [06_spinel_dma.md R151] -/
def maskSectors (m : Nat) : List Nat := (List.range 64).filter fun i => bitOf m i

/-- The mask of a list of sectors. -/
def sectorsMask (l : List Nat) : Nat := l.foldl (fun m i => setBits m i 1 1) 0

/-- The requested sectors of a row of words and tags. -/
def pickSectors (words tags : List Nat) (mask : Nat) : List Sector :=
  (maskSectors mask).map fun i => ⟨i, bytesOfWords (sectorWords words i), tags.getD i 0⟩

/-! ### Writes -/

/-- `s` with the page code of a stored row computed from its data. [08_ecc_repair.md R192] -/
def encodePage (s : State) (p c r : Nat) : State :=
  { s with
    vaultPage := memWrite s.vaultPage (chNo p c * 2 ^ 25 + r * 128)
      ((pageCode ((rowBytes s p c r).map BitVec.toNat)).map fun b => BitVec.ofNat 8 b) }

/-- A byte of stored data with some bits inverted. -/
def flipByte (s : State) (p c r o m : Nat) : State :=
  let a := chNo p c * 2 ^ 29 + r * 2048 + o
  { s with vaultData := memSet s.vaultData a (memGet s.vaultData a ^^^ BitVec.ofNat 8 m) }

/-- The injected error of TILE_ECC_CTRL is stored, and INJ_ARM clears. [08_ecc_repair.md Table 8.9] -/
def injectRow (s : State) (p c r first : Nat) : State :=
  let k := fget s TILE_ECC_CTRL__INJ_KIND p
  let s :=
    if k = 0 then flipByte s p c r (first * 32) 1
    else if k = 1 then flipByte s p c r (first * 32) 3
    else if k = 2 then forS [0, 16, 32, 48, 64] (fun o st => flipByte st p c r o 0xFF) s
    else s
  fset s TILE_ECC_CTRL__INJ_ARM 0 p

/-- One sector stored with its check bytes and its tag. [08_ecc_repair.md R192, R196] -/
def storeSector (s : State) (p c r : Nat) (x : Sector) : State :=
  let ch := chNo p c
  { s with
    vaultData := memWrite s.vaultData (ch * 2 ^ 29 + r * 2048 + x.s * 32) (x.data.take 32)
    vaultChk := memWrite s.vaultChk (ch * 2 ^ 26 + r * 256 + x.s * 4)
      ((wordsOf 4 x.data).map fun w => BitVec.ofNat 8 (lightCheck w))
    vaultTag := memSet s.vaultTag (ch * 2 ^ 24 + r * 64 + x.s) (tagStored x.tag) }

/-- What follows the sectors of a write burst: the page code of the whole row, and an armed error. [08_ecc_repair.md R192,
Table 8.9] -/
def rowWritten (s : State) (p c r : Nat) (secs : List Sector) : State :=
  let s := encodePage s p c r
  if fbit s TILE_ECC_CTRL__INJ_ARM p && fget s TILE_ECC_CTRL__INJ_CH p = c then
    injectRow s p c r ((secs.map fun x => x.s).foldl min 63)
  else s

/-- A write burst of some sectors to a stored row: data with the tags that came with it, check bytes of the written words,
the page code of the whole row; a burst of all 64 sectors seals the row. [08_ecc_repair.md R192, R196; 09_jasper.md R231] -/
def writeRow (s : State) (p c r : Nat) (secs : List Sector) : State :=
  if secs.isEmpty then s
  else
    let s := forS secs (fun x st => storeSector st p c r x) s
    rowWritten (if secs.length = 64 then setUnsealed s p c r false else s) p c r secs

/-- Two lists of bytes XORed. -/
def xorBytes (a b : List Byte) : List Byte := a.zipWith (fun u v => u ^^^ v) b

/-- The tag of a merged sector: clean where both are clean, else the first of the two in the order P, U, X.
[15_fault_tolerance.md R369] -/
def mergeTag (a b : Nat) : Nat := if a = 0 then b else if b = 0 then a else min a b

/-- A sector merged with another. [15_fault_tolerance.md R369] -/
def mergeSec (x y : Sector) : Sector := { x with data := xorBytes x.data y.data, tag := mergeTag x.tag y.tag }

/-- One sector XORed into the row with its check bytes. [15_fault_tolerance.md R369] -/
def mergeSector (s : State) (p c r : Nat) (x : Sector) : State :=
  let ch := chNo p c
  let da := ch * 2 ^ 29 + r * 2048 + x.s * 32
  let ka := ch * 2 ^ 26 + r * 256 + x.s * 4
  let ta := ch * 2 ^ 24 + r * 64 + x.s
  { s with
    vaultData := memWrite s.vaultData da (xorBytes (memRead s.vaultData da 32) x.data)
    vaultChk := memWrite s.vaultChk ka
      (xorBytes (memRead s.vaultChk ka 4) ((wordsOf 4 x.data).map fun w => BitVec.ofNat 8 (lightCheck w)))
    vaultTag := memSet s.vaultTag ta (tagStored (mergeTag (tagRead (memGet s.vaultTag ta)) x.tag)) }

/-- An XOR-merge burst to a window; a sealed row stays sealed. [15_fault_tolerance.md R369] -/
def mergeWin (s : State) (p c w : Nat) (secs : List Sector) : State :=
  let r := rowOf s p c w
  if secs.isEmpty then s else rowWritten (forS secs (fun x st => mergeSector st p c r x) s) p c r secs

/-- A write burst to a window. [07_vaults.md R166; 08_ecc_repair.md R192] -/
def writeWin (s : State) (p c w : Nat) (secs : List Sector) : State := writeRow s p c (rowOf s p c w) secs

/-! ### Log, counters and events of the codes -/

/-- The fields that VAULT_UE, ROW_REMAPPED and ROW_REMAP_DEFERRED share. [18_host_firmware.md Table 18.15] -/
def rowPayload (p c w : Nat) : Nat := p + c * 2 ^ 9 + w % 16 * 2 ^ 12 + w / 16 * 2 ^ 16

/-- TILE_ECC_LOG records an event, or MULTI is set. [08_ecc_repair.md Table 8.10] -/
def eccLog (s : State) (p c w kind sec : Nat) : State :=
  if fbit s TILE_ECC_LOG__VALID p then fset s TILE_ECC_LOG__MULTI 1 p
  else
    let s := fset s TILE_ECC_LOG__KIND kind p
    let s := fset s TILE_ECC_LOG__CHANNEL c p
    let s := fset s TILE_ECC_LOG__BANK (w % 16) p
    let s := fset s TILE_ECC_LOG__ROW (w / 16) p
    let s := fset s TILE_ECC_LOG__SECTOR sec p
    fset s TILE_ECC_LOG__VALID 1 p

/-- A row was delivered or written back with tag X: it counts once a period, and FLT_ECC_STORM is raised when the count
reaches UE_LIMIT. [08_ecc_repair.md R209] -/
def stormRow (s : State) (p c w : Nat) : State :=
  let k := c * 2 ^ 18 + w
  if (tileOf s p).xRows.contains k then s
  else
    let s := onTile s p fun t => { t with xRows := k :: t.xRows }
    if (tileOf s p).xRows.length = fget s TILE_ECC_CTRL__UE_LIMIT p then
      raiseFault s p 0x68 7 (noCmdRef s) (c + w % 16 * 2 ^ 4)
    else s

/-- Sectors were delivered (kind 0) or written back (kind 1) with tag X. [08_ecc_repair.md R209, Tables 8.10, 8.13] -/
def noteX (s : State) (p c w kind : Nat) (xs : List Nat) : State :=
  match xs with
  | [] => s
  | x :: _ => stormRow (eccLog (bumpN s TILE_ECC_UE_COUNT xs.length p) p c w kind x) p c w

/-- VAULT_UE: the row is first found with tag X; a row once found stays found until the channel is trained anew, also after a clean
rewrite (DESIGN CHOICE, log 72). [08_ecc_repair.md R210] -/
def firstX (s : State) (p c w : Nat) (xs : List Nat) : State :=
  match xs with
  | [] => s
  | x :: _ =>
    if (chanOf s p c).ueWins.contains w then s
    else postEvent (onChan s p c fun ch => { ch with ueWins := w :: ch.ueWins }) evtVaultUe (rowPayload p c w + x * 2 ^ 30)

/-- The sectors of a delivery that carry a tag. -/
def secsWith (tag : Nat) (l : List Sector) : List Nat := (l.filter fun x => x.tag = tag).map fun x => x.s

/-- Counters of a delivery: sectors with tag X and with tag U. [08_ecc_repair.md R209, Table 8.13] -/
def noteDelivery (s : State) (p c w : Nat) (l : List Sector) : State :=
  let u := (secsWith 2 l).length
  let s := if u = 0 then s else bumpN s TILE_ECC_UNSEALED_COUNT u p
  noteX s p c w 0 (secsWith 3 l)

/-! ### Failing rows -/

/-- Lowest of the spares `lo` to `hi - 1` of a bank that is free. [08_ecc_repair.md R201, R203] -/
def freeSpare (s : State) (p c bank lo hi : Nat) : Option Nat :=
  ((List.range (hi - lo)).map fun i => lo + i).find? fun k => !bitOf (smGet (chanOf s p c).spareUsed bank 0) k

/-- A spare is in use. [08_ecc_repair.md R201] -/
def useSpare (s : State) (p c bank k : Nat) : State :=
  onChan s p c fun ch => { ch with spareUsed := smSet ch.spareUsed bank (setBits (smGet ch.spareUsed bank 0) k 1 1) }

/-- Free field spares of a bank. [08_ecc_repair.md Table 8.11] -/
def fieldFree (s : State) (p c bank : Nat) : Nat := 8 - popcount 8 (smGet (chanOf s p c).spareUsed bank 0 / 2 ^ 56)

/-- Free repair-pool spares of a bank. [08_ecc_repair.md Table 8.11] -/
def repairFree (s : State) (p c bank : Nat) : Nat := 56 - popcount 56 (smGet (chanOf s p c).spareUsed bank 0)

/-- First place of the least value of a list. -/
def argMin (f : Nat → Nat) (l : List Nat) : Nat :=
  (l.foldl (fun b i => match b with
    | none => some i
    | some j => if f i < f j then some i else some j) none).getD 0

/-- TILE_ECC_SPARE_STATUS follows the spares. [08_ecc_repair.md Table 8.11] -/
def updSpares (s : State) (p : Nat) : State :=
  let at_ := List.range 128
  let ff := fun i => fieldFree s p (i / 16) (i % 16)
  let rf := fun i => repairFree s p (i / 16) (i % 16)
  let m := argMin ff at_
  let s := fset s TILE_ECC_SPARE_STATUS__FIELD_FREE_MIN (ff m) p
  let s := fset s TILE_ECC_SPARE_STATUS__REPAIR_FREE_MIN (rf (argMin rf at_)) p
  let s := fset s TILE_ECC_SPARE_STATUS__MIN_CHANNEL (m / 16) p
  fset s TILE_ECC_SPARE_STATUS__MIN_BANK (m % 16) p

/-- A repair record with OPEN = 0. [08_ecc_repair.md Table 8.6] -/
def repairRec (typ p c bank row spare arg source : Nat) : Nat :=
  typ + p * 2 ^ 4 + c * 2 ^ 13 + bank * 2 ^ 16 + row * 2 ^ 20 + spare * 2 ^ 34 + arg * 2 ^ 40 + source * 2 ^ 56

/-- Bloodhound has a record to append. [08_ecc_repair.md R206] -/
def logRecord (s : State) (r : Nat) : State := { s with blood := { s.blood with logQ := s.blood.logQ ++ [r] } }

/-- The program of tile `p` has locked window `w` of channel `c`. [09_jasper.md R228] -/
def winLocked (s : State) (p c w : Nat) : Bool :=
  match (tileOf s p).jprog with
  | none => false
  | some j => j.locked && bitOf (bitsOf j.hdr 32 8) c && decide (bitsOf j.hdr 64 18 ≤ w) && decide (w ≤ bitsOf j.hdr 96 18)

/-- A row is declared failing: it waits for its move to a field spare, which a lock holds, or stays in place.
[08_ecc_repair.md R200, R201, R202; 09_jasper.md R228, Table 9.10] -/
def declareFailing (s : State) (p c w : Nat) (xs : List Nat) : State :=
  if (chanOf s p c).remapQ.any fun j => j.win = w then s
  else if fbit s TILE_ECC_CTRL__REMAP_EN p && (freeSpare s p c (w % 16) 56 64).isSome then
    let s := if winLocked s p c w then bump s REGION_JASPER_HOLD_COUNT (p / 18) else s
    onChan s p c fun ch => { ch with remapQ := ch.remapQ ++ [⟨w, sectorsMask xs, false, 0, 0⟩] }
  else
    let s := postEvent (bump s TILE_ECC_DEFER_COUNT p) evtRowRemapDeferred (rowPayload p c w)
    let s := fset s TILE_ECC_SPARE_STATUS__DEFERRED 1 p
    let s := eccLog s p c w 3 0
    logRecord s (repairRec 3 p c (w % 16) (w / 16) 0 0 4)

/-! ### The move of a row (R201) -/

/-- The row of a window as a move writes it: restored where a code restores it, marked X where none does, tags kept.
[08_ecc_repair.md R193, R201] -/
def movedRow (s : State) (p c : Nat) (j : RemapJob) : List Sector :=
  let v := viewRow s p c j.win
  let f := fixRow v (rowCode s p c (rowOf s p c j.win))
  let tags := f.tags.zipIdx.map fun x => if bitOf j.xmask x.2 && x.1 = 0 then 3 else x.1
  pickSectors f.words tags (2 ^ 64 - 1)

/-- A row that waits for its move, or whose move is under way. [08_ecc_repair.md R201] -/
def moveOf (s : State) (p c w : Nat) : Option RemapJob := (chanOf s p c).remapQ.find? fun j => j.win = w

/-! ### Slots, credit and attempts of a burst taken whole (log 9) -/

/-- A class is in credit at a channel. [12_regulation.md R303] -/
def inCredit (ch : Chan) (x c : Nat) : Bool := decide (2048 * 7 ≤ smGet ch.cr (x * 8 + c) 0)

/-- A burst of a class served outside the choice of R304 is charged when the class is in credit. [12_regulation.md R303] -/
def spendClass (s : State) (p c x k : Nat) : State :=
  onChan s p c fun ch =>
    if inCredit ch x k then { ch with cr := smSet ch.cr (x * 8 + k) (smGet ch.cr (x * 8 + k) 0 - 2048 * 7) } else ch

/-- A burst issued in a slot charged to a share is counted. [07_vaults.md Table 7.13] -/
def countShare (s : State) (p x : Nat) : State :=
  let s := onTile s p fun t => { t with actBursts := t.actBursts + 1 }
  if x = 0 then bump s TILE_VAULT_RD_BURST_COUNT p
  else if x = 1 then bump s TILE_VAULT_WR_BURST_COUNT p
  else bump s TILE_VAULT_RM_BURST_COUNT p

/-- A retry of a burst of share `x` is counted. [07_vaults.md R180, Table 7.13] -/
def countRetry (s : State) (p c x : Nat) : State :=
  bump (bump (countShare s p x) TILE_VAULT_RETRY_COUNT p) TILE_VAULT_CH_RETRY_COUNT p c

/-- The attempts of a remote burst that is served whole: the parity failures announced for the channel cost it one retry each,
and it is lost when they reach RETRY_LIMIT (log 70). [07_vaults.md R180, R181, Table 7.8] -/
def wholeAttempts (s : State) (p c w : Nat) (write : Bool) : State × Bool :=
  let s := countShare s p 2
  let n := (chanOf s p c).armFail
  let limit := fget s TILE_VAULT_CTRL__RETRY_LIMIT p
  if n = 0 then (s, true)
  else if n < limit then (forS (List.range n) (fun _ st => countRetry st p c 2) (onChan s p c fun ch => { ch with armFail := 0 }), true)
  else
    let s := onChan s p c fun ch => { ch with armFail := n - limit }
    let s := forS (List.range (limit - 1)) (fun _ st => countRetry st p c 2) s
    (raiseFault (bump s TILE_VAULT_RETRY_FAIL_COUNT p) p 0x60 7 (noCmdRef s) (c + flag write * 2 ^ 3 + w * 2 ^ 8), false)

/-- The sectors of a read whose data never arrived intact: tag P, free data (log 7). [07_vaults.md R181] -/
def lostSectors (s : State) (mask : Nat) : List Sector :=
  (maskSectors mask).map fun i => ⟨i, (List.range 32).map fun j => Config.lostByte s.draws (i * 32 + j), 1⟩

/-! ### Reads -/

/-- What the light pass of a read gives: the sectors it delivers at once, and whether the row needs recovery.
[08_ecc_repair.md R193, R195] -/
structure LightRead where
  secs : List Sector
  recover : Bool
  early : Bool
  deriving DecidableEq, Repr

/-- The light pass on the window of a read whose attempt passed parity. [08_ecc_repair.md R190, R193, R195] -/
def lightRead (s : State) (p c w mask : Nat) : State × LightRead :=
  let v := viewRow s p c w
  if v.unsealed then
    let out := (pickSectors v.words v.tags mask).map fun x => { x with tag := 2 }
    (noteDelivery s p c w out, ⟨out, false, true⟩)
  else
    let l := lightRow v
    let ce := corrected l
    let s := if ce = 0 then s else bumpN s TILE_ECC_CE_COUNT ce p
    let out := pickSectors (l.map quarterOut) v.tags mask
    let bad := badSectors l
    if bad.isEmpty then (noteDelivery s p c w out, ⟨out, false, true⟩)
    else if bad.any fun i => bitOf mask i then (s, ⟨[], true, false⟩)
    else (noteDelivery s p c w out, ⟨out, true, true⟩)

/-- The recovery of a row: counted, logged and declared failing; the requested sectors as recovered. Where its page-code fetch was
`lost`, no decode is accepted (log 70). [08_ecc_repair.md R193, R200; 07_vaults.md R181] -/
def recoverRow (s : State) (p c w mask : Nat) (delivered lost : Bool) : State × List Sector :=
  let v := viewRow s p c w
  let f := if lost then unrestored v else fixRow v (rowCode s p c (rowOf s p c w))
  let out := pickSectors f.words f.tags mask
  let s := if f.ce = 0 then s else bumpN s TILE_ECC_CE_COUNT f.ce p
  let bad := badSectors (lightRow v)
  let s :=
    if f.good then eccLog (bump s TILE_ECC_PAGE_CORR_COUNT p) p c w 2 (bad.headD 0)
    else firstX s p c w bad
  let s :=
    if !delivered then noteDelivery s p c w out
    else if f.good then s
    else eccLog s p c w 0 (bad.headD 0)
  (declareFailing s p c w (if f.good then [] else bad), if delivered then [] else out)

/-- A whole read of one window through both codes with its page-code fetch, of class 7, as one step (log 9).
[08_ecc_repair.md R193, R195; 07_vaults.md R180, R181, Table 7.13; 12_regulation.md R303, Table 12.1] -/
def readWin (s : State) (p c w mask : Nat) : State × List Sector :=
  let x := lightRead s p c w mask
  if x.2.recover then
    let a := wholeAttempts (spendClass x.1 p c 2 7) p c w false
    let y := recoverRow a.1 p c w mask x.2.early !a.2
    (y.1, if x.2.early then x.2.secs else y.2)
  else (x.1, x.2.secs)

end Sys2Proof.Machine
end

