-- ==== Sys2Proof/Machine/Access.lean ====
section
/-! DEFINITION. Address translation (R239 to R241), the refusals of a vault (R184, R363), the acceptance of bursts, and the
reads and writes of the hub's masters. -/

namespace Sys2Proof.Machine

/-! ### Agate entries -/

/-- VALID. [10_attention_kv.md Table 10.1] -/
def entValid (e : Nat) : Bool := bitOf e 0
/-- WP. [10_attention_kv.md Table 10.1] -/
def entWp (e : Nat) : Bool := bitOf e 1
/-- KIND. [10_attention_kv.md Table 10.1] -/
def entKind (e : Nat) : Nat := bitsOf e 2 2
/-- PTILE. [10_attention_kv.md Table 10.1] -/
def entTile (e : Nat) : Nat := bitsOf e 4 9
/-- CHANNEL. [10_attention_kv.md Table 10.1] -/
def entChan (e : Nat) : Nat := bitsOf e 13 3
/-- CPAGE. [10_attention_kv.md Table 10.1] -/
def entPage (e : Nat) : Nat := bitsOf e 16 8

/-- A stored entry with its check byte in bits [71:64]. [10_attention_kv.md R241] -/
def entStored (e : Nat) : Nat := e % 2 ^ 64 + lightCheck (e % 2 ^ 64) * 2 ^ 64

/-- Physical bank 1 is active. [10_attention_kv.md Table 10.10] -/
def activeBank (s : State) : Bool := fbit s AGATE_STATUS__ACTIVE_BANK

/-- The stored entry of the active bank, or of the shadow bank. [10_attention_kv.md R241] -/
def bankGet (s : State) (shadow : Bool) (i : Nat) : Nat :=
  smGet (if activeBank s = shadow then s.agate.bank0 else s.agate.bank1) i 0

/-- `s` with an entry stored in the active bank, or in the shadow bank. [10_attention_kv.md R241] -/
def bankSet (s : State) (shadow : Bool) (i e : Nat) : State :=
  if activeBank s = shadow then
    { s with agate := { s.agate with bank0 := smSet s.agate.bank0 i (entStored e) } }
  else { s with agate := { s.agate with bank1 := smSet s.agate.bank1 i (entStored e) } }

/-- The value of a stored entry as the light code gives it; none when it is uncorrectable. [10_attention_kv.md R241] -/
def entDecode (x : Nat) : Option Nat :=
  match lightDecode (x % 2 ^ 64) (x / 2 ^ 64) with
  | .clean => some (x % 2 ^ 64)
  | .corrected d => some d
  | .bad => none

/-- A stored entry is corrected by a lookup. -/
def entCorrected (x : Nat) : Bool :=
  match lightDecode (x % 2 ^ 64) (x / 2 ^ 64) with
  | .corrected _ => true
  | _ => false

/-- A lookup answered by Agate: the entry, or none when it is uncorrectable. [10_attention_kv.md R241, Table 10.12] -/
def agateLookup (s : State) (i : Nat) : State × Option Nat :=
  let s := bump s AGATE_LOOKUP_COUNT
  let x := bankGet s false i
  match entDecode x with
  | some e => (if entCorrected x then bump s AGATE_CE_COUNT else s, some e)
  | none => (postEvent (bump s AGATE_UE_COUNT) evtAgateUe i, none)

/-- Where a device virtual address leads. -/
inductive Target where
  /-- byte offset in a channel of a tile's vault -/
  | vault (p c off : Nat)
  /-- the customer window -/
  | cust
  /-- unmapped -/
  | unmapped
  deriving DecidableEq, Repr

/-- The target an entry gives. [10_attention_kv.md R239] -/
def entTarget (e : Option Nat) (va : Nat) (write : Bool) : Target :=
  match e with
  | none => .unmapped
  | some e =>
    if entValid e && !(write && entWp e) then .vault (entTile e) (entChan e) (entPage e * 2097152 + va % 2097152)
    else .unmapped

/-- The index of an address that Agate translates. [10_attention_kv.md R239] -/
def vaIndex (va : Nat) : Nat := bitsOf va 21 19

/-- The address lies in the customer window. [11_fabric.md R295] -/
def vaCust (va : Nat) : Bool := va / 2 ^ 40 = 1

/-- The translation of a hub master. [10_attention_kv.md R239; 11_fabric.md R295] -/
def hubTranslate (s : State) (va : Nat) (write : Bool) : State × Target :=
  if vaCust va then (s, .cust)
  else if va / 2 ^ 40 ≠ 0 then (s, .unmapped)
  else
    let x := agateLookup s (vaIndex va)
    (x.1, entTarget x.2 va write)

/-- A lookup through a region's cache: an entry whose GEN is the region's hits; a miss asks Agate and is kept, the oldest of
4,096 giving way (log 10). [10_attention_kv.md R241] -/
def regionLookup (s : State) (g i : Nat) : State × Option Nat :=
  let r := regionOf s g
  match r.cache.find? fun x => x.idx = i && x.gen = r.gen with
  | some x => (s, some x.ent)
  | none =>
    let x := agateLookup s i
    match x.2 with
    | none => x
    | some e =>
      let ent : CacheEnt := ⟨i, e, fget x.1 AGATE_GEN__GEN⟩
      (onRegion x.1 g fun r => { r with cache := (ent :: r.cache.filter fun y => y.idx ≠ i).take 4096 }, some e)

/-- The translation of a tile of region `g`. [10_attention_kv.md R239, R241] -/
def tileTranslate (s : State) (g va : Nat) (write : Bool) : State × Target :=
  if vaCust va then (s, .cust)
  else if va / 2 ^ 40 ≠ 0 then (s, .unmapped)
  else
    let x := regionLookup s g (vaIndex va)
    (x.1, entTarget x.2 va write)

/-! ### Refusals -/

/-- Die of a tile. [01_architecture.md R23] -/
def dieOf (p : Nat) : Nat := p / 72

/-- STATE of link `l`. [11_fabric.md Table 11.10] -/
def linkState (s : State) (l : Nat) : Nat := fget s FAB_LINK_STATUS__STATE l

/-- The vault of tile `p` answers nobody but its own controller: off, fenced, under rebuild, or in self-refresh.
[07_vaults.md R185; 15_fault_tolerance.md R363, R370] -/
def vaultShut (s : State) (p : Nat) : Bool :=
  !tileOpen s p || fbit s TILE_VAULT_STATUS__SELF_REFRESH p

/-- The die answers with NOEP because it is being drained or is gone. [15_fault_tolerance.md R380] -/
def dieShut (s : State) (d : Nat) : Bool := bitsOf (rget s BH_DIE_STATUS) (4 * d) 3 ≠ 0

/-- The NOEP cause that a burst to channel `c` of tile `p` meets at the controller; 0 where it is accepted.
[07_vaults.md R184, R185; 11_fabric.md Table 11.6] -/
def vaultCause (s : State) (p c : Nat) : Nat :=
  if vaultShut s p then 3 else if chanOut s p c then 4 else 0

/-- The NOEP cause a hub master meets. [11_fabric.md Table 11.6] -/
def hubCause (s : State) (p c : Nat) : Nat :=
  if dieShut s (dieOf p) then 5 else if linkState s (dieOf p) = 0 then 5 else vaultCause s p c

/-- A NOEP is generated. [11_fabric.md R282] -/
def countNoep (s : State) : State := bump s FAB_NOEP_COUNT

/-! ### Locks and acceptance -/

/-- A burst is received by a channel's controller. [07_vaults.md R170, R175; 09_jasper.md R228] -/
def acceptBurst (s : State) (p c : Nat) (b : Burst) : State :=
  let s := if winLocked s p c b.win then bump s REGION_JASPER_HOLD_COUNT (p / 18) else s
  onChan s p c fun ch => { ch with queue := ch.queue ++ [b] }

/-- The writes of a channel to window `w` that have been accepted and not yet applied, in order. [07_vaults.md R170] -/
def pendingWrites (s : State) (p c w : Nat) : List Burst :=
  let ch := chanOf s p c
  (ch.flight ++ ch.queue).filter fun b => b.write && b.win = w && b.req ≠ .move

/-- A sector as the accepted writes and merges leave it. [06_spinel_dma.md R158; 07_vaults.md R170; 15_fault_tolerance.md R369] -/
def overlay (ws : List Burst) (x : Sector) : Sector :=
  ws.foldl (fun y b => ((b.secs.find? fun z => z.s = y.s).map fun z => if b.merge then mergeSec y z else z).getD y) x

/-! ### Hub masters (log 9) -/

/-- What a hub read gives: the bytes, the first tag that is not clean, the NOEP cause met (0 none), and for each byte whether its
sector is tagged. -/
structure HubData where
  bytes : List Byte
  tag : Nat
  cause : Nat
  marks : List Bool
  deriving DecidableEq, Repr

/-- Credit and round-robin after a class was chosen. [12_regulation.md R303, R304] -/
def chargeClass (s : State) (p c x k : Nat) (credit : Bool) : State :=
  onChan s p c fun ch =>
    if credit then
      { ch with cr := smSet ch.cr (x * 8 + k) (smGet ch.cr (x * 8 + k) 0 - 2048 * 7), rrIn := smSet ch.rrIn x k }
    else { ch with rrOut := smSet ch.rrOut x k }

/-- A remote read of one window that follows the writes `ws`: its class is charged, its attempts are made, and a window that
waits for a move is read as the move leaves it (log 9). [07_vaults.md R170, R175, R180, R181; 08_ecc_repair.md R201;
12_regulation.md R303] -/
def serveWin (s : State) (p c cls w mask : Nat) (ws : List Burst) : State × List Sector :=
  let a := wholeAttempts (spendClass s p c 2 cls) p c w false
  if !a.2 then ({ a.1 with draws := a.1.draws + 1 }, lostSectors a.1 mask)
  else match moveOf a.1 p c w with
    | some j =>
      let out := (movedRow a.1 p c j).filter fun x => bitOf mask x.s
      (noteDelivery a.1 p c w out, out.map (overlay ws))
    | none =>
      let x := readWin a.1 p c w mask
      (x.1, x.2.map (overlay ws))

/-- A remote read burst of some sectors of one window, with the writes accepted before it. One that meets a lock is counted as
held and taken whole (log 9). [07_vaults.md R170, R175; 09_jasper.md R228, Table 9.10] -/
def hubReadWin (s : State) (p c cls w mask : Nat) : State × List Sector :=
  let s := if winLocked s p c w then bump s REGION_JASPER_HOLD_COUNT (p / 18) else s
  serveWin s p c cls w mask (pendingWrites s p c w)

/-- A read of a Jasper program in its own vault: in a locked window, the writes that the lock holds come after it.
[09_jasper.md R228] -/
def ownReadWin (s : State) (p c cls w mask : Nat) : State × List Sector :=
  serveWin s p c cls w mask (if winLocked s p c w then [] else pendingWrites s p c w)

/-! ### The hub's regulator (R308) -/

/-- Device time of 3 × 64 VCLK, rounded up to whole nanoseconds. [12_regulation.md R308] -/
def overAge : Nat := 275

/-- The latest summary that the hub holds throttles class `c` at tile `q`. [12_regulation.md R308] -/
def hubThrottled (s : State) (q c : Nat) : Bool :=
  match smFind s.hubQos.ovf (q / 18) with
  | none => false
  | some x => decide (now s < x.1 + overAge) && bitOf (x.2.getD (q % 18) 0) c

/-- Bursts of class `c` to tile `q` that the hub has admitted in this 64 VCLK. [12_regulation.md R308] -/
def hubAdmitted (s : State) (q c : Nat) : Nat := smGet s.hubQos.admits (q * 8 + c) 0

/-- A burst of a hub master is counted as admitted; class 7 is not regulated. [12_regulation.md R308] -/
def noteHubAdmit (s : State) (q c : Nat) : State :=
  if c = 7 then s else { s with hubQos := { s.hubQos with admits := smSet s.hubQos.admits (q * 8 + c) (hubAdmitted s q c + 1) } }

/-- Tag of the first sector that is not clean. -/
def firstTag (l : List Sector) : Nat :=
  match l.find? fun x => x.tag ≠ 0 with
  | some x => x.tag
  | none => 0

/-- The sectors that bytes [a, a + n) of a window touch. -/
def byteMask (a n : Nat) : Nat :=
  sectorsMask ((List.range 64).filter fun i => decide (a < i * 32 + 32) && decide (i * 32 < a + n))

/-- Flits of a message that carries `n` sectors. [11_fabric.md R274, Table 11.3] -/
def dataFlits (n : Nat) : Nat := 1 + ceilDiv (32 * n) 48

/-- `n` flits of a message of class `c` cross the die links `route`: each link counts them, and a request is charged to its class
where the class is in credit. [11_fabric.md R298, Table 11.11; 12_regulation.md R303] -/
def crossLinks (s : State) (route : List Nat) (c n : Nat) (request : Bool) : State :=
  forS (route.filter fun l => l < 18) (fun l st =>
    onLink (bumpN st FAB_LINK_FLIT_COUNT n (l / 2)) l fun k =>
      if request && decide (1280 * n ≤ smGet k.cr c 0) then { k with cr := smSet k.cr c (smGet k.cr c 0 - 1280 * n) } else k) s

/-- A request of a hub master to die `d` and its answer, in flits; one that meets cause 5 does not leave the hub (log 9).
[11_fabric.md R274, R282] -/
def hubFlits (s : State) (d c down up : Nat) : State := crossLinks (crossLinks s [2 * d] c down true) [2 * d + 1] c up false

/-- A hub master's read of a window that its vault serves: admitted, sent, served and answered. [11_fabric.md R274;
12_regulation.md R308] -/
def hubReadAt (s : State) (p c cls w mask : Nat) : State × List Sector :=
  hubReadWin (hubFlits (noteHubAdmit s p cls) (dieOf p) cls 1 (dataFlits (popcount 64 mask))) p c cls w mask

/-- A request of a hub master to tile `p` is refused with a cause. [11_fabric.md R282] -/
def hubNoep (s : State) (p c cause down : Nat) : State :=
  countNoep (if cause = 5 then s else hubFlits s (dieOf p) c down 1)

/-- `n` bytes at an address that lie in one window, read with a class. [10_attention_kv.md R239; 12_regulation.md Table 12.1] -/
def hubReadPiece (s : State) (cls va n : Nat) : State × HubData :=
  let x := hubTranslate s va false
  match x.2 with
  | .unmapped => (countNoep x.1, ⟨[], 0, 2, []⟩)
  | .cust => (countNoep x.1, ⟨[], 0, 1, []⟩)
  | .vault p c off =>
    let cause := hubCause x.1 p c
    if cause ≠ 0 then (hubNoep x.1 p cls cause 1, ⟨[], 0, cause, []⟩)
    else
      let o := off % 2048
      let y := hubReadAt x.1 p c cls (off / 2048) (byteMask o n)
      (y.1, ⟨((y.2.flatMap fun z => z.data).drop (o % 32)).take n, firstTag y.2, 0,
        ((y.2.flatMap fun z => z.data.map fun _ => decide (z.tag ≠ 0)).drop (o % 32)).take n⟩)

/-- The pieces of [va, va + n) that each lie in one window, as (address, length). [06_spinel_dma.md R151] -/
def vaPieces : Nat → Nat → Nat → List (Nat × Nat)
  | 0, _, _ => []
  | k + 1, va, n =>
    if n = 0 then []
    else
      let m := min n (2048 - va % 2048)
      (va, m) :: vaPieces k (va + m) (n - m)

/-- An access of a hub master that the hub's regulator keeps at its source: one of its windows lies in a throttled vault whose
allowance of this 64 VCLK is used up. [12_regulation.md R308] -/
def hubWaits (s : State) (cls va n : Nat) (write : Bool) : Bool :=
  cls ≠ 7 && (vaPieces (n / 2048 + 2) va n).any fun x => match (hubTranslate s x.1 write).2 with
    | .vault q _ _ => hubThrottled s q cls && decide (fget s FAB_QOS_CTRL__FB_THR_HUB ≤ hubAdmitted s q cls)
    | _ => false

/-- Two results in order: the first failure and the first tag stand. -/
def joinData (a b : HubData) : HubData :=
  ⟨a.bytes ++ b.bytes, if a.tag ≠ 0 then a.tag else b.tag, if a.cause ≠ 0 then a.cause else b.cause, a.marks ++ b.marks⟩

/-- The pieces read in order, up to the first that fails. -/
def hubReadPieces (s : State) (cls : Nat) : List (Nat × Nat) → State × HubData
  | [] => (s, ⟨[], 0, 0, []⟩)
  | x :: xs =>
    let a := hubReadPiece s cls x.1 x.2
    if a.2.cause ≠ 0 then a
    else
      let b := hubReadPieces a.1 cls xs
      (b.1, joinData a.2 b.2)

/-- A hub master reads `n` bytes at a device virtual address, with its class. [10_attention_kv.md R239; 12_regulation.md R300] -/
def hubRead (s : State) (cls va n : Nat) : State × HubData := hubReadPieces s cls (vaPieces (n / 2048 + 2) va n)

/-- The sectors of a write of bytes `bs` at byte `o` of a window, over the sectors the window holds. A sector covered whole
takes the new tag; a sector covered in part keeps the rest of what it held. [18_host_firmware.md R435] -/
def mergeSectors (old : List Sector) (o : Nat) (bs : List Byte) (tag : Nat) : List Sector :=
  old.map fun x =>
    let lo := x.s * 32
    let whole := decide (o ≤ lo) && decide (lo + 32 ≤ o + bs.length)
    { x with
      data := (List.range 32).map fun i =>
        if o ≤ lo + i ∧ lo + i < o + bs.length then bs.getD (lo + i - o) 0 else x.data.getD i 0
      tag := if whole then tag else if x.tag ≠ 0 then x.tag else tag }

/-- Bytes written within one window: accepted as one remote write burst; the sectors covered in part are read first.
[07_vaults.md R175; 18_host_firmware.md R435] -/
def hubWritePiece (s : State) (va : Nat) (bs : List Byte) (tag cls : Nat) : State × Nat :=
  let x := hubTranslate s va true
  match x.2 with
  | .unmapped => (countNoep x.1, 2)
  | .cust => (countNoep x.1, 1)
  | .vault p c off =>
    let cause := hubCause x.1 p c
    let o := off % 2048
    let m := byteMask o bs.length
    let k := dataFlits (popcount 64 m)
    if cause ≠ 0 then (hubNoep x.1 p cls cause k, cause)
    else
      let part := decide (o % 32 ≠ 0) || decide ((o + bs.length) % 32 ≠ 0)
      let blank := (maskSectors m).map fun i => (⟨i, List.replicate 32 0, 0⟩ : Sector)
      let s := noteHubAdmit x.1 p cls
      let y := if part then hubReadAt s p c cls (off / 2048) m else (s, blank)
      let f := fresh (hubFlits y.1 (dieOf p) cls k 1)
      (acceptBurst f.1 p c ⟨f.2, true, 2, cls, off / 2048, m, mergeSectors y.2 o bs tag, .none, none, false, 0, 0, 0, false, false⟩, 0)

/-- The pieces written in order, up to the first that fails: the cause, 0 for none. -/
def hubWritePieces (s : State) (bs : List Byte) (tag cls : Nat) : List (Nat × Nat) → State × Nat
  | [] => (s, 0)
  | x :: xs =>
    let a := hubWritePiece s x.1 (bs.take x.2) tag cls
    if a.2 ≠ 0 then a else hubWritePieces a.1 (bs.drop x.2) tag cls xs

/-- A hub master writes bytes with a tag at a device virtual address: the NOEP cause met, 0 for none. [10_attention_kv.md R239] -/
def hubWrite (s : State) (va : Nat) (bs : List Byte) (tag cls : Nat) : State × Nat :=
  hubWritePieces s bs tag cls (vaPieces (bs.length / 2048 + 2) va bs.length)

end Sys2Proof.Machine
end

