-- ==== Sys2Proof/Machine/Collie.lean ====
section
/-! DEFINITION. The tile scheduler (Collie): descriptor checks, tokens, dispatch, loops, completion, start, abort, the
token watchdog and the deadlock detector (04_tile_commands.md). -/

namespace Sys2Proof.Machine

/-! ### Notifications -/

/-- TILE_NOTIFY. [21_register_index.md Table 21.5] -/
def evtTileNotify : Nat := 0x0401
/-- TILE_PLAN_DONE. [21_register_index.md Table 21.5] -/
def evtTilePlanDone : Nat := 0x0402
/-- TILE_STOPPED. [21_register_index.md Table 21.5] -/
def evtTileStopped : Nat := 0x0403
/-- START_REFUSED. [21_register_index.md Table 21.5] -/
def evtStartRefused : Nat := 0x0E02

/-- The status of a notification says OK. [06_spinel_dma.md Table 6.7; 18_host_firmware.md R450] -/
def statusOk (st : Nat) : Bool := bitOf st 42

/-- A notification for Kelpie: TRIG_CNT of the queue counts, or TRIG_FAIL is set. [13_network.md R329] -/
def kelpieTrigger (s : State) (q : Nat) (ok : Bool) : State :=
  if ok then fset s KELPIE_KQ_TRIG__TRIG_CNT ((fget s KELPIE_KQ_TRIG__TRIG_CNT q + 1) % 2 ^ 32) q
  else fset s KELPIE_KQ_PTR__TRIG_FAIL 1 q

/-- The notification of a completed command: to Kelpie when TAG[11:10] = 0b11, else the event TILE_NOTIFY.
[04_tile_commands.md R100; 13_network.md R329; 18_host_firmware.md R450] -/
def notifyTile (s : State) (p stream tag status : Nat) : State :=
  if tag / 1024 = 3 then kelpieTrigger s (tag % 1024) (statusOk status)
  else postEvent s evtTileNotify
    (status % 2 ^ 64 + p * 2 ^ 64 + logField s p * 2 ^ 73 + stream * 2 ^ 82 + tag * 2 ^ 86)

/-! ### Streams and their heads -/

/-- The stream takes part and has not met STOP. [04_tile_commands.md R98, R104] -/
def streamLive (s : State) (p k : Nat) : Bool :=
  fbit s TILE_STREAM_CFG__ENABLE p k && !bitOf (fget s TILE_COLLIE_STATUS__DONE_MASK p) k

/-- Ring size of a stream. [04_tile_commands.md R94] -/
def ringSize (s : State) (p k : Nat) : Nat := 2 ^ fget s TILE_STREAM_CFG__LOG2SIZE p k

/-- HEAD of a stream. [04_tile_commands.md R95] -/
def headIdx (s : State) (p k : Nat) : Nat := fget s TILE_STREAM_HEAD__HEAD p k % ringSize s p k

/-- The stream is empty. [04_tile_commands.md R95] -/
def ringEmpty (s : State) (p k : Nat) : Bool := headIdx s p k = fget s TILE_STREAM_TAIL__TAIL p k % ringSize s p k

/-- The head descriptor, when it is in the fetch buffer. [04_tile_commands.md R98] -/
def headOf (s : State) (p k : Nat) : Option Fetched :=
  if streamLive s p k && !ringEmpty s p k then
    (streamOf (tileOf s p) k).buf.find? fun x => x.idx = headIdx s p k
  else none

/-- A slot in use. [04_tile_commands.md R107] -/
def slotValid (s : State) (p k : Nat) : Bool := fbit s TILE_SLOT_CFG__VALID p k

/-- The stream may consume slot `k` with this descriptor; an observer may come from any stream. [04_tile_commands.md R109] -/
def ownerIn (s : State) (p k d : Nat) : Bool :=
  (dOp d = 0x01 && !dInRel d) || fget s TILE_SLOT_CFG__CONSUMER p (dIn d) = k

/-- The stream may produce the slot. [04_tile_commands.md R109, R110] -/
def ownerOut (s : State) (p k d : Nat) : Bool := fget s TILE_SLOT_CFG__PRODUCER p (dOut d) = k

/-- The first check of R94, R96 and R102 that a head descriptor fails, as (code, slot); `none` where the fault names no
slot. DESIGN CHOICE (log 8): where both slots fail one check, the IN slot is named. [04_tile_commands.md R94, R96, R102] -/
def headCheck (s : State) (p k : Nat) (x : Fetched) : Option (Nat × Option Nat) :=
  let d := x.desc
  match x.mark with
  | .badAddr => some (0x04, none)
  | .poison => some (0x03, none)
  | .clean =>
    if !opKnown (dOp d) then some (0x01, none)
    else if !onlyFields (headFields ++ bodyFields (dOp d)) d then some (0x02, none)
    else if !bodyOk (fget s TILE_STREAM_CFG__LOG2SIZE p k) d then some (0x02, none)
    else if !enOk d then some (0x02, none)
    else if dInEn d && dOutEn d && dIn d = dOut d then some (0x02, none)
    else if dInEn d && !slotValid s p (dIn d) then some (0x05, some (dIn d))
    else if dOutEn d && !slotValid s p (dOut d) then some (0x05, some (dOut d))
    else if dInEn d && !ownerIn s p k d then some (0x06, some (dIn d))
    else if dOutEn d && !ownerOut s p k d then some (0x06, some (dOut d))
    else none

/-- The slot a descriptor waits on and whether it waits for EMPTY; `none` when its token conditions hold. The IN slot
comes first (log 8). [04_tile_commands.md R98, Table 4.14] -/
def tokenWaits (s : State) (p d : Nat) : Option (Nat × Bool) :=
  if dInEn d && slotState s p (dIn d) ≠ 2 then some (dIn d, false)
  else if dOutEn d && slotState s p (dOut d) ≠ 0 then some (dOut d, true)
  else none

/-- SYNC, with STOP behaving as if it were set. [04_tile_commands.md R97, R104] -/
def needsSync (d : Nat) : Bool := dSync d || dOp d = 0x04

/-- Condition 3 of R98. [04_tile_commands.md R98] -/
def syncMet (s : State) (p k d : Nat) : Bool := !needsSync d || (streamOf (tileOf s p) k).out = 0

/-- Condition 5 of R98. [04_tile_commands.md R98, R99] -/
def queueMet (s : State) (p d : Nat) : Bool :=
  match unitOf (dOp d) with
  | none => true
  | some u => decide ((queueOf (tileOf s p) u).length < depthOf u)

/-- What one stream presents in an ACLK. -/
inductive HeadView where
  | off | empty | unfetched
  | bad (x : Fetched) (code : Nat) (slot : Option Nat)
  | blocked (x : Fetched) (slot : Nat) (onEmpty : Bool)
  | waiting (x : Fetched)
  | ready (x : Fetched)
  deriving DecidableEq, Repr

/-- The view of stream `k` at the start of an ACLK. [04_tile_commands.md R98, R113, Table 4.23] -/
def viewOf (s : State) (p k : Nat) : HeadView :=
  if !streamLive s p k then .off
  else if ringEmpty s p k then .empty
  else match headOf s p k with
    | none => .unfetched
    | some x =>
      match headCheck s p k x with
      | some f => .bad x f.1 f.2
      | none =>
        if !(syncMet s p k x.desc && queueMet s p x.desc) then .waiting x
        else match tokenWaits s p x.desc with
          | some w => .blocked x w.1 w.2
          | none => .ready x

/-- The stream is token-blocked. [04_tile_commands.md R113] -/
def isBlocked : HeadView → Bool
  | .blocked _ _ _ => true
  | _ => false

/-- The stream is eligible. [04_tile_commands.md R98] -/
def isReady : HeadView → Bool
  | .ready _ => true
  | _ => false

/-- Streams in the order of the round-robin search at one level: from one above the last granted. [04_tile_commands.md R98] -/
def rrOrder (last : Nat) : List Nat := (List.range 16).map fun i => (last + 1 + i) % 16

/-- The stream granted in an ACLK: lowest PRIO, round-robin within a level. [04_tile_commands.md R98] -/
def granted (s : State) (p : Nat) : Option Nat :=
  let t := tileOf s p
  ((List.range 4).flatMap fun l =>
    (rrOrder (smGet t.lastGrant l 15)).filter fun k =>
      fget s TILE_STREAM_CFG__PRIO p k = l && isReady (viewOf s p k)).head?

/-- The descriptor granted in this ACLK. -/
def grantedDesc (s : State) (p : Nat) : Option Nat :=
  if tileState s p = 1 then
    match granted s p with
    | some k => (headOf s p k).map fun x => x.desc
    | none => none
  else none

/-! ### Dispatch -/

/-- HEAD moves to index `i` of the ring. [04_tile_commands.md R105] -/
def moveHead (s : State) (p k i : Nat) : State :=
  let s := fset s TILE_STREAM_HEAD__HEAD (i % ringSize s p k) p k
  onStream s p k fun x => { x with buf := x.buf.filter fun y => y.idx ≠ (i + ringSize s p k - 1) % ringSize s p k }

/-- A Collie command completes at dispatch: counted, and notified when NOTIFY = 1. [04_tile_commands.md R99, R100] -/
def collieDone (s : State) (p k d : Nat) : State :=
  let s := bump s TILE_STREAM_DONE p k
  if dNotify d then notifyTile s p k (dTag d) (2 ^ 42) else s

/-- Sheltie sees that a plan tile has reached IDLE or STOPPED. [18_host_firmware.md R446, Table 18.10] -/
def noteTileEnd (s : State) (p : Nat) (fault : Option Nat) : State :=
  match logOf s p with
  | none => s
  | some lt =>
    if s.host.plan.contains lt then
      { s with host := { s.host with cmds := s.host.cmds.map fun c =>
        if c.op = 3 && c.started then
          { c with
            tEnd := now s
            firstFault := match c.firstFault, fault with
              | none, some f => some (lt, f)
              | x, _ => x }
        else c } }
    else s

/-- A stream is DONE; when every enabled stream is, the tile goes IDLE and posts TILE_PLAN_DONE. [04_tile_commands.md R104] -/
def streamStopped (s : State) (p k : Nat) : State :=
  let s := fset s TILE_COLLIE_STATUS__DONE_MASK (setBits (fget s TILE_COLLIE_STATUS__DONE_MASK p) k 1 1) p
  let s := fset s TILE_STREAM_STATUS__STATE 5 p k
  let s := onStream s p k fun x => { x with buf := [], fetch := none }
  if (List.range 16).any fun i => streamLive s p i then s
  else
    let s := setTileState (fillStart s p) p 0
    let s := noteTileEnd s p none
    postEvent s evtTilePlanDone (p + logField s p * 2 ^ 9)

/-- LOOP at index `i`. [04_tile_commands.md R105] -/
def dispatchLoop (s : State) (p k : Nat) (x : Fetched) : State :=
  let back := bitsOf x.desc 64 20
  let count := bitsOf x.desc 84 16
  let active := fbit s TILE_STREAM_HEAD__LOOP_ACTIVE p k
  if active && (streamOf (tileOf s p) k).loopPc ≠ x.idx then
    raiseFault s p 0x0A 0 ⟨k, x.idx, dTag x.desc⟩ (Config.noInfo 0x0A (now s))
  else
    let s := bump s TILE_DISPATCH_COUNT p
    let s :=
      if active then s
      else
        let s := fset s TILE_STREAM_HEAD__LOOP_ACTIVE 1 p k
        let s := fset s TILE_STREAM_HEAD__LOOP_CNT count p k
        onStream s p k fun y => { y with loopPc := x.idx }
    let cnt := fget s TILE_STREAM_HEAD__LOOP_CNT p k
    let s :=
      if cnt = 0 then moveHead (fset s TILE_STREAM_HEAD__LOOP_ACTIVE 0 p k) p k (x.idx + 1)
      else
        let s := fset s TILE_STREAM_HEAD__LOOP_CNT (cnt - 1) p k
        let s := fset s TILE_STREAM_HEAD__HEAD ((x.idx + ringSize s p k - back) % ringSize s p k) p k
        onStream s p k fun y => { y with buf := [], fetch := none }
    collieDone s p k x.desc

/-- The slot read raw by a descriptor, if any: valid, EMPTY, and overlapping the span of words it reads.
[04_tile_commands.md R112] -/
def rawSlot (s : State) (p d : Nat) : Option Nat :=
  match readSpan d with
  | none => none
  | some r =>
    (List.range 64).find? fun k =>
      slotValid s p k && slotState s p k = 0 && !(dInEn d && dIn d = k)
        && decide (fget s TILE_SLOT_CFG__BASE p k ≤ r.2)
        && decide (r.1 < fget s TILE_SLOT_CFG__BASE p k + fget s TILE_SLOT_CFG__SIZE p k)

/-- Raw reads of EMPTY slots are forbidden. [04_tile_commands.md R112] -/
def rawForbidden (s : State) (p : Nat) : Bool := fbit s HUB_MODE__STRICT || fbit s TILE_COLLIE_CTRL__STRICT_SLOTS p

/-- The deadline of a command dispatched now: device time plus the DEADLINE of its descriptor. [12_regulation.md R305] -/
def dueBy (s : State) (d : Nat) : Option Nat := (dDeadline d).map fun x => (now64 s + x) % 65536

/-- A command enters its unit queue. [04_tile_commands.md R97, R99, Table 4.14] -/
def enqueueCmd (s : State) (p k : Nat) (x : Fetched) (u : TUnit) : State :=
  let d := x.desc
  let s := bump s TILE_DISPATCH_COUNT p
  let s := if dOutEn d then setSlot s p (dOut d) 1 else s
  let s := if dInEn d then setSlot s p (dIn d) 3 else s
  let t := tileOf s p
  let q := queueOf t u
  let c : Cmd := ⟨t.serial, k, x.idx, d, dueBy s d, none, .queued, false, false, false,
    [], [], false, false, []⟩
  let s := onTile s p fun t => stampNext { setQueue t u (q ++ [c]) with serial := t.serial + 1 } u
  let s := onStream s p k fun y => { y with out := y.out + 1 }
  let s := fset s TILE_COLLIE_STATUS__QUIET 0 p
  moveHead s p k (x.idx + 1)

/-! ### Completion -/

/-- The status word a notification carries: the status word of a DMA command, else OK in bit 42. [18_host_firmware.md R450] -/
def notifyStatus (u : TUnit) (c : Cmd) : Nat := if u = .dma then dmaStatus c c.ok else flag c.ok * 2 ^ 42

/-- A DMA command ended FAIL for a failed part or a 17th destination, whose fault is still to be raised.
[06_spinel_dma.md R158, R159] -/
def partsFailed (u : TUnit) (c : Cmd) : Bool := u = .dma && !c.ok && !c.faulted

/-- The faults of a DMA command that completes FAIL: FLT_DMA_PARTS after a 17th destination, FLT_DMA_PART where a part failed; of
both, FLT_DMA_PARTS first (DESIGN CHOICE, log 80). [06_spinel_dma.md R158, R159] -/
def partFaults (s : State) (p : Nat) (c : Cmd) : State :=
  let s := if c.ovf then raiseFault s p 0x4A (unitCode .dma) (cmdRef c) (dmaStatus c false) else s
  if c.parts.any fun x => x.err ≠ 0 then raiseFault s p 0x49 (unitCode .dma) (cmdRef c) (dmaStatus c false) else s

/-- The completion of the command at the head of a queue. FLT_DMA_PART and FLT_DMA_PARTS are raised with it.
[04_tile_commands.md R100, R117; 06_spinel_dma.md R158, R159] -/
def completeHead (s : State) (p : Nat) (u : TUnit) : State :=
  match queueOf (tileOf s p) u with
  | c :: _ =>
    if c.phase = .done then
      let s := dropCmd s p u c.serial
      let s := if c.ok then tokensOk s p c.desc else tokensFail s p c.desc
      let s := oneOut s p c.stream
      let s := if u = .dma then rset s TILE_DMA_LAST (dmaStatus c c.ok) p (c.stream % 16) else s
      let s := if c.faulted || partsFailed u c then s else bump s TILE_STREAM_DONE p (c.stream % 16)
      let s := if u = .beryl && c.ok then bump s TILE_BERYL_OP_COUNT p else s
      let s := onTile s p fun t => stampNext t u
      let s := if dNotify c.desc then notifyTile s p c.stream (dTag c.desc) (notifyStatus u c) else s
      updQuiet (if partsFailed u c then partFaults s p c else s) p
    else s
  | [] => s

/-- No bank-edge unit serves the tile: a part without J, a region below 8, or its domain off. [09_jasper.md R213] -/
def jasperAbsent (s : State) (p : Nat) : Bool := !jasperRegion s (p / 18) || !domOn s (309 + p / 18)

/-- A JASPER_START without a bank-edge unit completes FAIL in the ACLK of its dispatch. [09_jasper.md R213, Table 9.6] -/
def absentStart (s : State) (p : Nat) : State :=
  match (tileOf s p).qJasper with
  | c :: _ =>
    let s := onCmd s p .jasper c.serial fun x => { x with phase := .done, ok := false, faulted := true }
    completeHead (raiseFault s p 0x80 5 (cmdRef c) 0x3FF) p .jasper
  | [] => s

/-- A dispatched command enters its unit's queue. [04_tile_commands.md R97, R99; 09_jasper.md R213] -/
def sendCmd (s : State) (p k : Nat) (x : Fetched) (u : TUnit) : State :=
  let s := enqueueCmd s p k x u
  if u = .jasper && jasperAbsent s p then absentStart s p else s

/-- The granted head of stream `k` is dispatched. [04_tile_commands.md R99, R104, R105, R111, R112] -/
def dispatchHead (s : State) (p k : Nat) (x : Fetched) : State :=
  let d := x.desc
  let s := onTile s p fun t => { t with lastGrant := smSet t.lastGrant (fget s TILE_STREAM_CFG__PRIO p k) k }
  match unitOf (dOp d) with
  | some u =>
    match rawSlot s p d with
    | none => sendCmd s p k x u
    | some sl =>
      if rawForbidden s p then raiseFault s p 0x09 0 ⟨k, x.idx, dTag d⟩ sl
      else sendCmd (bump s TILE_RAW_EMPTY_COUNT p) p k x u
  | none =>
    if dOp d = 0x03 then dispatchLoop s p k x
    else
      let s := bump s TILE_DISPATCH_COUNT p
      let s := moveHead s p k (x.idx + 1)
      if dOp d = 0x01 then collieDone (if dInRel d then setSlot s p (dIn d) 0 else s) p k d
      else if dOp d = 0x02 then collieDone (setSlot s p (dOut d) 2) p k d
      else if dOp d = 0x04 then streamStopped (collieDone s p k d) p k
      else collieDone s p k d

/-! ### The ACLK -/

/-- ACLK `i` of its frame is an issue ACLK at duty `d`. [16_thermal_power.md R392] -/
def issueAclk (i d : Nat) : Bool := decide ((i + 1) * d / 64 > i * d / 64)

/-- Duty of a tile. [16_thermal_power.md R393] -/
def dutyOf (s : State) (p : Nat) : Nat := fget s HUSKY_TILE__DUTY p

/-- STATE code of a stream. [04_tile_commands.md Table 4.23] -/
def viewCode (v : HeadView) (done : Bool) : Nat :=
  match v with
  | .off => if done then 5 else 0
  | .empty => 4
  | .blocked _ _ _ => 2
  | .waiting _ => 3
  | _ => 1

/-- Watchdog limit in ACLK; 0 disables. [04_tile_commands.md R113] -/
def tokenLimit (s : State) (p : Nat) : Nat := fget s TILE_COLLIE_WD__TOKEN_LIMIT p * aclkMHz s

/-- The watchdog and the block time of one stream after an ACLK. DESIGN CHOICE (log 8): the count runs on while TOKEN_LIMIT is 0,
which disables the fault only. [04_tile_commands.md R113, Table 4.23] -/
def tickStream (issue : Bool) (v : HeadView) (x : Stream) : Stream :=
  match v with
  | .blocked f _ _ =>
    if x.wdIdx = some f.idx then { x with wd := x.wd + (if issue then 1 else 0), blk := x.blk + 1 }
    else { x with wdIdx := some f.idx, wd := if issue then 1 else 0, blk := 1 }
  | _ => { x with wdIdx := none, wd := 0, blk := 0 }

/-- The timeout of stream `k`, with view `v` at the start of an ACLK and `x` after its count, that falls due in the ACLK.
[04_tile_commands.md R113] -/
def wdFalls (limit k : Nat) (v : HeadView) (x : Stream) : Option WdDue :=
  match v with
  | .blocked f sl _ => if limit ≠ 0 ∧ limit ≤ x.wd then some ⟨k, f.idx, dTag f.desc, sl⟩ else none
  | _ => none

/-- The watchdogs of a tile count one ACLK; those that reach the limit fall due, whatever else the ACLK brings.
[04_tile_commands.md R113] -/
def wdTick (s : State) (p : Nat) (issue : Bool) (t : Tile) : Tile :=
  let ks := List.range 16
  let streams := ks.foldl (fun m k => smSet m k (tickStream issue (viewOf s p k) (smGet m k Stream.reset))) t.streams
  let due := ks.filterMap fun k => wdFalls (tokenLimit s p) k (viewOf s p k) (smGet streams k Stream.reset)
  { t with
    streams := streams
    wdDue := due ++ t.wdDue.filter fun x => !due.any fun y => y.stream = x.stream }

/-- The status registers of one stream after an ACLK. [04_tile_commands.md Table 4.23] -/
def streamStatus (s : State) (p k : Nat) (v : HeadView) : State :=
  let done := fbit s TILE_STREAM_CFG__ENABLE p k && bitOf (fget s TILE_COLLIE_STATUS__DONE_MASK p) k
  let s := fset s TILE_STREAM_STATUS__STATE (viewCode v done) p k
  let us := min ((streamOf (tileOf s p) k).blk / (aclkMHz s)) 0xFFFFF
  let s := fset s TILE_STREAM_STATUS__BLOCK_US us p k
  match v with
  | .blocked _ sl e => fset (fset s TILE_STREAM_STATUS__BLOCK_SLOT sl p k) TILE_STREAM_STATUS__BLOCK_ON (flag e) p k
  | _ => s

/-- P_WAIT and C_WAIT of one slot. DESIGN CHOICE (log 8): a head blocked on both its slots sets C_WAIT of its IN slot only. [04_tile_commands.md Table 4.25] -/
def slotWaits (s : State) (p : Nat) (vs : List HeadView) (k : Nat) : State :=
  let waits := fun (e : Bool) => vs.any fun v => match v with
    | .blocked _ sl x => sl = k && x = e
    | _ => false
  fset (fset s TILE_SLOT_STATE__P_WAIT (flag (waits true)) p k) TILE_SLOT_STATE__C_WAIT (flag (waits false)) p k

/-- A swap may take effect: the load in progress and every load presented before the swap have ended.
[03_garnet_array.md R69] -/
def swapMayBegin (t : Tile) (c : Cmd) : Bool :=
  t.qLoad.all fun x =>
    x.phase = .done ||
      (x.phase = .queued && !(decide (x.headAt.isSome) && decide (x.headAt.getD 0 < c.headAt.getD 0)))

/-- A swap at the head of the execute path waits for a load: what stands before it has issued its planes.
[03_garnet_array.md R69, Table 3.10] -/
def swapWaits (t : Tile) : Bool :=
  match firstIn t .exec .queued with
  | some c => dOp c.desc = 0x11 && !t.garnet.halted && !swapMayBegin t c
  | none => false

/-- The faults of the heads that fail a check in this ACLK. [04_tile_commands.md R102] -/
def raiseBad (s : State) (p : Nat) (vs : List (HeadView × Nat)) : State :=
  forS vs (fun v st => match v.1 with
    | .bad x code slot =>
      raiseFault st p code 0 ⟨v.2, x.idx, dTag x.desc⟩ (slot.getD (Config.noInfo code (now st)))
    | _ => st) s

/-- One ACLK of the tile: the ports of Spinel (R146 to R148), dispatch, blocks, watchdog counts, statuses. The views are those of the start of the ACLK, so
no command sees an event of the same ACLK. [04_tile_commands.md R98, R102, R108, R113, R120] -/
def aclkStep (s : State) (p : Nat) : State :=
  let t := tileOf s p
  let issue := issueAclk (t.aclk % 64) (dutyOf s p)
  let s := onTile s p fun t => { t with aclk := t.aclk + 1, issue := t.issue + (if issue then 1 else 0) }
  let s := portStep (if swapWaits t then bump s TILE_GARNET_SWAP_WAIT p else s) p
  if tileState s p ≠ 1 then s
  else
    let vs := (List.range 16).map fun k => (viewOf s p k, k)
    let g := granted s p
    let s := onTile s p (wdTick s p issue)
    let blocked := vs.filter fun v => isBlocked v.1
    let s := if blocked.isEmpty then s else bump s TILE_TOKEN_STALL_COUNT p
    let s := fset s TILE_COLLIE_STATUS__BLOCK_MASK (sumNat (blocked.map fun v => 2 ^ v.2)) p
    let s := forS vs (fun v st => streamStatus st p v.2 v.1) s
    let s := forS (List.range 64) (fun k st => slotWaits st p (vs.map fun v => v.1) k) s
    let s := match g with
      | some k =>
        match vs.find? fun v => v.2 = k with
        | some (.ready x, _) => dispatchHead s p k x
        | _ => s
      | none => s
    raiseBad s p vs

/-- The tile can act: its domain is on and it is not fenced. [01_architecture.md R34; 15_fault_tolerance.md R363] -/
def whenUp (s : State) (p : Nat) (f : State → State) : State := if tileUp s p then f s else s

/-- A write of a register of tile `p`: discarded where the tile block does not answer. [01_architecture.md R34;
15_fault_tolerance.md R363, R370] -/
def whenOpen (s : State) (p : Nat) (f : State → State) : State := if tileOpen s p then f s else s

/-- What a powered tile does by itself, fenced or not. [04_tile_commands.md R117; 15_fault_tolerance.md R363] -/
def whenRuns (s : State) (p : Nat) (f : State → State) : State := if tileRuns s p then f s else s

/-- The ACLK in which the granted head has opcode `op`. -/
def aclkFor (s : State) (p op : Nat) : State :=
  if (grantedDesc s p).map dOp = some op then aclkStep s p else s

/-! ### Watchdog and deadlock -/

/-- The edge of a token-blocked stream. [04_tile_commands.md R114] -/
def waitEdge (s : State) (p k : Nat) : Option Nat :=
  match viewOf s p k with
  | .blocked _ sl _ =>
    if slotState s p sl = 0 then
      let pr := fget s TILE_SLOT_CFG__PRODUCER p sl
      if pr < 16 then some pr else none
    else if slotState s p sl = 2 then some (fget s TILE_SLOT_CFG__CONSUMER p sl)
    else none
  | _ => none

/-- The streams met by following edges from `k`, at most `n`. -/
def followEdges (s : State) (p : Nat) : Nat → Nat → List Nat
  | 0, _ => []
  | n + 1, k =>
    match waitEdge s p k with
    | none => []
    | some j => j :: followEdges s p n j

/-- The cycle through stream `k`, as a mask: each stream has at most one edge, so `k` is on a cycle when its path returns
to it. [04_tile_commands.md R114] -/
def cycleOf (s : State) (p k : Nat) : Option Nat :=
  let path := followEdges s p 16 k
  if path.contains k then
    some (((path.takeWhile fun j => j ≠ k) ++ [k]).foldl (fun m j => setBits m j 1 1) 0)
  else none

/-- The cycles of the wait-for graph, each once. [04_tile_commands.md R114] -/
def cyclesOf (s : State) (p : Nat) : List Nat := ((List.range 16).filterMap fun k => cycleOf s p k).eraseDups

/-- The head descriptor of stream `k` as the command a fault concerns. -/
def headRef (s : State) (p k : Nat) : FaultCmd :=
  match headOf s p k with
  | some x => ⟨k, x.idx, dTag x.desc⟩
  | none => ⟨k, headIdx s p k, Config.noCommand 2 (now s)⟩

/-- Lowest stream of a mask. -/
def lowStream (m : Nat) : Nat := ((List.range 16).find? fun k => bitOf m k).getD 0

/-- Deadlock limit in ACLK; 0 disables. [04_tile_commands.md R115] -/
def dlLimit (s : State) (p : Nat) : Nat := fget s TILE_COLLIE_WD__DL_LIMIT p * aclkMHz s

/-- A Collie fault that falls due in an ACLK: its code, its command and its INFO. [04_tile_commands.md R113, R115] -/
structure DueFault where
  code : Nat
  ref : FaultCmd
  info : Nat
  deriving DecidableEq, Repr

/-- The faults of one ACLK are raised in order: the first is recorded, and each is counted. [04_tile_commands.md R115, R117] -/
def raiseDue (s : State) (p : Nat) (l : List DueFault) : State := forS l (fun f st => raiseFault st p f.code 0 f.ref f.info) s

/-- FLT_TOKEN_TIMEOUT of stream `k` is due, with the slot it was blocked on. [04_tile_commands.md R113] -/
def timeoutDue (s : State) (p k : Nat) : Option DueFault :=
  ((tileOf s p).wdDue.find? fun x => x.stream = k).map fun x => ⟨0x07, ⟨k, x.idx, x.tag⟩, x.slot⟩

/-- The timeouts due in an ACLK, that of stream `k` first. [04_tile_commands.md R113] -/
def timeoutsDue (s : State) (p k : Nat) : List DueFault :=
  (k :: (List.range 16).filter fun j => j ≠ k).filterMap (timeoutDue s p)

/-- An evaluation is due. [04_tile_commands.md R114] -/
def deadlockDue (s : State) (p : Nat) : Bool := tileState s p = 1 && (tileOf s p).aclk % 64 = 0

/-- The cycles after an evaluation: those found again keep their timestamp, new ones get one, others are discarded; with
DL_LIMIT = 0 there is no detection. [04_tile_commands.md R115] -/
def dlMarks (s : State) (p : Nat) : List DlMark :=
  if dlLimit s p = 0 then []
  else (cyclesOf s p).map fun m => ((tileOf s p).dl.find? fun x => x.mask = m).getD ⟨m, (tileOf s p).issue⟩

/-- FLT_STREAM_DEADLOCK of each cycle that has lasted DL_LIMIT. [04_tile_commands.md R115] -/
def deadlocksDue (s : State) (p : Nat) : List DueFault :=
  ((dlMarks s p).filter fun x => decide (x.since + dlLimit s p ≤ (tileOf s p).issue)).map fun x =>
    ⟨0x08, headRef s p (lowStream x.mask), x.mask⟩

/-- The timeouts that fell due are raised now. [04_tile_commands.md R113] -/
def takeTimeouts (s : State) (p : Nat) : State := onTile s p fun t => { t with wdDue := [] }

/-- One evaluation of the detector. A deadlock that falls due is recorded before the timeouts of the same ACLK.
[04_tile_commands.md R115] -/
def deadlockStep (s : State) (p : Nat) : State :=
  let due := deadlocksDue s p
  let t := onTile s p fun t => { t with dl := dlMarks s p }
  if due.isEmpty then t else raiseDue (takeTimeouts t p) p (due ++ timeoutsDue s p 0)

/-- FLT_TOKEN_TIMEOUT of stream `k`, with the other timeouts of the same ACLK after it (log 8). [04_tile_commands.md R113] -/
def timeoutStep (s : State) (p k : Nat) : State :=
  if (timeoutDue s p k).isSome then raiseDue (takeTimeouts s p) p (timeoutsDue s p k) else s

/-! ### Start and stop -/

/-- Word range of a slot. -/
def slotRange (s : State) (p k : Nat) : Nat × Nat :=
  (fget s TILE_SLOT_CFG__BASE p k, fget s TILE_SLOT_CFG__BASE p k + fget s TILE_SLOT_CFG__SIZE p k)

/-- The valid slots. -/
def validSlots (s : State) (p : Nat) : List Nat := (List.range 64).filter fun k => slotValid s p k

/-- The configuration of a tile is valid. [04_tile_commands.md R107] -/
def configOk (s : State) (p : Nat) : Bool :=
  let vs := validSlots s p
  (vs.all fun k =>
    decide ((slotRange s p k).1 < (slotRange s p k).2) && decide ((slotRange s p k).2 ≤ spWords)
      && decide (fget s TILE_SLOT_CFG__PRODUCER p k ≤ 16)
      && vs.all fun j => j = k || decide ((slotRange s p k).2 ≤ (slotRange s p j).1)
          || decide ((slotRange s p j).2 ≤ (slotRange s p k).1))
    && ((List.range 16).all fun k => !fbit s TILE_STREAM_CFG__ENABLE p k
        || (decide (6 ≤ fget s TILE_STREAM_CFG__LOG2SIZE p k) && decide (fget s TILE_STREAM_CFG__LOG2SIZE p k ≤ 20)))
    && ((List.range 16).any fun k => fbit s TILE_STREAM_CFG__ENABLE p k)

/-- Sheltie notes when the first plan tile enters RUN. [18_host_firmware.md Table 18.10] -/
def noteTileStart (s : State) (p : Nat) : State :=
  match logOf s p with
  | none => s
  | some lt =>
    if s.host.plan.contains lt then
      { s with host := { s.host with cmds := s.host.cmds.map fun c =>
        if c.op = 3 && c.started && c.tStart.isNone then { c with tStart := some (now s) } else c } }
    else s

/-- The loop state of a stream clears and its buffer empties. [04_tile_commands.md R105] -/
def clearLoop (s : State) (p k : Nat) : State :=
  let s := fset s TILE_STREAM_HEAD__LOOP_ACTIVE 0 p k
  let s := fset s TILE_STREAM_HEAD__LOOP_CNT 0 p k
  onStream s p k fun x => { x with buf := [], loopPc := 0, wd := 0, wdIdx := none, blk := 0, fetch := none }

/-- A valid configuration starts: slot states from INIT_FULL, loops cleared, no stream DONE. [04_tile_commands.md R105, R107] -/
def enterRun (s : State) (p : Nat) : State :=
  let s := forS (validSlots s p) (fun k st => setSlot st p k (if fbit st TILE_SLOT_CFG__INIT_FULL p k then 2 else 0)) s
  let s := forS (List.range 16) (fun k st => clearLoop st p k) s
  let s := fset s TILE_COLLIE_STATUS__DONE_MASK 0 p
  let s := fset s TILE_COLLIE_STATUS__BLOCK_MASK 0 p
  let s := fset s TILE_COLLIE_STATUS__ABORTED 0 p
  let s := onTile s p fun t => { t with dl := [], wdDue := [], stopAclk := none }
  noteTileStart (rampStart (setTileState s p 1) p) p

/-- A write of RUN = 1: discarded while armed, running or stopping; refused while a fault is recorded, without a look at the
configuration (DESIGN CHOICE, log 21); refused with CFG_ERR when the configuration is not valid. [04_tile_commands.md R107, R119; 14_determinism.md R352] -/
def runWrite (s : State) (p : Nat) : State :=
  if fbit s TILE_COLLIE_CTRL__ARM p || tileState s p = 1 || tileState s p = 2 then s
  else if fbit s TILE_FAULT__VALID p then s
  else if configOk s p then enterRun s p
  else fset s TILE_COLLIE_STATUS__CFG_ERR 1 p

/-- The start of an armed tile at its region's start. [14_determinism.md R355] -/
def armedStart (s : State) (p : Nat) : State :=
  let s := fset s TILE_COLLIE_CTRL__ARM 0 p
  if tileState s p = 1 || tileState s p = 2 then s
  else if configOk s p then enterRun s p
  else noteTileEnd (postEvent (fset s TILE_COLLIE_STATUS__CFG_ERR 1 p) evtStartRefused p) p (some 0)

/-- A fault stopped the tile in the present ACLK. [04_tile_commands.md R117, R118] -/
def justStopped (s : State) (p : Nat) : Bool :=
  tileState s p = 2 && fbit s TILE_FAULT__VALID p && (tileOf s p).stopAclk = some (tileOf s p).aclk

/-- A write of ABORT = 1: a tile in RUN stops without a fault record and ABORTED is set; in the ACLK of a fault that stops the
tile, ABORTED is set too. [04_tile_commands.md R118] -/
def abortWrite (s : State) (p : Nat) : State :=
  if tileState s p = 1 then fset (stopTile s p) TILE_COLLIE_STATUS__ABORTED 1 p
  else if justStopped s p then fset s TILE_COLLIE_STATUS__ABORTED 1 p
  else s

/-- A write of CLR_FAULT = 1. [04_tile_commands.md R119] -/
def clrFaultWrite (s : State) (p : Nat) : State :=
  fset (rset (rset s TILE_FAULT 0 p) TILE_FAULT_INFO 0 p) TILE_COLLIE_STATUS__FAULTED 0 p

/-- A write of ARM. [14_determinism.md R352] -/
def armWrite (s : State) (p v : Nat) : State := fset s TILE_COLLIE_CTRL__ARM v p

/-- The payload of TILE_STOPPED. [18_host_firmware.md Table 18.15] -/
def stoppedPayload (s : State) (p : Nat) : Nat :=
  p + logField s p * 2 ^ 9 + fget s TILE_FAULT__CODE p * 2 ^ 18 + fget s TILE_COLLIE_STATUS__ABORTED p * 2 ^ 26
    + fget s TILE_FAULT__MULTI p * 2 ^ 27

/-- With STOP_ALL, Sheltie aborts the other plan tiles when one stops on a fault. [18_host_firmware.md R446] -/
def stopAllPlan (s : State) (p : Nat) : State :=
  match logOf s p with
  | none => s
  | some lt =>
    if s.host.plan.contains lt && (s.host.cmds.any fun c => c.op = 3 && c.started && bitOf c.entry 65) then
      forS ((s.host.plan.filter fun x => x ≠ lt).filterMap fun x => physOf s x) (fun q st => abortWrite st q) s
    else s

/-- The last step of a stop: QUIET, STOPPED, TILE_STOPPED. [04_tile_commands.md R117] -/
def stoppedStep (s : State) (p : Nat) : State :=
  let s := fset s TILE_COLLIE_STATUS__QUIET 1 p
  let s := setTileState s p 3
  let faulted := fbit s TILE_FAULT__VALID p
  let s := postEvent s evtTileStopped (stoppedPayload s p)
  let s := noteTileEnd s p (if faulted then some (fget s TILE_FAULT__CODE p) else none)
  if faulted then stopAllPlan s p else s

/-! ### The commands -/

/-- DISPATCH: one ACLK. [04_tile_commands.md R98] -/
def execDispatch (p : Fin 288) (s : State) : Host.Outcome State Fault Refusal := .next (whenRuns s p fun s => aclkStep s p)

/-- NOP: the ACLK in which the granted head is NOP. [04_tile_commands.md R99] -/
def execNop (p : Fin 288) (s : State) : Host.Outcome State Fault Refusal := .next (whenRuns s p fun s => aclkFor s p 0x00)

/-- TOKEN_WAIT: the ACLK in which the granted head is TOKEN_WAIT. [04_tile_commands.md R111] -/
def execTokenWait (p : Fin 288) (s : State) : Host.Outcome State Fault Refusal :=
  .next (whenRuns s p fun s => aclkFor s p 0x01)

/-- TOKEN_SET: the ACLK in which the granted head is TOKEN_SET. [04_tile_commands.md R111] -/
def execTokenSet (p : Fin 288) (s : State) : Host.Outcome State Fault Refusal :=
  .next (whenRuns s p fun s => aclkFor s p 0x02)

/-- LOOP: the ACLK in which the granted head is LOOP. [04_tile_commands.md R105] -/
def execLoop (p : Fin 288) (s : State) : Host.Outcome State Fault Refusal := .next (whenRuns s p fun s => aclkFor s p 0x03)

/-- STOP: the ACLK in which the granted head is STOP. [04_tile_commands.md R104] -/
def execStop (p : Fin 288) (s : State) : Host.Outcome State Fault Refusal := .next (whenRuns s p fun s => aclkFor s p 0x04)

/-- TILE_STOPPED. [04_tile_commands.md R117] -/
def execTileStopped (p : Fin 288) (s : State) : Host.Outcome State Fault Refusal :=
  .next (whenRuns s p fun s => if tileState s p = 2 && tileQuiet (tileOf s p) then stoppedStep s p else s)

/-- RUN. [04_tile_commands.md R107, R119] -/
def execTileRun (p : Fin 288) (s : State) : Host.Outcome State Fault Refusal := .next (whenOpen s p fun s => runWrite s p)

/-- TILE_ABORT. [04_tile_commands.md R118] -/
def execTileAbort (p : Fin 288) (s : State) : Host.Outcome State Fault Refusal := .next (whenOpen s p fun s => abortWrite s p)

/-- CLR_FAULT. [04_tile_commands.md R119] -/
def execClrFault (p : Fin 288) (s : State) : Host.Outcome State Fault Refusal :=
  .next (whenOpen s p fun s => clrFaultWrite s p)

/-- ARM. [14_determinism.md R352] -/
def execArm (p : Fin 288) (s : State) : Host.Outcome State Fault Refusal := .next (whenOpen s p fun s => armWrite s p 1)

/-- TILE_STREAM_TAIL_WRITE. [04_tile_commands.md R95, R119] -/
def execStreamTailWrite (p : Fin 288) (k : Fin 16) (v : BitVec 20) (s : State) : Host.Outcome State Fault Refusal :=
  .next (whenOpen s p fun s => fset s TILE_STREAM_TAIL__TAIL v.toNat p k)

/-- A write of HEAD: discarded in RUN and STOPPING; otherwise the loop state clears. [04_tile_commands.md R105, R119] -/
def headWrite (s : State) (p k v : Nat) : State :=
  if tileState s p = 1 || tileState s p = 2 then s else clearLoop (fset s TILE_STREAM_HEAD__HEAD v p k) p k

/-- TILE_STREAM_HEAD_WRITE. [04_tile_commands.md R105, R119] -/
def execStreamHeadWrite (p : Fin 288) (k : Fin 16) (v : BitVec 20) (s : State) : Host.Outcome State Fault Refusal :=
  .next (whenOpen s p fun s => headWrite s p k v.toNat)

/-- DEADLOCK_EVAL. [04_tile_commands.md R114, R115] -/
def execDeadlockEval (p : Fin 288) (s : State) : Host.Outcome State Fault Refusal :=
  .next (whenRuns s p fun s => if deadlockDue s p then deadlockStep s p else s)

/-- FLT_TOKEN_TIMEOUT, of a timeout that an ACLK has brought, also where another fault of that ACLK has stopped the tile; a
deadlock that falls due in the same ACLK is recorded first. [04_tile_commands.md R113, R115, R117] -/
def execTokenTimeout (p : Fin 288) (k : Fin 16) (s : State) : Host.Outcome State Fault Refusal :=
  .next (whenRuns s p fun s =>
    let s := if (timeoutDue s p k).isSome && deadlockDue s p then deadlockStep s p else s
    timeoutStep s p k)

end Sys2Proof.Machine
end

