-- ==== Sys2Proof/Machine/Garnet.lean ====
section
/-! DEFINITION. The matrix array: loads, swaps, runs and the writing of results (03_garnet_array.md). -/

namespace Sys2Proof.Machine

/-! ### Banks -/

/-- The active bank. [03_garnet_array.md R62] -/
def activeOf (g : Garnet) : Bank := if g.active1 then g.set1 else g.set0

/-- The shadow bank. [03_garnet_array.md R62] -/
def shadowOf (g : Garnet) : Bank := if g.active1 then g.set0 else g.set1

/-- `s` with the matrix array of tile `p` changed by `f`. -/
def onGarnet (s : State) (p : Nat) (f : Garnet → Garnet) : State := onTile s p fun t => { t with garnet := f t.garnet }

/-- A code with its parity bit, even over 9 bits. [03_garnet_array.md R63] -/
def cellReg (code : Nat) : Nat := code % 256 + parityOf 8 code * 256

/-- The 9-bit register of row `k`, column `c`. [03_garnet_array.md R62] -/
def cellOf (b : Bank) (c k : Nat) : Nat := smGet (smGet b.cols c []) k 0

/-- A bank with a cell written. -/
def setCell (b : Bank) (c k v : Nat) : Bank := { b with cols := smSet b.cols c (smSet (smGet b.cols c []) k v) }

/-- A bank with a column cleared: code 0, occupancy 0, exponent 0. [03_garnet_array.md R67] -/
def clearCol (b : Bank) (c : Nat) : Bank :=
  { b with cols := smDel b.cols c, occ := smDel b.occ c, exps := smDel b.exps c }

/-- Plane occupancy of a column. [03_garnet_array.md Table 3.1] -/
def colOcc (b : Bank) (c : Nat) : Nat :=
  (smGet b.cols c []).foldl (fun m x => Nat.lor m (x.2 % 256)) (if b.int1 then 1 else 0)

/-- OR of the column occupancies. [03_garnet_array.md R80] -/
def bankPlanes (b : Bank) : Nat := (List.range 128).foldl (fun m c => Nat.lor m (smGet b.occ c 0)) 0

/-! ### Loads -/

/-- The parameters of a load are in range, and its format is one of Table 2.1: INT1, INTb of 2 to 8 bits, and the page exponent
with INTb of 8 bits only (DEDUCED, log 66). [03_garnet_array.md R65; 02_arithmetic.md R36] -/
def loadParamOk (x : LoadP) : Bool :=
  decide (1 ≤ x.prec) && decide (x.prec ≤ 8) && x.int1 = decide (x.prec = 1) && (!x.page || x.prec = 8)
    && (!x.rowMajor || (x.prec = 8 && x.first = 0 && x.ncols = 128))
    && decide (1 ≤ x.ncols) && decide (x.first + x.ncols ≤ 128)

/-- Words of the exponents of a load. [03_garnet_array.md R66] -/
def loadExpWords (x : LoadP) : Nat := if x.page then 1 else ceilDiv x.ncols 32

/-- Words of the codes of a load. [03_garnet_array.md R66] -/
def loadWords (x : LoadP) : Nat := ceilDiv (x.ncols * 16 * x.prec) 32

/-- The columns a load writes. -/
def loadCols (x : LoadP) : List Nat := (List.range x.ncols).map fun i => x.first + i

/-- Element `k` of a packed block of precision `b`. [02_arithmetic.md R39] -/
def packedCode (b : Nat) (blk : List Byte) (k : Nat) : Nat := bitsOf (leNat blk) (k * b) b

/-- The register a load stores, with the injected parity error when it is armed for the cell. [03_garnet_array.md R63, R85] -/
def loadReg (inj : Option (Nat × Nat)) (c k code : Nat) : Nat :=
  let r := cellReg code
  if inj = some (c, k) then r % 256 + (1 - r / 256) * 256 else r

/-- A column written from its packed block. [03_garnet_array.md R66] -/
def loadCol (inj : Option (Nat × Nat)) (b : Nat) (bank : Bank) (c : Nat) (blk : List Byte) : Bank :=
  { bank with cols := smSet bank.cols c ((List.range 128).map fun k => (k, loadReg inj c k (packedCode b blk k))) }

/-- Columns written in column-major order from the bytes read. [03_garnet_array.md R66] -/
def loadColumns (inj : Option (Nat × Nat)) (x : LoadP) (bank : Bank) (bs : List Byte) : Bank :=
  let blks := (chunks (16 * x.prec) 128 bs).filter fun blk => blk.length = 16 * x.prec
  ((loadCols x).zip blks).foldl (fun b y => loadCol inj x.prec b y.1 y.2) bank

/-- Rows written in row-major order from the bytes read, 128 bytes a row. [03_garnet_array.md R66] -/
def loadRows (inj : Option (Nat × Nat)) (bank : Bank) (bs : List Byte) : Bank :=
  let rows := (chunks 128 128 bs).filter fun r => r.length = 128
  rows.zipIdx.foldl (fun b y =>
    (y.1.zipIdx).foldl (fun b z => setCell b z.2 y.2 (loadReg inj z.2 y.2 z.1.toNat)) b) bank

/-- The exponent of a page-mode load: P when it is set, else 0. [03_garnet_array.md Table 3.1; 10_attention_kv.md R250] -/
def pageExp (bs : List Byte) : Nat :=
  let x := leNat (bs.take 8)
  if bitOf x 8 then x % 256 else 0

/-- The attributes of a bank differ from those of a load. [03_garnet_array.md R67] -/
def loadDiffers (b : Bank) (x : LoadP) : Bool := b.prec ≠ x.prec || b.int1 ≠ x.int1 || b.page ≠ x.page

/-- The columns outside a load's range are cleared when its attributes differ. [03_garnet_array.md R67] -/
def loadClear (b : Bank) (x : LoadP) : Bank :=
  if loadDiffers b x then ((List.range 128).filter fun c => !(loadCols x).contains c).foldl clearCol b else b

/-- The exponents of a load stored in its columns. DESIGN CHOICE (log 66): a page-mode load of fewer than 128 columns writes P
in its own columns only; R67 settles the others. [03_garnet_array.md R66] -/
def loadExps (b : Bank) (x : LoadP) (bs : List Byte) : Bank :=
  let f := fun (m : SMap Nat) (y : Nat × Nat) => smSet m y.1 (if x.page then pageExp bs else (bs.getD y.2 0).toNat)
  { b with exps := (loadCols x).zipIdx.foldl f b.exps }

/-- The next load may begin: none is in progress, and no swap presented before it waits (log 11).
[03_garnet_array.md R67, R69, R70] -/
def loadMayBegin (t : Tile) (c : Cmd) : Bool :=
  (firstIn t .load .active).isNone &&
    match firstIn t .exec .queued with
    | some w => !(dOp w.desc = 0x11 && decide (w.headAt.getD 0 ≤ c.headAt.getD 0))
    | none => true

/-- A fault of a Garnet command whose contents no chapter gives: a free value (log 7). -/
def garnetFault (s : State) (p : Nat) (u : TUnit) (c : Cmd) (code : Nat) : State :=
  failCmd s p u c code (Config.noInfo code (now s))

/-- A Spinel operand of a unit breaks its shape or passes the last word. The word index that FLT_SPINEL_ADDR names is the operand's start
word, also where a later word passes the last (DESIGN CHOICE, log 23). [06_spinel_dma.md R144, Table 6.8] -/
def addrFault (s : State) (p : Nat) (u : TUnit) (c : Cmd) (a : Nat) : State := failCmd s p u c 0x40 (spaWord a)

/-- The first of some operands that does not fit. [06_spinel_dma.md R144] -/
def badOperand (l : List (Nat × Nat)) : Option Nat := (l.find? fun x => !walkFits x.1 x.2).map fun x => x.1

/-- Cell `(c, k)` lies in what a load writes whole of the bytes read. [03_garnet_array.md R66, R85] -/
def loadWrites (x : LoadP) (bs : List Byte) (c k : Nat) : Bool :=
  if x.rowMajor then decide (k < bs.length / 128) else decide (c - x.first < bs.length / (16 * x.prec))

/-- The load reads its exponents and codes into the shadow bank; a tagged word among its codes stops it with the columns or rows
read whole before it written and the bank not loaded, and one among its exponents before it changes anything. DESIGN CHOICE
(log 18): the occupancy of a column overwritten by a load that is stopped keeps its old value.
[03_garnet_array.md R66, R67, R85; 06_spinel_dma.md R150] -/
def loadBegin (s : State) (p : Nat) (c : Cmd) : State :=
  let x := loadP c.desc
  let inj :=
    if fbit s TILE_GARNET_CTRL__INJ_ARM p && (loadCols x).contains (fget s TILE_GARNET_CTRL__INJ_COL p) then
      some (fget s TILE_GARNET_CTRL__INJ_COL p, fget s TILE_GARNET_CTRL__INJ_ROW p)
    else none
  let e := spReadRun (ePort s p 4 (walkBeats x.expSrc 0 (loadExpWords x))) p (walkWords x.expSrc 0 (loadExpWords x))
  match e.2.stop with
  | some r => failRead e.1 p .load c 0x42 r.1 r.2
  | none =>
    let d := spReadRun (ePort e.1 p 4 (walkBeats x.src 0 (loadWords x))) p (walkWords x.src 0 (loadWords x))
    let s := onGarnet d.1 p fun g => onShadow g fun b =>
      let b := loadExps (loadClear b x) x e.2.bytes
      if x.rowMajor then loadRows inj b d.2.bytes else loadColumns inj x b d.2.bytes
    let used := match inj with
      | some y => loadWrites x d.2.bytes y.1 y.2
      | none => false
    let s := if used then fset s TILE_GARNET_CTRL__INJ_ARM 0 p else s
    match d.2.stop with
    | some r =>
      failRead (onGarnet s p fun g => onShadow g fun b => { b with loaded := false }) p .load c 0x42 r.1 r.2
    | none => onCmd s p .load c.serial fun y => { y with phase := .active }

/-- The load at the head of the weight port's queue begins, or is refused. [03_garnet_array.md R65, R66] -/
def loadStep (s : State) (p : Nat) : State :=
  match firstIn (tileOf s p) .load .queued with
  | none => s
  | some c =>
    if !loadMayBegin (tileOf s p) c then s
    else
      let x := loadP c.desc
      if !loadParamOk x then garnetFault s p .load c 0x13
      else match badOperand [(x.expSrc, loadExpWords x), (x.src, loadWords x)] with
        | some a => addrFault s p .load c a
        | none => loadBegin s p c

/-- The last cycle of a load. [03_garnet_array.md R66] -/
def loadEndStep (s : State) (p : Nat) : State :=
  match firstIn (tileOf s p) .load .active with
  | none => s
  | some c =>
    let x := loadP c.desc
    let s := onGarnet s p fun g => onShadow g fun b =>
      let b := { b with loaded := true, prec := x.prec, int1 := x.int1, page := x.page }
      { b with occ := (loadCols x).foldl (fun m i => smSet m i (colOcc b i)) b.occ }
    finishCmd s p .load c.serial true

/-! ### Swaps -/

/-- Rows of a column whose register has odd parity. [03_garnet_array.md R83] -/
def badRows (b : Bank) (c : Nat) : List Nat :=
  ((smGet b.cols c []).filter fun x => parityOf 9 x.2 = 1).map fun x => x.1

/-- The columns of a bank that fail parity. [03_garnet_array.md R83, R84] -/
def badCols (b : Bank) : List Nat := (List.range 128).filter fun c => !(badRows b c).isEmpty

/-- What a failed parity check of the bank that became active records: MULTI says so of the swap that the log holds (log 17).
[03_garnet_array.md R83, Table 3.9] -/
def parityMark (s : State) (p : Nat) (b : Bank) (cols : List Nat) : State :=
  let s := forS cols (fun i st =>
    rset st TILE_GARNET_COLBAD (setBits (rget st TILE_GARNET_COLBAD p (i / 64)) (i % 64) 1 1) p (i / 64)) s
  let s :=
    if fbit s TILE_GARNET_PARITY_LOG__VALID p then s
    else
      let s := fset s TILE_GARNET_PARITY_LOG__COL (cols.headD 0) p
      let s := fset s TILE_GARNET_PARITY_LOG__ROW ((badRows b (cols.headD 0)).headD 0) p
      let s := fset s TILE_GARNET_PARITY_LOG__BANK (flag (tileOf s p).garnet.active1) p
      let s := fset s TILE_GARNET_PARITY_LOG__MULTI (flag (decide (1 < cols.length))) p
      fset s TILE_GARNET_PARITY_LOG__VALID 1 p
  let s := bumpN s TILE_GARNET_PARITY_COUNT cols.length p
  onGarnet s p fun g => { g with halted := true }

/-- The outcome of the parity check of the bank that became active. [03_garnet_array.md R83] -/
def parityFail (s : State) (p : Nat) (c : Cmd) (b : Bank) (cols : List Nat) : State :=
  garnetFault (parityMark s p b cols) p .exec c 0x10

/-- The exchange of the banks. A bank that is not loaded and fails parity raises both faults, and the abort of the first clears
HALTED (log 17). [03_garnet_array.md R68, R73, R83, R87] -/
def swapTake (s : State) (p : Nat) (c : Cmd) : State :=
  let s := onGarnet s p fun g => { g with active1 := !g.active1 }
  let s := bump s TILE_GARNET_SWAP_COUNT p
  let b := activeOf (tileOf s p).garnet
  let cols := badCols b
  if !b.loaded then
    if cols.isEmpty then garnetFault s p .exec c 0x11
    else garnetFault (garnetFault (parityMark s p b cols) p .exec c 0x11) p .exec c 0x10
  else if !cols.isEmpty then parityFail s p c b cols
  else finishCmd s p .exec c.serial true

/-- The swap at the head of the execute path. [03_garnet_array.md R69] -/
def swapStep (s : State) (p : Nat) : State :=
  let t := tileOf s p
  match firstIn t .exec .queued with
  | none => s
  | some c => if dOp c.desc = 0x11 && !t.garnet.halted && swapMayBegin t c then swapTake s p c else s

/-! ### Runs -/

/-- The parameters of a run are in range, with the rules of an append. [03_garnet_array.md R65; 10_attention_kv.md R257] -/
def runParamOk (x : RunP) : Bool :=
  decide (1 ≤ x.tokens) && decide (x.tokens ≤ 64) && decide (1 ≤ x.ncols) && decide (x.ncols ≤ 128) && x.form ≠ 3
    && (!(x.appEn && x.accEnd) ||
      (x.ncols = 128 && decide (x.form ≤ 1) && (bitsOf x.appTag 28 2 = 1 || bitsOf x.appTag 28 2 = 2)))

/-- Bytes of one result. [03_garnet_array.md R75] -/
def formSize (f : Nat) : Nat := if f = 0 then 4 else if f = 1 then 2 else 16

/-- Words of the results of a run. [03_garnet_array.md R75] -/
def runOutWords (x : RunP) : Nat := ceilDiv (x.tokens * x.ncols * formSize x.form) 32

/-- The run continues the open group. [03_garnet_array.md R75] -/
def groupOk (g : Garnet) (x : RunP) : Bool :=
  x.accStart || match g.group with
    | some o => o.tokens = x.tokens && o.ncols = x.ncols
    | none => false

/-- Floor of the group a run accumulates into. [03_garnet_array.md R75] -/
def runFloor (g : Garnet) (x : RunP) : Int :=
  if x.accStart then x.f else match g.group with
    | some o => o.f
    | none => x.f

/-- The words a run reads, in order: the first eight rows, the scale words, the other rows. [03_garnet_array.md R78] -/
def runReads (x : RunP) : List Nat :=
  walkWords x.act 0 (min 32 (x.tokens * 4)) ++ walkWords x.scl 0 (ceilDiv (x.tokens * 2) 32)
    ++ walkWords x.act (min 32 (x.tokens * 4)) (x.tokens * 4 - min 32 (x.tokens * 4))

/-- The beats of those words. [03_garnet_array.md R78; 06_spinel_dma.md R145] -/
def runBeats (x : RunP) : List (List Nat) :=
  walkBeats x.act 0 (min 32 (x.tokens * 4)) ++ walkBeats x.scl 0 (ceilDiv (x.tokens * 2) 32)
    ++ walkBeats x.act (min 32 (x.tokens * 4)) (x.tokens * 4 - min 32 (x.tokens * 4))

/-- The rows of activation codes and the scale words of the bytes read. [03_garnet_array.md R78] -/
def splitReads (x : RunP) (bs : List Byte) : List (List Nat) × List Nat :=
  let a := min 32 (x.tokens * 4) * 32
  let sc := ceilDiv (x.tokens * 2) 32 * 32
  let acts := bs.take a ++ bs.drop (a + sc)
  ((chunks 128 64 acts).map fun r => r.map BitVec.toNat, ((chunks 2 64 ((bs.drop a).take sc)).map leNat).take x.tokens)

/-- The plane mask of a run. [03_garnet_array.md R72, R80] -/
def planeMask (skip : Bool) (b : Bank) : Nat := if skip then bankPlanes b else 2 ^ b.prec - 1

/-- Codes of a column, element 0 first. -/
def colCodes (b : Bank) (c : Nat) : List Nat := (List.range 128).map fun k => cellOf b c k % 256

/-- Columns whose stored code at row `k` is 0. [03_garnet_array.md R82] -/
def zeroCols (b : Bank) (k : Nat) : Nat := ((List.range 128).filter fun c => cellOf b c k % 256 = 0).length

/-- Cells gated in one plane cycle of a row. [03_garnet_array.md R82] -/
def gatedCells (b : Bank) (zeros : List Nat) (row : List Nat) : Nat :=
  sumNat ((row.zip zeros).map fun x => if x.1 % 256 = 0 then 128 else if b.int1 then 0 else x.2)

/-- The entry after one block, with the flags of the streamed row. [02_arithmetic.md R49; 03_garnet_array.md R74] -/
def runEntry (f : Int) (start fin : Bool) (nf clamp : Bool) (a : Acc) (sum e : Int) : Acc :=
  let a := if start then accStart else a
  let a := accBlock f a sum e
  let a := { a with nonfin := a.nonfin || nf, clamp := a.clamp || clamp }
  if fin then accEnd f a else a

/-- One token of a run: the entries of its columns, and whether SAT_N or SAT_L was newly set in one.
[03_garnet_array.md R74, R75] -/
def runToken (b : Bank) (codes : List (List Nat)) (f : Int) (x : RunP) (t : Nat) (row : List Nat) (sw : Nat)
    (acc : SMap Acc) : SMap Acc × Bool × Bool :=
  let nf := bitOf sw 8
  let clamp := row.any fun a => a % 256 = 128
  let vals := row.map actVal
  (List.range x.ncols).foldl (fun st c =>
    let old := smGet st.1 (t * 128 + c) accStart
    let sum := blockSum b.prec b.int1 (vals.zip (codes.getD c []))
    let new := runEntry f x.accStart x.accEnd nf clamp old sum (sext 8 (smGet b.exps c 0))
    let was := !x.accStart
    (smSet st.1 (t * 128 + c) new, st.2.1 || (new.satN && !(was && old.satN)), st.2.2 || (new.satL && !(was && old.satL))))
    (acc, false, false)

/-- All tokens of a run. -/
def runTokens (b : Bank) (codes : List (List Nat)) (f : Int) (x : RunP) :
    List (Nat × List Nat × Nat) → SMap Acc → SMap Acc × Bool × Bool
  | [], acc => (acc, false, false)
  | y :: ys, acc =>
    let r := runToken b codes f x y.1 y.2.1 y.2.2 acc
    let z := runTokens b codes f x ys r.1
    (z.1, r.2.1 || z.2.1, r.2.2 || z.2.2)

/-- The records of a closed group, by token. [02_arithmetic.md R49, R55] -/
def runRecords (acc : SMap Acc) (tok : SMap Nat) (f : Int) (x : RunP) : List (List La80) :=
  (List.range x.tokens).map fun t =>
    (List.range x.ncols).map fun c => accRecord f (sext 8 (smGet tok t 0)) (smGet acc (t * 128 + c) accStart)

/-- The run computes: planes, counters, accumulation; a group that ends waits for its results to be written. DESIGN CHOICE
(log 67): where the runs of one group bring different scale words for a token, the last run's word gives EXP.
[02_arithmetic.md R49; 03_garnet_array.md R72 to R76, R80, R82, R92] -/
def runCompute (s : State) (p : Nat) (c : Cmd) (x : RunP) (rows : List (List Nat)) (sws : List Nat) : State :=
  let g := (tileOf s p).garnet
  let b := activeOf g
  let f := runFloor g x
  let mask := planeMask (fbit s TILE_GARNET_CTRL__SKIP_EN p) b
  let planes := popcount 8 mask
  let toks := (List.range x.tokens).zip (rows.zip sws)
  let codes := (List.range x.ncols).map (colCodes b)
  let r := runTokens b codes f x toks g.acc
  let tok := toks.foldl (fun m y => smSet m y.1 (y.2.2 % 512)) g.tok
  let zeros := (List.range 128).map (zeroCols b)
  let gated :=
    if fbit s TILE_GARNET_CTRL__GATE_EN p then planes * sumNat (toks.map fun y => gatedCells b zeros y.2.1) else 0
  let s := onTile s p fun t => { t with
    actPlanes := t.actPlanes + x.tokens * max planes 1
    garnet := { t.garnet with
      acc := r.1
      tok := tok
      group := if x.accEnd then none else some ⟨x.tokens, x.ncols, f⟩
      outs := if x.accEnd then t.garnet.outs ++ [⟨c.serial, runRecords r.1 tok f x, 0, [], []⟩] else t.garnet.outs } }
  let s := bumpN s TILE_GARNET_PLANE_COUNT (x.tokens * max planes 1) p
  let s := bumpN s TILE_GARNET_SKIP_COUNT (x.tokens * (b.prec - planes)) p
  let s := bumpN s TILE_GARNET_GATED_COUNT gated p
  let s := noteSat s p r.2.1 r.2.2
  let s := noteActClamp s p (sumNat (toks.map fun y => (y.2.1.filter fun a => a % 256 = 128).length))
  if x.accEnd then
    onTile (onCmd s p .exec c.serial fun y => { y with phase := .active }) p fun t => stampNext t .exec
  else finishCmd s p .exec c.serial true

/-- The checks of a run in order, then its reads and its computation. [03_garnet_array.md R65, R73, R75, R76; 02_arithmetic.md
R50; 06_spinel_dma.md R144, R149, R150] -/
def runBegin (s : State) (p : Nat) (c : Cmd) : State :=
  let x := runP c.desc
  let g := (tileOf s p).garnet
  let b := activeOf g
  if !runParamOk x then garnetFault s p .exec c 0x13
  else match badOperand ([(x.act, x.tokens * 4), (x.scl, ceilDiv (x.tokens * 2) 32)]
      ++ (if x.accEnd then [(x.dst, runOutWords x)] else [])) with
    | some a => addrFault s p .exec c a
    | none =>
      if !b.loaded then garnetFault s p .exec c 0x11
      else if !groupOk g x then garnetFault s p .exec c 0x12
      else if (List.range x.ncols).any fun i => !scaleOk (runFloor g x) (sext 8 (smGet b.exps i 0)) then
        let s := onGarnet s p fun g => { g with group := none }
        garnetFault (fset s TILE_ARITH_STATUS__SCALE_RANGE 1 p) p .exec c 0x14
      else
        let r := spReadRun (ePort s p 1 (runBeats x)) p (runReads x)
        match r.2.stop with
        | some y => failRead r.1 p .exec c 0x42 y.1 y.2
        | none =>
          let z := splitReads x r.2.bytes
          runCompute r.1 p c x z.1 z.2

/-- The run at the head of the execute path. [03_garnet_array.md R69, R72, R83] -/
def runStep (s : State) (p : Nat) : State :=
  let t := tileOf s p
  match firstIn t .exec .queued with
  | none => s
  | some c => if dOp c.desc = 0x12 && !t.garnet.halted then runBegin s p c else s

/-! ### Results -/

/-- The bytes of one result, and whether a conversion produced an infinity. [02_arithmetic.md R55, R57, R58] -/
def resultBytes (form : Nat) (r : La80) : List Byte × Bool :=
  if form = 0 then (leBytes 4 (convertLa .fp32 r).bits, (convertLa .fp32 r).ovf)
  else if form = 1 then (leBytes 2 (convertLa .bf16 r).bits, (convertLa .bf16 r).ovf)
  else (leBytes 16 (encodeLa r), false)

/-- The FP32 value of a result as an append takes it. [10_attention_kv.md R257] -/
def resultFp32 (form : Nat) (r : La80) : Nat :=
  if form = 1 then (convertLa .bf16 r).bits * 65536 else (convertLa .fp32 r).bits

/-- An append enters the queue of the DMA engine. [10_attention_kv.md R259] -/
def pushAppend (s : State) (p : Nat) (u : TUnit) (c : Cmd) (seq layer kvhead part ntok : Nat) (coded : Bool)
    (kr vr : List (List Nat × List Nat)) (cause : Nat) : State :=
  let f := fresh s
  let a : Append := ⟨f.2, c.serial, u, seq, layer, kvhead, part, ntok, coded, kr, vr, dClass c.desc, c.deadline, none,
    cause, [], false⟩
  let s := onTile f.1 p fun t => { t with appends := t.appends ++ [a] }
  onCmd s p u c.serial fun y => { y with apps := y.apps ++ [f.2] }

/-- The appends of a run, in token order. A list that cannot be read fails as a tagged structure does (log 12).
[10_attention_kv.md R256, R257, R259] -/
def runAppends (s : State) (p : Nat) (c : Cmd) (x : RunP) (rows : List (List Nat)) : State :=
  let lst := bitsOf x.appTag 0 16
  let layer := bitsOf x.appTag 16 8
  let kvh := bitsOf x.appTag 24 4
  let part := bitsOf x.appTag 28 2
  let r := hubRead s 7 (fget s TOPAZ_APPEND__LIST_VA * 2 ^ 21 + 256 * lst) 256
  if r.2.cause ≠ 0 ∨ r.2.tag ≠ 0 then
    pushAppend r.1 p .exec c (Config.noInfo 0x4C (now s) % 2 ^ 20) layer kvh part 1 false [] [] 6
  else
    let ents := (chunks 4 64 r.2.bytes).map leNat
    forS ((rows.zip ents).filter fun y => bitOf y.2 31) (fun y st =>
      let row := [(y.1, [])]
      pushAppend st p .exec c (y.2 % 2 ^ 20) layer kvh part 1 false (if part = 1 then row else []) (if part = 2 then row else []) 0)
      r.1

/-- The results of one token are written; after the last, the run's appends are queued, and a run without any has ended.
[03_garnet_array.md R75, R78; 02_arithmetic.md R57, R60, R61; 10_attention_kv.md R257] -/
def resultStep (s : State) (p : Nat) : State :=
  match (tileOf s p).garnet.outs with
  | [] => s
  | o :: rest =>
    match cmdBy (tileOf s p) .exec o.serial, o.toks with
    | some c, row :: more =>
      let x := runP c.desc
      let out := row.map (resultBytes x.form)
      let bs := o.carry ++ out.flatMap fun y => y.1
      let last := more.isEmpty
      let first := (o.off - o.carry.length) / 32
      let nw := if last then ceilDiv bs.length 32 else bs.length / 32
      let s := spWriteRun (ePort s p 1 (walkBeats x.dst first nw)) p (walkWords x.dst first nw) bs
      let s := setIf s (out.any fun y => y.2) TILE_ARITH_STATUS__CONV_OVF p
      let s := noteSatCount s p (row.filter fun r => r.satN || r.satL).length
      let rows := o.rows ++ (if x.appEn then [row.map (resultFp32 x.form)] else [])
      if last then
        let s := onGarnet s p fun g => { g with outs := rest }
        let s := if x.appEn then runAppends s p c x rows else s
        match cmdBy (tileOf s p) .exec o.serial with
        | some c => if c.apps.isEmpty then finishCmd s p .exec c.serial true else s
        | none => s
      else
        let o' : RunOut := ⟨o.serial, more, o.off + x.ncols * formSize x.form, bs.drop (nw * 32), rows⟩
        onGarnet s p fun g => { g with outs := o' :: rest }
    | _, _ => onGarnet s p fun g => { g with outs := rest }

/-! ### The commands -/

/-- The units may act: the tile runs and its duty is not 0. [16_thermal_power.md R392] -/
def whenIssue (s : State) (p : Nat) (f : State → State) : State :=
  whenRuns s p fun s => if 0 < fget s HUSKY_TILE__DUTY p then f s else s

/-- GARNET_LOAD. [03_garnet_array.md R66] -/
def execGarnetLoad (p : Fin 288) (s : State) : Host.Outcome State Fault Refusal := .next (whenRuns s p fun s => loadStep s p)

/-- GARNET_LOAD_END. [03_garnet_array.md R66] -/
def execGarnetLoadEnd (p : Fin 288) (s : State) : Host.Outcome State Fault Refusal :=
  .next (whenRuns s p fun s => loadEndStep s p)

/-- GARNET_SWAP. [03_garnet_array.md R69] -/
def execGarnetSwap (p : Fin 288) (s : State) : Host.Outcome State Fault Refusal := .next (whenRuns s p fun s => swapStep s p)

/-- GARNET_RUN. [03_garnet_array.md R72] -/
def execGarnetRun (p : Fin 288) (s : State) : Host.Outcome State Fault Refusal := .next (whenIssue s p fun s => runStep s p)

/-- RESULT_WRITE. [03_garnet_array.md R78] -/
def execResultWrite (p : Fin 288) (s : State) : Host.Outcome State Fault Refusal := .next (whenRuns s p fun s => resultStep s p)

end Sys2Proof.Machine
end

