-- ==== Sys2Proof/Machine/Beryl.lean ====
section
/-! DEFINITION. The vector unit: the checks of a command, its operands and its operations (05_beryl_vector.md), and the
completion step of every unit. -/

namespace Sys2Proof.Machine

/-! ### Checks -/

/-- The operations of Table 5.2. [05_beryl_vector.md Table 5.2] -/
def vopKnown (v : Nat) : Bool :=
  decide (v ≤ 0x08) || (decide (0x10 ≤ v) && decide (v ≤ 0x18)) || (decide (0x20 ≤ v) && decide (v ≤ 0x23))
    || (decide (0x30 ≤ v) && decide (v ≤ 0x33)) || v = 0x40 || v = 0x50

/-- The format combination is allowed. [05_beryl_vector.md Table 5.2] -/
def fmtsOk (v fin fout : Nat) : Bool :=
  if v = 0x40 then fin = 3 && fout = 3
  else if v = 0x00 then (fin = 0 || fin = 1 || fin = 3) && decide (fout ≤ 1)
  else if v = 0x23 ∨ v = 0x50 then decide (fin ≤ 1) && fout = 4
  else if v = 0x33 then decide (fin ≤ 1) && fout = 2
  else decide (fin ≤ 1) && decide (fout ≤ 1)

/-- Bits of IMM an operation uses. [05_beryl_vector.md Table 5.2] -/
def immBits (v : Nat) : Nat := if vopRow v then 16 else if v = 0x05 then 32 else 0

/-- Bits of AUX an operation uses. [05_beryl_vector.md Table 5.2] -/
def auxBits (v : Nat) : Nat :=
  if v = 0x05 ∨ v = 0x30 ∨ v = 0x31 ∨ v = 0x32 then 32 else if v = 0x33 then 16 else 0

/-- The parameters of a command are allowed. [05_beryl_vector.md R127] -/
def berylParamOk (x : BerylP) : Bool :=
  vopKnown x.vop && fmtsOk x.vop x.fin x.fout && decide (x.imm < 2 ^ immBits x.vop) && decide (x.aux < 2 ^ auxBits x.vop)
    && (!vopRow x.vop || (decide (berylN x ≠ 0) && x.len % berylN x = 0))

/-- The operation writes one element per row. [05_beryl_vector.md Table 5.2] -/
def vopReduces (v : Nat) : Bool := (decide (0x20 ≤ v) && decide (v ≤ 0x23)) || v = 0x50

/-- Chunks of 128 codes in a row of QUANT. [05_beryl_vector.md R133] -/
def quantChunks (x : BerylP) : Nat := ceilDiv (berylN x) 128

/-- Words of DST. [05_beryl_vector.md R122, R133] -/
def wordsDst (x : BerylP) : Nat :=
  if x.vop = 0x33 then quantChunks x * berylRows x * 4
  else ceilDiv ((if vopReduces x.vop then berylRows x else x.len) * fmtSize x.fout) 32

/-- The operands of a command: number, address, words, element size. [05_beryl_vector.md R122] -/
def berylOperands (x : BerylP) : List (Nat × Nat × Nat × Nat) :=
  [(0, x.a, wordsA x, fmtSize x.fin)]
    ++ (if vopUsesB x.vop then [(1, x.b, wordsB x, if x.vop = 0x50 then 32 else fmtSize x.fin)] else [])
    ++ (if vopUsesC x.vop then [(2, x.c, wordsC x, fmtSize x.fin)] else [])

/-- The results of a command: number, address, words. [05_beryl_vector.md R122, R133] -/
def berylResults (x : BerylP) : List (Nat × Nat × Nat) :=
  [(3, x.dst, wordsDst x)] ++ (if x.vop = 0x33 then [(4, x.aux, ceilDiv (berylRows x * 2) 32)] else [])

/-- The first operand beyond the last word, or breaking its shape. [05_beryl_vector.md R122; 06_spinel_dma.md R144] -/
def berylRange (x : BerylP) : Option Nat :=
  (((berylOperands x).map fun o => (o.1, o.2.1, o.2.2.1)) ++ berylResults x).findSome? fun o =>
    if spaShape o.2.1 ≠ 3 && walkFits o.2.1 o.2.2 then none else some o.1

/-- The first source that overlaps DST without beginning at it with the same element size. [05_beryl_vector.md R123] -/
def berylOverlap (x : BerylP) : Option Nat :=
  let d := walkWords x.dst 0 (wordsDst x)
  (berylOperands x).findSome? fun o =>
    if o.2.1 = x.dst && o.2.2.2 = fmtSize x.fout then none
    else if (walkWords o.2.1 0 o.2.2.1).any fun w => d.contains w then some o.1 else none

/-- The check a command fails, as (code, INFO). [05_beryl_vector.md R127, R122, R123, Table 5.6] -/
def berylCheck (x : BerylP) : Option (Nat × Nat) :=
  if !berylParamOk x then some (0x20, x.vop)
  else match berylRange x with
    | some o => some (0x21, o)
    | none => (berylOverlap x).map fun o => (0x22, o)

/-! ### Reading -/

/-- Passes over operand A. [05_beryl_vector.md Table 5.5] -/
def vopPasses (v : Nat) : Nat :=
  if v = 0x30 ∨ v = 0x32 then 3 else if v = 0x31 ∨ v = 0x33 ∨ v = 0x50 then 2 else 1

/-- An element-wise operation: VOP 0x00 to 0x18 and COMBINE. [05_beryl_vector.md Table 5.5] -/
def vopElem (v : Nat) : Bool := decide (v ≤ 0x18) || v = 0x40

/-- The words of an element-wise command, the operands of each word position together, in order. -/
def elemWords (x : BerylP) : List Nat :=
  (List.range (wordsA x)).flatMap fun i => (berylOperands x).map fun o => walkWord o.2.1 i

/-- The words of the last pass of another command: A, then B, then C. -/
def rowWords (x : BerylP) : List Nat := (berylOperands x).flatMap fun o => walkWords o.2.1 0 o.2.2.1

/-- The beats of one pass over the operands. [06_spinel_dma.md R145] -/
def operandBeats (x : BerylP) : List (List Nat) := (berylOperands x).flatMap fun o => walkBeats o.2.1 0 o.2.2.1

/-- The bytes of each operand of an element-wise command, cut from the interleaved bytes. -/
def splitElem (x : BerylP) (bs : List Byte) : List (List Byte) :=
  let n := (berylOperands x).length
  let words := chunks 32 (bs.length + 1) bs
  (List.range n).map fun k => ((words.zipIdx.filter fun y => y.2 % n = k).map fun y => y.1).flatten

/-- The bytes of each operand of another command. -/
def splitRows : List Nat → List Byte → List (List Byte)
  | [], _ => []
  | n :: ns, bs => bs.take (n * 32) :: splitRows ns (bs.drop (n * 32))

/-- What a command read: the bytes of each operand and, where a word stopped it, that word. [05_beryl_vector.md R138] -/
structure BerylIn where
  ops : List (List Byte)
  stop : Option (Nat × SpRead)
  deriving DecidableEq, Repr

/-- `n` earlier passes over A, up to a word that stops the command. -/
def earlyPasses (s : State) (p : Nat) (ws : List Nat) : Nat → State × Option (Nat × SpRead)
  | 0 => (s, none)
  | n + 1 =>
    let r := spReadRun s p ws
    match r.2.stop with
    | some y => (r.1, some y)
    | none => earlyPasses r.1 p ws n

/-- The reads of a command. Of several tagged source words the one met first stops it: A, B, C at each word position of an element-wise
operation, all passes of A, then B, then C of a row operation (DESIGN CHOICE, log 13). [05_beryl_vector.md R138, Table 5.5] -/
def berylRead (s : State) (p : Nat) (x : BerylP) : State × BerylIn :=
  if vopElem x.vop then
    let r := spReadRun (ePort s p 2 (operandBeats x)) p (elemWords x)
    (r.1, ⟨splitElem x r.2.bytes, r.2.stop⟩)
  else
    let again := (List.replicate (vopPasses x.vop - 1) (walkBeats x.a 0 (wordsA x))).flatten
    let e := earlyPasses (ePort s p 2 (again ++ operandBeats x)) p (walkWords x.a 0 (wordsA x)) (vopPasses x.vop - 1)
    match e.2 with
    | some y => (e.1, ⟨[], some y⟩)
    | none =>
      let r := spReadRun e.1 p (rowWords x)
      (r.1, ⟨splitRows ((berylOperands x).map fun o => o.2.2.1) r.2.bytes, r.2.stop⟩)

/-! ### Values -/

/-- Float format of a code. [05_beryl_vector.md Table 5.1] -/
def fmtOf (f : Nat) : Fmt := if f = 1 then .bf16 else .fp32

/-- The elements that bytes spell. [05_beryl_vector.md R122, R124] -/
def elemsOf (f : Nat) (bs : List Byte) : List FVal :=
  (chunks (fmtSize f) (bs.length + 1) bs).map fun b => decodeF (fmtOf f) (leNat b)

/-- The bytes of a float result. [05_beryl_vector.md R122, R125] -/
def elemBytes (f : Nat) (v : FVal) : List Byte := leBytes (fmtSize f) (encodeF (fmtOf f) v)

/-- What an operation gives. -/
structure BerylOut where
  /-- bytes of DST -/
  bytes : List Byte
  /-- scale words of QUANT -/
  scales : List Byte
  /-- flags of TILE_BERYL_STATUS -/
  fl : FFlags
  masked : Bool
  /-- elements written -/
  elems : Nat
  /-- canonical NaNs written -/
  nans : Nat
  /-- draws made -/
  draws : Nat
  /-- a conversion of a record gave an infinity -/
  convOvf : Bool
  /-- records newly saturated -/
  satL : Nat
  /-- a quantiser met a NaN or an infinity -/
  nonfin : Bool
  deriving DecidableEq, Repr

/-- A result with no side effects but flags. -/
def plainOut (bytes : List Byte) (fl : FFlags) (elems nans : Nat) : BerylOut :=
  ⟨bytes, [], fl, false, elems, nans, 0, false, 0, false⟩

/-- Number of NaNs. -/
def countNan (l : List FVal) : Nat := (l.filter fun v => v = .nan).length

/-- The rows of length N of a list. -/
def rowsOf {α : Type} (n : Nat) (l : List α) : List (List α) := (chunks n (l.length + 1) l).filter fun r => r.length = n

/-- Elements of operand `k` of the input, at most LEN. -/
def inElems (x : BerylP) (i : BerylIn) (k : Nat) : List FVal := (elemsOf x.fin (i.ops.getD k [])).take x.len

/-- Element-wise results. [05_beryl_vector.md R124, R126] -/
def elemOut (x : BerylP) (l : List FStep) : BerylOut :=
  plainOut (l.flatMap fun r => elemBytes x.fout r.v) (outerAll l) l.length (countNan (l.map FStep.v))

/-- An operation on one operand. -/
def elem1 (f : FVal → FStep) (x : BerylP) (i : BerylIn) : BerylOut := elemOut x ((inElems x i 0).map f)

/-- An operation on two operands. -/
def elem2 (f : FVal → FVal → FStep) (x : BerylP) (i : BerylIn) : BerylOut :=
  elemOut x (((inElems x i 0).zip (inElems x i 1)).map fun y => f y.1 y.2)

/-- An operation on three operands. -/
def elem3 (f : FVal → FVal → FVal → FStep) (x : BerylP) (i : BerylIn) : BerylOut :=
  elemOut x (((inElems x i 0).zip ((inElems x i 1).zip (inElems x i 2))).map fun y => f y.1 y.2.1 y.2.2)

/-- The records that bytes spell. [02_arithmetic.md R55] -/
def recordsOf (bs : List Byte) : List La80 := (chunks 16 (bs.length + 1) bs).map fun b => decodeLa (leNat b)

/-- A record converted by COPY: a flagged record gives the NaN of R59 and no flag. [05_beryl_vector.md R125, R126, R127] -/
def copyRecord (f : Fmt) (r : La80) : FStep :=
  let c := convertLa f r
  if r.satN || r.satL || r.nonfin then exactStep .nan
  else
    let mag := c.bits % fmtSign f
    ⟨decodeF f c.bits, { noFlags with ovf := c.ovf, unf := decide (mag < 2 ^ (fmtPrec f - 1)) && decide (r.la ≠ 0) }⟩

/-- COPY. [05_beryl_vector.md R127] -/
def outCopy (x : BerylP) (i : BerylIn) : BerylOut :=
  if x.fin = 3 then
    let l := ((recordsOf (i.ops.getD 0 [])).take x.len).map (copyRecord (fmtOf x.fout))
    { elemOut x l with convOvf := l.any fun r => r.fl.ovf }
  else elem1 (fKeep (fmtOf x.fout)) x i

/-- COMBINE. [02_arithmetic.md R56; 05_beryl_vector.md R127] -/
def outCombine (x : BerylP) (i : BerylIn) : BerylOut :=
  let l := ((recordsOf (i.ops.getD 0 [])).zip (recordsOf (i.ops.getD 1 []))).take x.len
  let r := l.map fun y => combineLa y.1 y.2
  let new := (l.zip r).filter fun y => y.2.satL && !(y.1.1.satN || y.1.1.satL || y.1.2.satN || y.1.2.satL)
  { plainOut (r.flatMap fun y => leBytes 16 (encodeLa y)) noFlags r.length 0 with satL := new.length }

/-- A reduction of each row to a float. [05_beryl_vector.md R129, R130] -/
def reduceRows (f : List FVal → FStep) (x : BerylP) (i : BerylIn) : BerylOut :=
  elemOut x ((rowsOf (berylN x) (inElems x i 0)).map f)

/-- ARGMAX. [05_beryl_vector.md R130] -/
def outArgmax (x : BerylP) (i : BerylIn) : BerylOut :=
  let rows := rowsOf (berylN x) (inElems x i 0)
  let bad := rows.any fun r => r.any fun v => v = .nan
  plainOut (rows.flatMap fun r => leBytes 4 (argMaxR r)) { noFlags with invalid := bad } rows.length 0

/-- A row operation with N results a row. [05_beryl_vector.md R131, R132] -/
def rowsOut (f : List FVal → RowOut) (x : BerylP) (i : BerylIn) : BerylOut :=
  let l := (rowsOf (berylN x) (inElems x i 0)).map f
  let vs := l.flatMap RowOut.vs
  { plainOut (vs.flatMap (elemBytes x.fout)) (l.foldl (fun a r => orFlags a r.fl) noFlags) vs.length (countNan vs) with
    masked := l.any RowOut.masked }

/-- The FP32 parameter in AUX[31:0]. [05_beryl_vector.md Table 5.2] -/
def auxF (x : BerylP) : FVal := decodeF .fp32 (x.aux % 2 ^ 32)

/-- The FP32 parameter in IMM. [05_beryl_vector.md Table 5.2] -/
def immF (x : BerylP) : FVal := decodeF .fp32 x.imm

/-- The first N elements of a vector operand: gains or biases. [05_beryl_vector.md R132] -/
def vecElems (x : BerylP) (i : BerylIn) (k : Nat) : List FVal := (elemsOf x.fin (i.ops.getD k [])).take (berylN x)

/-- The codes of a row in chunks of 128, the last padded with code 0. [05_beryl_vector.md R133] -/
def quantRow (n : Nat) (q : TokenQ) : List (List Byte) :=
  (List.range (ceilDiv n 128)).map fun j =>
    let c := (q.codes.drop (j * 128)).take 128
    c.map codeByte ++ List.replicate (128 - c.length) 0

/-- QUANT: chunk j of row r at word (j × R + r) × 4, scale word of row r at byte 2r. [05_beryl_vector.md R133] -/
def outQuant (x : BerylP) (i : BerylIn) : BerylOut :=
  let n := berylN x
  let qs := (rowsOf n (inElems x i 0)).map quantiseToken
  let rows := qs.map (quantRow n)
  let bytes := (List.range (quantChunks x)).flatMap fun j => rows.flatMap fun r => r.getD j []
  { plainOut bytes noFlags bytes.length 0 with
    scales := qs.flatMap fun q => leBytes 2 (scaleWord q.exp q.nonfin)
    nonfin := qs.any TokenQ.nonfin }

/-- SAMPLE. [05_beryl_vector.md R135, R136] -/
def outSample (x : BerylP) (i : BerylIn) : BerylOut :=
  let recs := (chunks 32 (berylRows x) (i.ops.getD 1 [])).map leNat
  let l := ((rowsOf (berylN x) (inElems x i 0)).zip recs).map fun y => sampleRow y.2 y.1
  { plainOut (l.flatMap fun r => leBytes 4 r.idx) (l.foldl (fun a r => orFlags a r.fl) noFlags) l.length 0 with
    masked := l.any SampleOut.masked
    draws := (l.filter SampleOut.drawn).length }

/-! ### Execution -/

/-- The results are written, with flags and counters; of a command stopped by a tagged word only whole words before it, and the
elements of those words are counted. The flags of elements computed for the last word that is not written are reported
nevertheless (DESIGN CHOICE, log 13). [05_beryl_vector.md R122, R126, R138, R140, R141; 02_arithmetic.md R60, R61] -/
def berylWrite (s : State) (p : Nat) (x : BerylP) (o : BerylOut) (cut : Bool) : State :=
  let nw := if cut then o.bytes.length / 32 else ceilDiv o.bytes.length 32
  let elems := if cut then nw * 32 * o.elems / max o.bytes.length 1 else o.elems
  let nans := if cut && o.nans ≠ 0 then countNan (elemsOf x.fout (o.bytes.take (nw * 32))) else o.nans
  let s := spWriteRun (ePort s p 2 (walkBeats x.dst 0 nw)) p (walkWords x.dst 0 nw) o.bytes
  let na := ceilDiv o.scales.length 32
  let s := if cut then s else spWriteRun (ePort s p 2 (walkBeats x.aux 0 na)) p (walkWords x.aux 0 na) o.scales
  let s := noteBeryl s p o.fl
  let s := setIf s o.masked TILE_BERYL_STATUS__MASKED_ROW p
  let s := setIf s o.convOvf TILE_ARITH_STATUS__CONV_OVF p
  let s := setIf s (decide (0 < o.satL)) TILE_ARITH_STATUS__SAT_L p
  let s := noteSatCount s p o.satL
  let s := noteNonfinite s p o.nonfin
  let s := bumpN s TILE_BERYL_ELEM_COUNT elems p
  let s := bumpN s TILE_BERYL_NAN_COUNT nans p
  bumpN s TILE_BERYL_SAMPLE_COUNT o.draws p

/-- Element groups of a command, for the power estimate. [05_beryl_vector.md R137; 16_thermal_power.md R395] -/
def berylGroups (x : BerylP) : Nat :=
  vopPasses x.vop * ceilDiv x.len
    (if x.vop ≤ 0x18 ∧ x.fin = 1 ∧ x.fout = 1 then 128 else if x.fin = 3 then 16 else 64)

/-- A command whose parameters are in order: read, computed, written; a tagged word stops it. Operations of several passes
have then written nothing (log 13). [05_beryl_vector.md R138, R139] -/
def berylRun (s : State) (p : Nat) (c : Cmd) (x : BerylP) (f : BerylP → BerylIn → BerylOut) : State :=
  let s := onTile s p fun t => { t with actGroups := t.actGroups + berylGroups x }
  let r := berylRead s p x
  match r.2.stop with
  | some y =>
    let s := if vopPasses x.vop = 1 then berylWrite r.1 p x (f x r.2) true else r.1
    failRead s p .beryl c 0x23 y.1 y.2
  | none => finishCmd (berylWrite r.1 p x (f x r.2) false) p .beryl c.serial true

/-- The command at the head of Beryl's queue, when its VOP is `v`. [05_beryl_vector.md R127, R137] -/
def berylStep (s : State) (p v : Nat) (f : BerylP → BerylIn → BerylOut) : State :=
  match firstIn (tileOf s p) .beryl .queued with
  | none => s
  | some c =>
    let x := berylP c.desc
    if x.vop ≠ v then s
    else match berylCheck x with
      | some e => failCmd s p .beryl c e.1 e.2
      | none => berylRun s p c x f

/-- A command with a reserved VOP reaches Beryl. [05_beryl_vector.md R127] -/
def berylReserved (s : State) (p : Nat) : State :=
  match (tileOf s p).qBeryl with
  | c :: _ =>
    if c.phase = .queued && !vopKnown (berylP c.desc).vop then failCmd s p .beryl c 0x20 (berylP c.desc).vop else s
  | [] => s

/-- The outcome of a Beryl row. -/
def berylRow (p : Fin 288) (v : Nat) (f : BerylP → BerylIn → BerylOut) (s : State) : Host.Outcome State Fault Refusal :=
  .next (whenIssue s p fun s => berylStep s p v f)

/-- COMMAND_COMPLETE; a BERYL_OP with a reserved VOP, which has no row of its own, fails here first.
[04_tile_commands.md R100; 05_beryl_vector.md R127] -/
def execCommandComplete (p : Fin 288) (u : Fin 5) (s : State) : Host.Outcome State Fault Refusal :=
  .next (whenRuns s p fun s => completeHead (if u.val = 2 then berylReserved s p else s) p (unitNo u))

/-! ### The commands -/

/-- COPY. [05_beryl_vector.md R127] -/
def execCopy (p : Fin 288) (s : State) : Host.Outcome State Fault Refusal := berylRow p 0x00 outCopy s

/-- ADD. [05_beryl_vector.md R124] -/
def execAdd (p : Fin 288) (s : State) : Host.Outcome State Fault Refusal :=
  berylRow p 0x01 (fun x => elem2 (fAdd (fmtOf x.fout)) x) s

/-- SUB. [05_beryl_vector.md R124] -/
def execSub (p : Fin 288) (s : State) : Host.Outcome State Fault Refusal :=
  berylRow p 0x02 (fun x => elem2 (fSub (fmtOf x.fout)) x) s

/-- MUL. [05_beryl_vector.md R124] -/
def execMul (p : Fin 288) (s : State) : Host.Outcome State Fault Refusal :=
  berylRow p 0x03 (fun x => elem2 (fMul (fmtOf x.fout)) x) s

/-- FMA. [05_beryl_vector.md R124] -/
def execFma (p : Fin 288) (s : State) : Host.Outcome State Fault Refusal :=
  berylRow p 0x04 (fun x => elem3 (fFma (fmtOf x.fout)) x) s

/-- SCALE. [05_beryl_vector.md R127] -/
def execScale (p : Fin 288) (s : State) : Host.Outcome State Fault Refusal :=
  berylRow p 0x05 (fun x => elem1 (fun a => fFma (fmtOf x.fout) a (immF x) (auxF x)) x) s

/-- MAX. [05_beryl_vector.md R125] -/
def execMax (p : Fin 288) (s : State) : Host.Outcome State Fault Refusal :=
  berylRow p 0x06 (fun x => elem2 (fun a b => fKeep (fmtOf x.fout) (fMaxV a b)) x) s

/-- MIN. [05_beryl_vector.md R125] -/
def execMin (p : Fin 288) (s : State) : Host.Outcome State Fault Refusal :=
  berylRow p 0x07 (fun x => elem2 (fun a b => fKeep (fmtOf x.fout) (fMinV a b)) x) s

/-- RELU. [05_beryl_vector.md R125] -/
def execRelu (p : Fin 288) (s : State) : Host.Outcome State Fault Refusal :=
  berylRow p 0x08 (fun x => elem1 (fun a => fKeep (fmtOf x.fout) (fMaxV a (.fin false 0 0))) x) s

/-- EXP. [05_beryl_vector.md R128] -/
def execExp (p : Fin 288) (s : State) : Host.Outcome State Fault Refusal :=
  berylRow p 0x10 (fun x => elem1 (fun a => toOut (fmtOf x.fout) (fExp .fp32 a)) x) s

/-- LOG. [05_beryl_vector.md R128] -/
def execLog (p : Fin 288) (s : State) : Host.Outcome State Fault Refusal :=
  berylRow p 0x11 (fun x => elem1 (fun a => toOut (fmtOf x.fout) (fLog .fp32 a)) x) s

/-- RECIP. [05_beryl_vector.md R128] -/
def execRecip (p : Fin 288) (s : State) : Host.Outcome State Fault Refusal :=
  berylRow p 0x12 (fun x => elem1 (fun a => toOut (fmtOf x.fout) (fRecip .fp32 a)) x) s

/-- RSQRT. [05_beryl_vector.md R128] -/
def execRsqrt (p : Fin 288) (s : State) : Host.Outcome State Fault Refusal :=
  berylRow p 0x13 (fun x => elem1 (fun a => toOut (fmtOf x.fout) (fRsqrt .fp32 a)) x) s

/-- SQRT. [05_beryl_vector.md R128] -/
def execSqrt (p : Fin 288) (s : State) : Host.Outcome State Fault Refusal :=
  berylRow p 0x14 (fun x => elem1 (fun a => toOut (fmtOf x.fout) (fSqrt .fp32 a)) x) s

/-- SIGMOID. [05_beryl_vector.md R128] -/
def execSigmoid (p : Fin 288) (s : State) : Host.Outcome State Fault Refusal :=
  berylRow p 0x15 (fun x => elem1 (fun a => toOut (fmtOf x.fout) (fSigmoid a)) x) s

/-- SILU. [05_beryl_vector.md R128] -/
def execSilu (p : Fin 288) (s : State) : Host.Outcome State Fault Refusal :=
  berylRow p 0x16 (fun x => elem1 (fun a => toOut (fmtOf x.fout) (fSilu a)) x) s

/-- TANH. [05_beryl_vector.md R128] -/
def execTanh (p : Fin 288) (s : State) : Host.Outcome State Fault Refusal :=
  berylRow p 0x17 (fun x => elem1 (fun a => toOut (fmtOf x.fout) (fTanh a)) x) s

/-- GLU. [05_beryl_vector.md R127, R128] -/
def execGlu (p : Fin 288) (s : State) : Host.Outcome State Fault Refusal :=
  berylRow p 0x18 (fun x => elem2 (fun a b => toOut (fmtOf x.fout) (fGlu a b)) x) s

/-- SUM. [05_beryl_vector.md R129] -/
def execSum (p : Fin 288) (s : State) : Host.Outcome State Fault Refusal :=
  berylRow p 0x20 (fun x => reduceRows (fun r => toOut (fmtOf x.fout) (reduceSum 6 false r)) x) s

/-- SUMSQ. [05_beryl_vector.md R129] -/
def execSumsq (p : Fin 288) (s : State) : Host.Outcome State Fault Refusal :=
  berylRow p 0x21 (fun x => reduceRows (fun r => toOut (fmtOf x.fout) (reduceSum 6 true r)) x) s

/-- MAXR. [05_beryl_vector.md R130] -/
def execMaxr (p : Fin 288) (s : State) : Host.Outcome State Fault Refusal :=
  berylRow p 0x22 (fun x => reduceRows (fun r => fKeep (fmtOf x.fout) (rowMaxR r)) x) s

/-- ARGMAX. [05_beryl_vector.md R130] -/
def execArgmax (p : Fin 288) (s : State) : Host.Outcome State Fault Refusal := berylRow p 0x23 outArgmax s

/-- SOFTMAX. [05_beryl_vector.md R131] -/
def execSoftmax (p : Fin 288) (s : State) : Host.Outcome State Fault Refusal :=
  berylRow p 0x30 (fun x => rowsOut (softmaxRow 6 (fmtOf x.fout) (auxF x)) x) s

/-- RMSNORM. [05_beryl_vector.md R132] -/
def execRmsnorm (p : Fin 288) (s : State) : Host.Outcome State Fault Refusal :=
  berylRow p 0x31 (fun x i => rowsOut (fun r => rmsnormRow 6 (fmtOf x.fout) (auxF x) r (vecElems x i 1)) x i) s

/-- LAYERNORM. [05_beryl_vector.md R132] -/
def execLayernorm (p : Fin 288) (s : State) : Host.Outcome State Fault Refusal :=
  berylRow p 0x32
    (fun x i => rowsOut (fun r => layernormRow 6 (fmtOf x.fout) (auxF x) r (vecElems x i 1) (vecElems x i 2)) x i) s

/-- QUANT. [05_beryl_vector.md R133] -/
def execQuant (p : Fin 288) (s : State) : Host.Outcome State Fault Refusal := berylRow p 0x33 outQuant s

/-- COMBINE. [02_arithmetic.md R56] -/
def execCombine (p : Fin 288) (s : State) : Host.Outcome State Fault Refusal := berylRow p 0x40 outCombine s

/-- SAMPLE. [05_beryl_vector.md R136] -/
def execSample (p : Fin 288) (s : State) : Host.Outcome State Fault Refusal := berylRow p 0x50 outSample s

end Sys2Proof.Machine
end

