-- ==== Sys2Proof/Machine/Fabric.lean ====
section
/-! DEFINITION. The fabric: directed links and routes (R269, R270, R283 to R285), the sending of a message, its throttle at
the source (R308), and the responses (R282). -/

namespace Sys2Proof.Machine

/-! ### Directed links

Link L of R298 is 2L in the direction away from its first end (hub to die, die d to d + 1, hub to customer) and 2L + 1 in
the other. Onyx router outputs follow (port 0 north, 1 south, 2 east, 3 west, 4 local), then the spine's outputs to the
row 0 routers, then the inputs of the tiles into their routers. -/

/-- Output `port` of router `s` of region `g`. [11_fabric.md R283] -/
def onyxOut (g s port : Nat) : Nat := 18 + (g * 18 + s) * 5 + port

/-- Spine gateway `c` of region `g` into its router. [11_fabric.md R283, R284] -/
def gateIn (g c : Nat) : Nat := 1458 + g * 3 + c

/-- Tile `p` into its router. [11_fabric.md R283] -/
def tileIn (p : Nat) : Nat := 1506 + p

/-- The link in the other direction. -/
def revLink (l : Nat) : Nat :=
  if l < 18 then l / 2 * 2 + (1 - l % 2)
  else if l < 1458 then
    let r := (l - 18) / 5
    match (l - 18) % 5 with
    | 0 => onyxOut (r / 18) (r % 18 + 3) 1
    | 1 => if r % 18 < 3 then gateIn (r / 18) (r % 18) else onyxOut (r / 18) (r % 18 - 3) 0
    | 2 => onyxOut (r / 18) (r % 18 + 1) 3
    | 3 => onyxOut (r / 18) (r % 18 - 1) 2
    | _ => tileIn r
  else if l < 1506 then onyxOut ((l - 1458) / 3) ((l - 1458) % 3) 1
  else onyxOut ((l - 1506) / 18) ((l - 1506) % 18) 4

/-- Region of an Onyx link. -/
def onyxRegion (l : Nat) : Nat := if l < 1458 then (l - 18) / 90 else if l < 1506 then (l - 1458) / 3 else (l - 1506) / 18

/-- The bridge of directed link `l` ends at a die that has isolated itself and holds it idle. [15_fault_tolerance.md R378] -/
def bridgeIdle (s : State) (l : Nat) : Bool :=
  if l < 8 then s.blood.isolated.contains (l / 2)
  else l < 16 && (s.blood.isolated.contains (l / 2 - 4) || s.blood.isolated.contains ((l / 2 - 3) % 4))

/-- The link carries flits. [11_fabric.md R281, Table 11.10; 15_fault_tolerance.md R378] -/
def linkUp (s : State) (l : Nat) : Bool :=
  if l < 18 then linkState s (l / 2) = 2 && !bridgeIdle s l else !(linkOf s l).down && !(linkOf s l).retrain

/-- The link is DOWN. A part's site link is DOWN until it has trained. [11_fabric.md R281] -/
def linkDown (s : State) (l : Nat) : Bool := if l < 18 then linkState s (l / 2) = 0 else (linkOf s l).down

/-! ### Routes -/

/-- Outputs taken along a row, from column `c` to column `d`, at `n` steps at most. [11_fabric.md R284] -/
def alongRow (g r : Nat) : Nat → Nat → Nat → List Nat
  | 0, _, _ => []
  | n + 1, c, d =>
    if c < d then onyxOut g (3 * r + c) 2 :: alongRow g r n (c + 1) d
    else if d < c then onyxOut g (3 * r + c) 3 :: alongRow g r n (c - 1) d
    else []

/-- Outputs taken along a column, from row `r` to row `q`. [11_fabric.md R284] -/
def alongCol (g c : Nat) : Nat → Nat → Nat → List Nat
  | 0, _, _ => []
  | n + 1, r, q =>
    if r < q then onyxOut g (3 * r + c) 0 :: alongCol g c n (r + 1) q
    else if q < r then onyxOut g (3 * r + c) 1 :: alongCol g c n (r - 1) q
    else []

/-- From router `s` to the tile in slot `t` of the same region: row, column, local port. [11_fabric.md R284] -/
def meshTo (g s t : Nat) : List Nat :=
  alongRow g (s / 3) 3 (s % 3) (t % 3) ++ alongCol g (t % 3) 6 (s / 3) (t / 3) ++ [onyxOut g t 4]

/-- From router `s` out to the spine: south in its own column. [11_fabric.md R284] -/
def meshOut (g s : Nat) : List Nat := alongCol g (s % 3) 6 (s / 3) 0 ++ [onyxOut g (s % 3) 1]

/-- From the spine to the tile in slot `t`: the gateway of its column, north, local port. [11_fabric.md R284] -/
def meshInto (g t : Nat) : List Nat := gateIn g (t % 3) :: meshTo g (t % 3) t

/-- The bridges from die `d` to die `e`. [11_fabric.md Table 11.1, R270] -/
def diePath (s : State) (d e : Nat) : List Nat :=
  let viaHub := [2 * d + 1, 2 * e]
  if d = e then []
  else if e = (d + 1) % 4 then (if linkDown s (8 + 2 * d) then viaHub else [8 + 2 * d])
  else if d = (e + 1) % 4 then (if linkDown s (9 + 2 * e) then viaHub else [9 + 2 * e])
  else viaHub

/-- Region of an end, if it lies in one. -/
def endRegion : End → Option Nat
  | .tile p => some (p / 18)
  | .region g => some g
  | _ => none

/-- The endpoint number of an end. [01_architecture.md R25] -/
def endNo : End → Nat
  | .tile p => p / 18
  | .region g => g
  | .cust => 16
  | .hub => 17

/-- From the source to its die's spine. -/
def leaveOf : End → List Nat
  | .tile p => tileIn p :: meshOut (p / 18) (p % 18)
  | _ => []

/-- From the die's spine to the destination. -/
def enterOf : End → List Nat
  | .tile p => meshInto (p / 18) (p % 18)
  | _ => []

/-- The route between two ends. Region controllers sit at the spine; the copies of a multicast start at its root (R285).
[11_fabric.md Table 11.1] -/
def routeOf (s : State) (a b : End) : List Nat :=
  match a, b with
  | .tile p, .tile q =>
    if p / 18 = q / 18 then tileIn p :: meshTo (p / 18) (p % 18) (q % 18)
    else leaveOf a ++ diePath s (p / 72) (q / 72) ++ enterOf b
  | .cust, .cust => []
  | .hub, .hub => []
  | .hub, .cust => [16]
  | .cust, .hub => [17]
  | _, _ =>
    let up := match endRegion a with
      | some g => leaveOf a ++ (if (endRegion b).isNone then [2 * (g / 4) + 1] else [])
      | none => if a = .cust then [17] else []
    let mid := match endRegion a, endRegion b with
      | some g, some h => diePath s (g / 4) (h / 4)
      | none, some h => [2 * (h / 4)]
      | _, none => []
    up ++ mid ++ (if b = .cust then [16] else enterOf b)

/-- A multicast to a region: it enters at gateway 1, or starts at the sender's router. [11_fabric.md R285] -/
def routeMc (s : State) (a : End) (g : Nat) : List Nat :=
  match a with
  | .tile p => if p / 18 = g then [tileIn p] else leaveOf a ++ diePath s (p / 72) (g / 4) ++ [gateIn g 1]
  | .cust => [17, 2 * (g / 4), gateIn g 1]
  | .hub => [2 * (g / 4), gateIn g 1]
  | .region _ => [gateIn g 1]

/-- Root of a multicast in region `g`: its sender's router, or the one at gateway 1. [11_fabric.md R285] -/
def mcRoot (a : End) (g : Nat) : Nat :=
  match a with
  | .tile p => if p / 18 = g then p % 18 else 1
  | _ => 1

/-- The port by which router `r` reaches slot `t` in a multicast: along the row, then along the column, then local.
[11_fabric.md R283, R285] -/
def mcPort (r t : Nat) : Nat :=
  if r % 3 < t % 3 then 2 else if t % 3 < r % 3 then 3 else if r / 3 < t / 3 then 0 else if t / 3 < r / 3 then 1 else 4

/-! ### Messages -/

/-- A message with nothing filled in. -/
def blankMsg (id : Nat) (typ : MsgType) (vc : Nat) (src dst : End) (cls : Nat) (deadline : Option Nat) (txn : Nat) : Msg where
  id := id
  typ := typ
  vc := vc
  src := src
  dst := dst
  cls := cls
  deadline := deadline
  txn := txn
  wire := txn
  car := false
  chan := 0
  win := 0
  mask := 0
  sectors := []
  cause := 0
  va := 0
  lmask := 0
  phys := false
  subs := []
  dstSpa := 0
  dstSlot := none
  last := false
  mg := .none
  route := []
  got := 0
  sent := 0
  group := none
  go := false
  held := none
  stamp := id
  late := false
  waitSince := none
  gen := none

/-- A message enters the fabric. -/
def pushMsg (s : State) (m : Msg) : State := { s with msgs := s.msgs ++ [m] }

/-- `s` with message number `n` changed by `f`. -/
def onMsg (s : State) (n : Nat) (f : Msg → Msg) : State := { s with msgs := mapIf (fun m => m.id = n) f s.msgs }

/-- Number of flits of a message. [11_fabric.md R274, Table 11.3] -/
def flitCount (m : Msg) : Nat := dataFlits m.sectors.length

/-- The flits of a message leave the input buffer that holds them. [11_fabric.md R276] -/
def leaveBuffer (s : State) (l vc n : Nat) : State :=
  onLink s l fun k => { k with
    used := smSet k.used vc (smGet k.used vc 0 - n)
    left := smSet k.left vc (smGet k.left vc 0 + n) }

/-- The other copies that share the buffered flits of a message. [11_fabric.md R285] -/
def copiesOf (s : State) (m : Msg) : List Msg := s.msgs.filter fun x => x.group.isSome && x.group = m.group && x.id ≠ m.id

/-- Flits of a message that its input buffer no longer needs for the other copies. [11_fabric.md R276, R285] -/
def sentByAll (l : List Msg) (n : Nat) : Nat := l.foldl (fun a x => min a x.sent) n

/-- A message is gone: the flits that no copy of it still needs leave the buffer that holds it, those that crossed its present
output leave the next one, and that output is free for another message. [11_fabric.md R271, R276] -/
def takeMsg (s : State) (m : Msg) : State :=
  let others := copiesOf s m
  let s := { s with msgs := s.msgs.filter fun x => x.id ≠ m.id }
  let s := match m.held with
    | some l => leaveBuffer s l m.vc (sentByAll others (flitCount m) - sentByAll others m.sent)
    | none => s
  match m.route.head? with
  | none => s
  | some l =>
    onLink (leaveBuffer s l m.vc m.got) l fun k =>
      { k with cur := if (smFind k.cur m.vc).any fun x => x.1 = m.id then smDel k.cur m.vc else k.cur }

/-- Message number `n`, when it has arrived at its destination and no earlier message of its pair of units and its virtual
channel is left on its way there. [11_fabric.md R271] -/
def arrived (s : State) (n : Nat) (typ : MsgType) : Option Msg :=
  match s.msgs.find? fun m => m.id = n with
  | none => none
  | some m =>
    if m.typ = typ && m.route.isEmpty
        && !(s.msgs.any fun x => x.id < n && x.src = m.src && x.dst = m.dst && x.vc = m.vc && x.phys = m.phys) then some m
    else none

/-- A response to message `m` from the unit that was its destination. A response whose path is DOWN is lost.
[11_fabric.md R274, R281] -/
def respond (s : State) (m : Msg) (typ : MsgType) (secs : List Sector) : State :=
  let f := fresh s
  let r := routeOf s m.dst m.src
  if r.any fun l => linkDown s l then f.1
  else pushMsg f.1 { blankMsg f.2 typ 1 m.dst m.src m.cls none m.txn with
    wire := m.wire
    sectors := secs
    mask := sectorsMask (secs.map fun x => x.s)
    route := r }

/-- The unit that refuses a request addressed to `e`: for a fenced tile, whose port admits nothing, the region controller.
[15_fault_tolerance.md R363; 11_fabric.md R286] -/
def refuser (s : State) (e : End) : End :=
  match e with
  | .tile q => if fenced s q then .region (q / 18) else e
  | _ => e

/-- A NOEP that a unit at the end of `m`'s path generates. [11_fabric.md R282] -/
def respondNoep (s : State) (m : Msg) (cause : Nat) : State :=
  let f := fresh (countNoep s)
  let r := routeOf s (refuser s m.dst) m.src
  if r.any fun l => linkDown s l then f.1
  else pushMsg f.1 { blankMsg f.2 .noep 1 (refuser s m.dst) m.src m.cls none m.txn with wire := m.wire, cause := cause, route := r }

/-- A NOEP that the own region controller of `m`'s source generates before the request leaves: one flit, also for the several
receivers of a multicast, whose numbers ride beside it. [11_fabric.md R282] -/
def localNoep (s : State) (m : Msg) (cause : Nat) : State :=
  let f := fresh (countNoep s)
  let from_ := match endRegion m.src with
    | some g => End.region g
    | none => End.hub
  pushMsg f.1 { blankMsg f.2 .noep 1 from_ m.src m.cls none m.txn with wire := m.wire, subs := m.subs, cause := cause }

/-- The region of an end is fenced. [15_fault_tolerance.md R377] -/
def regionShut (s : State) (e : End) : Bool := (endRegion e).any fun g => fbit s REGION_FENCE__REGION_FENCED g

/-- The cause of Table 11.6 that a request meets before it leaves: an absent endpoint, a die that is being drained, a fenced
region, be its links DOWN or not, a path that is DOWN; 0 for none. [11_fabric.md Table 11.6; 15_fault_tolerance.md R377, R380] -/
def sendCause (s : State) (dst : End) (route : List Nat) : Nat :=
  let gone := match endRegion dst with
    | some g => dieShut s (g / 4)
    | none => false
  if dst = .cust && !(partU s && fbit s FAB_LINK_STATUS__POPULATED 8) then 1
  else if gone then 5
  else if regionShut s dst then 3
  else if route.any fun l => linkDown s l then 5
  else 0

/-- A request is sent, or answered at once by NOEP. [11_fabric.md R269, R282] -/
def sendNow (s : State) (m : Msg) (route : List Nat) : State :=
  let c := sendCause s m.dst route
  if c ≠ 0 then localNoep s m c else pushMsg s { m with route := route }

/-! ### What leaves the DMA engine -/

/-- Tagged words carried into or out of Spinel. [06_spinel_dma.md R150] -/
def notePoison (s : State) (p n : Nat) : State := if n = 0 then s else bumpN s TILE_DMA_POISON_COUNT n p

/-- Sectors that carry a tag. [06_spinel_dma.md R150] -/
def taggedSecs (l : List Sector) : Nat := (l.filter fun x => x.tag ≠ 0).length

/-- Burst `id` is one of a DMA command's own, or of the append that it made. [06_spinel_dma.md R158] -/
def ownsPend (apps : List Append) (c : Cmd) (id : Nat) : Bool :=
  (c.pend.any fun x => x.id = id)
    || apps.any fun a => a.unit = .dma && a.cmd = c.serial && a.pend.any fun x => x.id = id

/-- `n` tagged words leave with burst `id`: counted, and POISON of its command. [06_spinel_dma.md R150] -/
def carryTags (s : State) (p id n : Nat) : State :=
  if n = 0 then s
  else onTile (notePoison s p n) p fun t => { t with
    qDma := t.qDma.map fun c => if ownsPend t.appends c id then { c with poison := true } else c }

/-- A burst of the DMA engine is counted. [06_spinel_dma.md Table 6.13] -/
def countSent (s : State) (p mask : Nat) (remote : Bool) : State :=
  let s := bump (bumpN s TILE_DMA_SECTOR_COUNT (popcount 64 mask) p) TILE_DMA_BURST_COUNT p
  if remote then bump s TILE_DMA_REMOTE_COUNT p else s

/-- A request of tile `p` leaves its engine: counted as a burst, and its tagged words as carried unless it meets NOEP at once.
[06_spinel_dma.md R150, R151, R163] -/
def admitReq (s : State) (p : Nat) (m : Msg) : State :=
  let s := countSent s p m.mask (m.dst ≠ .cust)
  let r := routeOf s m.src m.dst
  sendNow (if sendCause s m.dst r = 0 then carryTags s p m.txn (taggedSecs m.sectors) else s) m r

/-! ### Throttle at the source (R308) -/

/-- The latest summary that region `g` holds throttles class `c` at tile `q`. [12_regulation.md R308] -/
def throttled (s : State) (g q c : Nat) : Bool :=
  match smFind (regionOf s g).ovf (q / 18) with
  | none => false
  | some x => decide (now s < x.1 + overAge) && bitOf (x.2.getD (q % 18) 0) c

/-- Requests of class `c` to tile `q` admitted by region `g` in this 64 VCLK. [12_regulation.md R308] -/
def admitted (s : State) (g q c : Nat) : Nat := smGet (regionOf s g).admits (q * 8 + c) 0

/-- The regulator of region `g` admits one more request. [12_regulation.md R308] -/
def mayAdmit (s : State) (g q c : Nat) : Bool :=
  !throttled s g q c || decide (admitted s g q c < fget s REGION_QOS_CTRL__FB_THR g)

/-- A request is counted as admitted. -/
def noteAdmit (s : State) (g q c : Nat) : State :=
  onRegion s g fun r => { r with admits := smSet r.admits (q * 8 + c) (smGet r.admits (q * 8 + c) 0 + 1) }

/-- Target tile and class under which a waiting request is regulated. -/
def regKey (m : Msg) : Option (Nat × Nat) :=
  match m.dst with
  | .tile q => some (q, m.cls)
  | _ => none

/-- The requests that wait at the regulator of region `g`, tile by tile. [12_regulation.md R308] -/
def regionWaiting (s : State) (g : Nat) : List Msg := (List.range 18).flatMap fun k => (tileOf s (g * 18 + k)).waiting

/-- A tile's request to another vault: sent, or kept at its source while it is throttled or behind one that is; the router
admits nothing of a fenced tile (15_fault_tolerance.md R363). The regulator of
the region keeps one arrival order over its tiles (log 74). [12_regulation.md R308] -/
def sendRequest (s : State) (p : Nat) (m : Msg) : State :=
  if fenced s p then s
  else match regKey m with
  | none => admitReq s p m
  | some k =>
    let g := p / 18
    if mayAdmit s g k.1 k.2 && !((regionWaiting s g).any fun x => regKey x = some k) then
      admitReq (noteAdmit s g k.1 k.2) p m
    else onTile (bump s REGION_QOS_THROTTLE_COUNT g) p fun t => { t with waiting := t.waiting ++ [m] }

/-- One waiting request of region `g`: sent when its turn has come and it is admitted. [12_regulation.md R308] -/
def releaseMsg (g : Nat) (m : Msg) (s : State) : State :=
  match regKey m, m.src with
  | some k, .tile p =>
    if mayAdmit s g k.1 k.2 && !((regionWaiting s g).any fun x => x.id < m.id && regKey x = some k) then
      admitReq (onTile (noteAdmit s g k.1 k.2) p fun t => { t with waiting := t.waiting.filter fun x => x.id ≠ m.id }) p m
    else s
  | _, _ => s

/-- A message put into a list ordered by number. -/
def insertById (m : Msg) : List Msg → List Msg
  | [] => [m]
  | x :: xs => if m.id < x.id then m :: x :: xs else x :: insertById m xs

/-- The waiting requests of the tiles of region `g`, in order of arrival: those now admitted are sent. [12_regulation.md R308] -/
def releaseRegion (s : State) (g : Nat) : State :=
  forS ((regionWaiting s g).foldr insertById []) (fun m st => releaseMsg g m st) s

end Sys2Proof.Machine
end

