-- ==== Sys2Proof/Machine/Dma.lean ====
section
/-! DEFINITION. The DMA engine of a tile: walks and bursts (R151 to R155), multicast (R156, R288), KV_APPEND (R157), parts,
their failures and the end of a command (R158 to R161). -/

namespace Sys2Proof.Machine

/-! ### Walks -/

/-- One sector of a command: its device virtual address, its Spinel word, and for a write the data with its tag. -/
structure Item where
  va : Nat
  word : Nat
  data : List Byte
  tag : Nat
  deriving DecidableEq, Repr

/-- Where a burst goes: a window of a vault channel, or a window of the customer die. [06_spinel_dma.md R151; 11_fabric.md R295] -/
inductive BTo where
  | vault (p c w : Nat)
  | cust (va : Nat)
  deriving DecidableEq, Repr

/-- A burst being formed: its sectors in the order the walk reached them. [06_spinel_dma.md R152] -/
structure OBurst where
  dst : BTo
  part : Nat
  gen : Nat
  items : List (Nat × Item)
  deriving DecidableEq, Repr

/-- The walk of a command: the table entry last looked up, open bursts (oldest first), bursts issued, parts.
[06_spinel_dma.md R152, R158] -/
structure Walk where
  st : State
  page : Option (Nat × Option Nat)
  opens : List OBurst
  closed : List OBurst
  parts : List Part
  ovf : Bool
  deriving DecidableEq, Repr

/-- The destination of a target. [06_spinel_dma.md R158] -/
def destOf : Target → Dest
  | .vault p _ _ => .vault p
  | .cust => .cust
  | .unmapped => .unmapped

/-- The window and the sector of a target: the sector that contains the address. Table 4.9 gives the VA_BASE of a gather or scatter no
alignment; where an element does not begin at a multiple of 32, the sectors that contain its addresses move (DESIGN CHOICE, log 23).
[06_spinel_dma.md R151; 07_vaults.md R166] -/
def windowOf (va : Nat) : Target → BTo × Nat
  | .vault p c off => (.vault p c (off / 2048), off % 2048 / 32)
  | _ => (.cust (va / 2048 * 2048), va % 2048 / 32)

/-- Number of a destination among the parts. [06_spinel_dma.md R158] -/
def partNo (parts : List Part) (d : Dest) : Nat := parts.findIdx fun x => x.dest = d

/-- Distinct sectors of a burst. -/
def burstMask (b : OBurst) : Nat := sectorsMask (b.items.map fun x => x.1)

/-- An address translated in a walk; sectors of one page share a lookup. [10_attention_kv.md R239, R241] -/
def walkTarget (g : Nat) (write : Bool) (w : Walk) (va : Nat) : Walk × Target :=
  if va / 2 ^ 40 ≠ 0 then (w, if vaCust va then .cust else .unmapped)
  else
    match w.page with
    | some pg =>
      if pg.1 = vaIndex va then (w, entTarget pg.2 va write)
      else
        let x := regionLookup w.st g (vaIndex va)
        ({ w with st := x.1, page := some (vaIndex va, x.2) }, entTarget x.2 va write)
    | none =>
      let x := regionLookup w.st g (vaIndex va)
      ({ w with st := x.1, page := some (vaIndex va, x.2) }, entTarget x.2 va write)

/-- A sector joins or opens a burst; a full burst, and the oldest of MERGE_OPEN open ones, is issued.
[06_spinel_dma.md R152] -/
def walkJoin (limit part gen : Nat) (w : Walk) (dst : BTo) (sec : Nat) (it : Item) : Walk :=
  match w.opens.find? fun b => b.dst = dst with
  | some b =>
    let b' := { b with items := b.items ++ [(sec, it)] }
    if burstMask b' = 2 ^ 64 - 1 then
      { w with opens := w.opens.filter fun x => x.dst ≠ dst, closed := w.closed ++ [b'] }
    else { w with opens := mapIf (fun x => x.dst = dst) (fun _ => b') w.opens }
  | none =>
    let nb : OBurst := ⟨dst, part, gen, [(sec, it)]⟩
    if w.opens.length < max limit 1 then { w with opens := w.opens ++ [nb] }
    else { w with opens := w.opens.drop 1 ++ [nb], closed := w.closed ++ w.opens.take 1 }

/-- An address that the walk no longer reaches: its part is not issued whole. [06_spinel_dma.md R158, Table 6.7] -/
def walkMiss (g : Nat) (write : Bool) (w : Walk) (va : Nat) : Walk :=
  { w with parts := cutPart w.parts (partNo w.parts (destOf (walkTarget g write w va).2)) }

/-- The walk reaches one sector. An unmapped address fails its part at once; a 17th destination ends the walk.
[06_spinel_dma.md R152, R158] -/
def walkItem (g limit : Nat) (write : Bool) (w : Walk) (it : Item) : Walk :=
  if w.ovf then walkMiss g write w it.va
  else
    let x := walkTarget g write w it.va
    let w := x.1
    let d := destOf x.2
    let n := partNo w.parts d
    if n = w.parts.length ∧ n = 16 then { w with ovf := true }
    else
      let parts := if n = w.parts.length then w.parts ++ [⟨d, 0, false⟩] else w.parts
      let w := { w with parts := parts }
      if d = .unmapped then w
      else
        let dst := windowOf it.va x.2
        walkJoin limit n (regionOf w.st g).gen w dst.1 dst.2 it

/-- The walk of a list of sectors. Where it is cut short, `rest` gives the addresses that it no longer reaches; then, and after a 17th
destination, the open bursts are not issued. [06_spinel_dma.md R152, R158] -/
def walkItems (s : State) (p : Nat) (write : Bool) (rest : Option (List Nat)) (its : List Item) : Walk :=
  let w := its.foldl (walkItem (p / 18) (fget s TILE_DMA_CTRL__MERGE_OPEN p) write) ⟨s, none, [], [], [], false⟩
  if w.ovf || rest.isSome then
    let w := { w with parts := w.opens.foldl (fun ps b => cutPart ps b.part) w.parts }
    (rest.getD []).foldl (walkMiss (p / 18) write) w
  else { w with opens := [], closed := w.closed ++ w.opens }

/-! ### Parts and the end of a command -/

/-- ERR of a NOEP cause. [11_fabric.md Table 11.6] -/
def noepErr (cause : Nat) : Nat := if cause = 2 then 1 else if cause = 3 then 2 else if cause = 4 then 3 else 4

/-- Pending entries whose burst still waits at the source. [12_regulation.md R308] -/
def waitingPend (ws : List Msg) (x : Pend) : Bool := ws.any fun m => m.txn = x.id

/-- The bursts of part `n` of a command that wait at the source are given up: nothing more of a failed part is issued.
[06_spinel_dma.md R158] -/
def dropWaiting (s : State) (p serial n : Nat) : State :=
  onTile s p fun t =>
    let mine := (t.qDma.filter fun c => c.serial = serial).flatMap (fun c => c.pend)
      ++ (t.appends.filter fun a => a.unit = .dma && a.cmd = serial).flatMap (fun a => a.pend)
    let gone := (mine.filter fun x => x.part = n && waitingPend t.waiting x).map fun x => x.id
    let keep := fun (l : List Pend) => l.filter fun x => !gone.contains x.id
    { t with
      waiting := t.waiting.filter fun m => !gone.contains m.txn
      qDma := t.qDma.map fun c => { c with pend := keep c.pend }
      appends := t.appends.map fun a => { a with pend := keep a.pend } }

/-- Part `n` of a command fails for the first time: ERR is kept, the part is counted, and its bursts that have not left are
given up. [06_spinel_dma.md R158, Table 6.13] -/
def partFail (s : State) (p serial n err : Nat) : State :=
  match cmdBy (tileOf s p) .dma serial with
  | none => s
  | some c =>
    match c.parts[n]? with
    | some x =>
      if x.err = 0 then
        dropWaiting (bump (onCmd s p .dma serial fun y => { y with parts := failPart n err y.parts }) TILE_DMA_PART_FAIL_COUNT p)
          p serial n
      else s
    | none => s

/-- Every response is in: the command ends. A command that raised a fault completes FAIL; one that an abort stopped is
stopped; else FAIL after a 17th destination or a failed part, or OK. The fault of such a FAIL is raised when the command
completes. A KV_APPEND ends with its append. [06_spinel_dma.md R158 to R161] -/
def dmaEnd (s : State) (p serial : Nat) : State :=
  match cmdBy (tileOf s p) .dma serial with
  | none => s
  | some c =>
    if c.phase = .active && c.pend.isEmpty && c.apps.isEmpty then
      if c.faulted then onTile (onCmd s p .dma serial fun y => { y with phase := .done, ok := false }) p fun t => stampNext t .dma
      else if c.stopped then updQuiet (dmaStopDone s p c) p
      else if dOp c.desc = 0x35 then s
      else finishCmd s p .dma serial (!c.ovf && !c.parts.any fun x => x.err ≠ 0)
    else s

/-- A pending response of a command is accounted for. -/
def dropPend (s : State) (p serial id : Nat) : State :=
  onCmd s p .dma serial fun c => { c with pend := c.pend.filter fun x => x.id ≠ id }

/-- A response has reported a failure of part `n`. [06_spinel_dma.md R158] -/
def pendFailed (s : State) (p serial id n err : Nat) : State := dmaEnd (dropPend (partFail s p serial n err) p serial id) p serial

/-- A command of the engine is active with its parts; unmapped addresses have failed theirs. [06_spinel_dma.md R158] -/
def beginCmd (s : State) (p serial : Nat) (parts : List Part) (ovf : Bool) : State :=
  let s := onCmd s p .dma serial fun c => { c with phase := .active, parts := parts, ovf := ovf }
  let s := onTile s p fun t => stampNext t .dma
  forS (parts.zipIdx.filter fun x => x.1.dest = .unmapped) (fun x st => partFail st p serial x.2 1) s

/-- A command that fails before it accesses anything. [06_spinel_dma.md R144, R161] -/
def refuseCmd (s : State) (p : Nat) (c : Cmd) (code info : Nat) : State := failCmd s p .dma c code info

/-! ### Issue -/

/-- The sectors of a write burst; the sector named last stands. [06_spinel_dma.md R153, R155] -/
def burstSecs (b : OBurst) : List Sector :=
  (maskSectors (burstMask b)).map fun i =>
    match (b.items.reverse.find? fun x => x.1 = i) with
    | some x => ⟨i, x.2.data, x.2.tag⟩
    | none => ⟨i, [], 0⟩

/-- The request message of a burst to another vault or to the customer die. [11_fabric.md R274, R275, R295] -/
def burstMsg (p id : Nat) (write : Bool) (cls : Nat) (deadline : Option Nat) (b : OBurst) : Msg :=
  let secs := if write then burstSecs b else []
  match b.dst with
  | .vault q ch w =>
    { blankMsg id (if write then .wr else .rd) 0 (.tile p) (.tile q) cls deadline id with
      chan := ch
      win := w
      mask := burstMask b
      sectors := secs }
  | .cust va =>
    { blankMsg id (if write then .vwr else .vrd) 0 (.tile p) .cust cls deadline id with
      va := va
      mask := burstMask b
      sectors := secs }

/-- Region endpoint that a burst addresses, none for the customer die. [11_fabric.md R282] -/
def destRegion : BTo → Option Nat
  | .vault q _ _ => some (q / 18)
  | .cust _ => none

/-- A pending entry of a burst. -/
def burstPend (s : State) (id : Nat) (b : OBurst) : Pend :=
  ⟨id, b.part, b.items.map fun x => (x.1, x.2.word), destRegion b.dst, now s, b.gen⟩

/-- One burst of a command is issued: to the tile's own vault, or as a message. Its own controller refuses at once; a write
that its own controller accepts is complete. Nothing more of a failed part is issued. [06_spinel_dma.md R151, R158;
07_vaults.md R175, R184] -/
def issueBurst (s : State) (p serial : Nat) (write : Bool) (b : OBurst) : State :=
  match cmdBy (tileOf s p) .dma serial with
  | none => s
  | some c =>
    if ((c.parts[b.part]?).map fun x => x.err).getD 1 ≠ 0 then s
    else
      let remote := fun (s : State) =>
        let f := fresh s
        let s := onCmd f.1 p .dma serial fun y => { y with pend := y.pend ++ [burstPend f.1 f.2 b] }
        sendRequest s p (burstMsg p f.2 write (dClass c.desc) c.deadline b)
      match b.dst with
      | .cust _ => remote s
      | .vault q ch w =>
        if q ≠ p then remote s
        else
          let cause := vaultCause s p ch
          if cause ≠ 0 then partFail s p serial b.part (noepErr cause)
          else
            let f := fresh (countSent s p (burstMask b) false)
            let tags := if write then taggedSecs (burstSecs b) else 0
            let s := if write then onCmd (notePoison f.1 p tags) p .dma serial fun y => { y with
                poison := y.poison || decide (tags ≠ 0) }
              else onCmd f.1 p .dma serial fun y => { y with pend := y.pend ++ [burstPend f.1 f.2 b] }
            acceptBurst s p ch ⟨f.2, write, if write then 1 else 0, dClass c.desc, w, burstMask b,
              if write then burstSecs b else [], if write then .none else .dma serial, c.deadline, false, 0, 0, 0, false, false⟩

/-- The bursts of a command are issued in order. [06_spinel_dma.md R152] -/
def issueAll (s : State) (p serial : Nat) (write : Bool) (bs : List OBurst) : State :=
  forS bs (fun b st => issueBurst st p serial write b) s

/-- A transfer: the walk, its parts, its bursts, and its end if nothing is left to wait for. [06_spinel_dma.md R152, R158] -/
def transfer (s : State) (p : Nat) (c : Cmd) (write : Bool) (rest : Option (List Nat)) (its : List Item) : State :=
  let w := walkItems s p write rest its
  let s := beginCmd w.st p c.serial w.parts w.ovf
  issueAll s p c.serial write w.closed

/-- Source words of a transfer up to the first that is found uncorrectable, and that word. [06_spinel_dma.md R149, R150] -/
def readSource (s : State) (p : Nat) : List Nat → State × List SpRead × Option (Nat × SpRead)
  | [] => (s, [], none)
  | w :: ws =>
    let r := spRead s p w
    if r.2.ue.isSome then (r.1, [], some (w, r.2))
    else
      let x := readSource r.1 p ws
      (x.1, r.2 :: x.2.1, x.2.2)

/-- An uncorrectable source word raises FLT_SPINEL_ECC; its command completes FAIL once the bursts already issued have ended.
[06_spinel_dma.md R149, R161] -/
def sourceFault (s : State) (p : Nat) (c : Cmd) (bad : Option (Nat × SpRead)) : State :=
  match bad with
  | none => s
  | some b =>
    let s := onCmd s p .dma c.serial fun y => { y with faulted := true }
    raiseFault s p 0x41 6 (cmdRef c) (b.1 + b.2.ue.getD 0 * 2 ^ 16)

/-- Spinel address of a transfer, at the same bits in Tables 4.8 and 4.9. [04_tile_commands.md Tables 4.8, 4.9] -/
def dSpa (d : Nat) : Nat := bitsOf d 112 16

/-- A write of words from Spinel to addresses. [06_spinel_dma.md R149, R150, R153] -/
def storeWords (s : State) (p : Nat) (c : Cmd) (vas : List Nat) (words : List Nat) : State :=
  let r := readSource (dPort s p 4 (shapeBeats (dSpa c.desc) words)) p words
  let its := ((vas.zip words).zip r.2.1).map fun x => (⟨x.1.1, x.1.2, x.2.data, x.2.tag⟩ : Item)
  let s := transfer r.1 p c true (r.2.2.map fun _ => vas.drop its.length) its
  dmaEnd (sourceFault s p c r.2.2) p c.serial

/-! ### Strided transfers -/

/-- Addresses of a strided command in the order of its walk. [06_spinel_dma.md R153] -/
def strideVas (x : StrideP) : List Nat :=
  (List.range x.rows).flatMap fun i => (List.range (x.bytes / 32)).map fun j => x.va + i * x.vstride + j * 32

/-- Spinel words of a strided command in the order of its walk. [06_spinel_dma.md R153] -/
def strideWords (x : StrideP) : List Nat :=
  (List.range x.rows).flatMap fun i => walkWords x.spa (i * x.sstride) (x.bytes / 32)

/-- The Spinel words of a command lie in Spinel and its start satisfies its shape. [06_spinel_dma.md R144] -/
def spanOk (a : Nat) (ws : List Nat) : Bool := shapeOk a && ws.all fun w => decide (w < spWords)

/-- DMA_READ reaches the engine. [06_spinel_dma.md R144, R153] -/
def readBegin (s : State) (p : Nat) (c : Cmd) : State :=
  let x := strideP c.desc
  let ws := strideWords x
  if !spanOk x.spa ws then refuseCmd s p c 0x40 (spaWord x.spa)
  else
    let its := ((strideVas x).zip ws).map fun y => (⟨y.1, y.2, [], 0⟩ : Item)
    dmaEnd (transfer s p c false none its) p c.serial

/-- DMA_WRITE reaches the engine. [06_spinel_dma.md R144, R153] -/
def writeBegin (s : State) (p : Nat) (c : Cmd) : State :=
  let x := strideP c.desc
  let ws := strideWords x
  if !spanOk x.spa ws then refuseCmd s p c 0x40 (spaWord x.spa) else storeWords s p c (strideVas x) ws

/-! ### Gather and scatter -/

/-- Words of the index list. [06_spinel_dma.md R154] -/
def idxWords (x : GatherP) : List Nat := walkWords x.idx 0 (ceilDiv (x.count * idxSize x.fmt) 32)

/-- Words of the elements. [06_spinel_dma.md R154] -/
def elemSpan (x : GatherP) : List Nat := walkWords x.spa 0 (x.count * (x.elem / 32))

/-- The indices, in order. [06_spinel_dma.md R154, Table 6.6] -/
def indicesOf (x : GatherP) (bs : List Byte) : List Nat :=
  ((chunks (idxSize x.fmt) (bs.length + 1) bs).map leNat).take x.count

/-- The index is the sentinel. [06_spinel_dma.md Table 6.6] -/
def isSentinel (x : GatherP) (i : Nat) : Bool := x.fmt = 2 && i = 2 ^ 32 - 1

/-- Elements of a command: number, index, words. -/
def elemsList (x : GatherP) (idx : List Nat) : List (Nat × Nat × List Nat) :=
  idx.zipIdx.map fun y => (y.2, y.1, walkWords x.spa (y.2 * (x.elem / 32)) (x.elem / 32))

/-- Addresses of an element. [06_spinel_dma.md R154] -/
def elemVas (x : GatherP) (i : Nat) : List Nat := (List.range (x.elem / 32)).map fun j => x.va + i * x.stride + j * 32

/-- An element whose address overflows 48 bits. [06_spinel_dma.md R154] -/
def elemOver (x : GatherP) (e : Nat × Nat × List Nat) : Bool :=
  !isSentinel x e.2.1 && decide (2 ^ 48 < x.va + e.2.1 * x.stride + x.elem)

/-- Addresses of the elements after a cut that reach memory. [06_spinel_dma.md R154, R158] -/
def restVas (x : GatherP) (es : List (Nat × Nat × List Nat)) : List Nat :=
  (es.filter fun e => !isSentinel x e.2.1 && !elemOver x e).flatMap fun e => elemVas x e.2.1

/-- The elements before the first whose address overflows, and that element's number. [06_spinel_dma.md R154] -/
def cutOver (x : GatherP) (es : List (Nat × Nat × List Nat)) : List (Nat × Nat × List Nat) × Option Nat :=
  (es.takeWhile fun e => !elemOver x e, (es.find? fun e => elemOver x e).map fun e => e.1)

/-- The checks of a gather or scatter and the reading of its list: a refusal, or the indices. The list is read whole before an element
moves, so that a tagged index word stops the command before any has (DESIGN CHOICE, log 23); FLT_SPINEL_ADDR names the start word of
the operand (DESIGN CHOICE, log 23). [06_spinel_dma.md R144, R149, R150, R154, Table 6.6] -/
def indexRead (s : State) (p : Nat) (c : Cmd) (x : GatherP) (gather : Bool) : State × Option (List Nat) :=
  let iw := idxWords x
  let ew := elemSpan x
  if x.fmt = 3 then (refuseCmd s p c 0x48 (dOp c.desc), none)
  else if !spanOk x.spa ew then (refuseCmd s p c 0x40 (spaWord x.spa), none)
  else if !spanOk x.idx iw then (refuseCmd s p c 0x40 (spaWord x.idx), none)
  else if gather && iw.any fun w => ew.contains w then (refuseCmd s p c 0x48 (dOp c.desc), none)
  else
    let r := spReadRun (ePort s p 3 (shapeBeats x.idx iw)) p iw
    match r.2.stop with
    | some b => (failRead r.1 p .dma c 0x42 b.1 b.2, none)
    | none => (r.1, some (indicesOf x r.2.bytes))

/-- FLT_DMA_ADDR at element `i`; the command completes FAIL once the bursts already issued have ended.
[06_spinel_dma.md R154, R161] -/
def addrOver (s : State) (p : Nat) (c : Cmd) (e : Option Nat) : State :=
  match e with
  | none => s
  | some i =>
    let s := onCmd s p .dma c.serial fun y => { y with faulted := true }
    raiseFault s p 0x4B (unitCode .dma) (cmdRef c) i

/-- DMA_GATHER reaches the engine. [06_spinel_dma.md R154, R155] -/
def gatherBegin (s : State) (p : Nat) (c : Cmd) : State :=
  let x := gatherP c.desc
  let r := indexRead s p c x true
  match r.2 with
  | none => r.1
  | some idx =>
    let es := elemsList x idx
    let cut := cutOver x es
    let zeros := (cut.1.filter fun e => isSentinel x e.2.1).flatMap fun e => e.2.2
    let s := forS zeros (fun w st => spWrite st p w (List.replicate 32 0) 0) (dPort r.1 p 3 (shapeBeats x.spa zeros))
    let live := cut.1.filter fun e => !isSentinel x e.2.1
    let its := live.flatMap fun e => ((elemVas x e.2.1).zip e.2.2).map fun y => (⟨y.1, y.2, [], 0⟩ : Item)
    dmaEnd (addrOver (transfer s p c false (cut.2.map fun _ => restVas x (es.drop cut.1.length)) its) p c cut.2) p c.serial

/-- DMA_SCATTER reaches the engine. [06_spinel_dma.md R154, R155] -/
def scatterBegin (s : State) (p : Nat) (c : Cmd) : State :=
  let x := gatherP c.desc
  let r := indexRead s p c x false
  match r.2 with
  | none => r.1
  | some idx =>
    let es := elemsList x idx
    let cut := cutOver x es
    let live := cut.1.filter fun e => !isSentinel x e.2.1
    let words := live.flatMap fun e => e.2.2
    let vas := live.flatMap fun e => elemVas x e.2.1
    let q := readSource (dPort r.1 p 4 (shapeBeats x.spa words)) p words
    let its := ((vas.zip words).zip q.2.1).map fun y => (⟨y.1.1, y.1.2, y.2.data, y.2.tag⟩ : Item)
    let rest := vas.drop its.length ++ restVas x (es.drop cut.1.length)
    let s := transfer q.1 p c true (if q.2.2.isNone && cut.2.isNone then none else some rest) its
    let s := if q.2.2.isSome then sourceFault s p c q.2.2 else addrOver s p c cut.2
    dmaEnd s p c.serial

/-! ### Multicast -/

/-- Logical indices of a mask. [06_spinel_dma.md R156] -/
def maskTiles (m : Nat) : List Nat := (List.range 18).filter fun k => bitOf m k

/-- The mask of a multicast is allowed. [06_spinel_dma.md R156] -/
def mcastOk (s : State) (p : Nat) (x : McastP) : Bool :=
  let ks := maskTiles x.mask
  decide (0 < ks.length) && decide (ks.length ≤ 16) && !(ks.any fun k => logOf s p = some (x.region * 18 + k))

/-- Logical index at position `i` of a region's ring. [11_fabric.md R287] -/
def ringPos (s : State) (g i : Nat) : Nat :=
  if i < 12 then bitsOf (rget s REGION_CAROUSEL_RING0 g) (5 * i) 5 else bitsOf (rget s REGION_CAROUSEL_RING1 g) (5 * (i - 12)) 5

/-- The multicast is a carousel forward. [11_fabric.md R288] -/
def isForward (s : State) (p : Nat) (x : McastP) : Bool :=
  let g := p / 18
  let n := fget s REGION_CAROUSEL_CTRL__RING_LEN g
  fbit s REGION_CAROUSEL_CTRL__EN g && x.region = g
    && match logOf s p, maskTiles x.mask with
      | some lt, [k] => (List.range n).any fun i => ringPos s g i = lt % 18 && ringPos s g ((i + 1) % n) = k
      | _, _ => false

/-- The pieces of a multicast: first word position and number of words. [11_fabric.md R275] -/
def mcPieces (bytes : Nat) : List (Nat × Nat) :=
  (List.range (ceilDiv bytes 2048)).map fun i => (i * 64, min 64 (bytes / 32 - i * 64))

/-- One SPW message of a multicast: one response is due from each receiver, numbered from the message's TXN in ascending k.
[11_fabric.md R274, R275, R285] -/
def mcSend (s : State) (p : Nat) (c : Cmd) (x : McastP) (car : Bool) (key : Nat) (pc : Nat × Nat) (reads : List SpRead) : State :=
  let ks := maskTiles x.mask
  let base := s.nextId
  let s := { s with nextId := base + ks.length }
  let pend := (List.range ks.length).map fun i => (⟨base + i, i, [], some x.region, now s, (regionOf s (p / 18)).gen⟩ : Pend)
  let s := onCmd s p .dma c.serial fun y => { y with pend := y.pend ++ pend }
  let secs := ((reads.drop pc.1).take pc.2).zipIdx.map fun y => (⟨y.2, y.1.data, y.1.tag⟩ : Sector)
  let route := routeMc s (.tile p) x.region
  let m : Msg :=
    { blankMsg base .spw 2 (.tile p) (.region x.region) (dClass c.desc) c.deadline base with
      car := car
      win := key
      sectors := secs
      lmask := x.mask
      dstSpa := walkWord x.dst pc.1 + spaShape x.dst * 2 ^ 14
      dstSlot := if x.slotEn then some x.slot else none
      last := decide (pc.1 * 32 + 2048 ≥ x.bytes) }
  let s := if car then bump s REGION_CAR_FWD_COUNT (p / 18) else s
  let cause := sendCause s m.dst route
  if fenced s p then s
  else if cause ≠ 0 then localNoep s { m with subs := (List.range ks.length).map fun i => (i, base + i) } cause
  else
    let n := taggedSecs secs
    let s := onCmd (notePoison s p n) p .dma c.serial fun y => { y with poison := y.poison || decide (n ≠ 0) }
    pushMsg s { m with route := route }

/-- DMA_MULTICAST reaches the engine. [06_spinel_dma.md R144, R156, R158; 11_fabric.md R285, R288] -/
def mcastBegin (s : State) (p : Nat) (c : Cmd) : State :=
  let x := mcastP c.desc
  let n := x.bytes / 32
  let ws := walkWords x.src 0 n
  if !mcastOk s p x then refuseCmd s p c 0x48 (dOp c.desc)
  else if !spanOk x.src ws then refuseCmd s p c 0x40 (spaWord x.src)
  else if !spanOk x.dst (walkWords x.dst 0 n) then refuseCmd s p c 0x40 (spaWord x.dst)
  else
    let r := readSource (dPort s p 4 (shapeBeats x.src ws)) p ws
    let parts := (maskTiles x.mask).map fun k => (⟨.receiver k, 0, r.2.2.isSome⟩ : Part)
    let s := beginCmd r.1 p c.serial parts false
    let car := isForward s p x
    let f := fresh s
    let whole := (mcPieces x.bytes).filter fun pc => decide (pc.1 + pc.2 ≤ r.2.1.length)
    let s := forS whole (fun pc st => mcSend st p c x car f.2 pc r.2.1) f.1
    dmaEnd (sourceFault s p c r.2.2) p c.serial

/-! ### KV_APPEND -/

/-- Rows of 128 codes, four words each. [06_spinel_dma.md R157] -/
def kvRows (rs : List SpRead) : List (List Nat × List Nat) :=
  (chunks 4 (rs.length + 1) rs).map fun q => ((q.flatMap fun r => r.data).map BitVec.toNat, q.map fun r => r.tag)

/-- KV_APPEND reaches the engine: its rows enter the append queue. [06_spinel_dma.md R144, R157; 10_attention_kv.md R258, R259] -/
def kvBegin (s : State) (p : Nat) (c : Cmd) : State :=
  let x := kvP c.desc
  let n := x.ntok * (if x.part = 3 then 8 else 4)
  let ws := walkWords x.src 0 n
  if !spanOk x.src ws then refuseCmd s p c 0x40 (spaWord x.src)
  else
    let r := readSource (dPort s p 4 (shapeBeats x.src ws)) p ws
    match r.2.2 with
    | some b => failRead r.1 p .dma c 0x42 b.1 b.2
    | none =>
      let s := beginCmd r.1 p c.serial [] false
      let rows := kvRows r.2.1
      let kr := if bitOf x.part 0 then rows.take x.ntok else []
      let vr := if x.part = 3 then rows.drop x.ntok else if x.part = 2 then rows else []
      pushAppend s p .dma c x.seq x.layer x.kvhead x.part x.ntok true kr vr 0

/-! ### Responses -/

/-- Read data is written to Spinel with its tags. [06_spinel_dma.md R149, R152] -/
def deliver (s : State) (p : Nat) (dsts : List (Nat × Nat)) (secs : List Sector) : State :=
  forS dsts (fun d st => match secs.find? fun x => x.s = d.1 with
    | some x => spWrite st p d.2 x.data x.tag
    | none => st) s

/-- Words of a delivery that carry a tag. [06_spinel_dma.md R150] -/
def taggedWords (dsts : List (Nat × Nat)) (secs : List Sector) : Nat :=
  (dsts.filter fun d => secs.any fun x => x.s = d.1 && x.tag ≠ 0).length

/-- Read data of a burst of a command has arrived. [06_spinel_dma.md R150, R158] -/
def dmaData (s : State) (p serial id : Nat) (secs : List Sector) : State :=
  match cmdBy (tileOf s p) .dma serial with
  | none => s
  | some c =>
    match c.pend.find? fun x => x.id = id with
    | none => s
    | some x =>
      let n := taggedWords x.dsts secs
      let s := dPort s p 3 (shapeBeats (dSpa c.desc) (x.dsts.map fun d => d.2))
      let s := notePoison (deliver s p x.dsts secs) p n
      let s := onCmd s p .dma serial fun y => { y with poison := y.poison || decide (n ≠ 0) }
      dmaEnd (dropPend s p serial id) p serial

/-- The command of tile `p` that waits for response `id`, with the part it belongs to. -/
def pendCmd (t : Tile) (id : Nat) : Option (Nat × Nat) :=
  (t.qDma.findSome? fun c => (c.pend.find? fun x => x.id = id).map fun x => (c.serial, x.part))

/-! ### The commands -/

/-- Commands that occupy active positions. [06_spinel_dma.md R158] -/
def activeDma (t : Tile) : Nat := (t.qDma.filter fun c => c.phase ≠ .queued).length

/-- The next command of the engine begins, when it has opcode `op` and a position is free. [06_spinel_dma.md R158] -/
def dmaStep (s : State) (p op : Nat) (f : State → Nat → Cmd → State) : State :=
  if activeDma (tileOf s p) < 4 then
    match firstIn (tileOf s p) .dma .queued with
    | some c => if dOp c.desc = op then f s p c else s
    | none => s
  else s

/-- A row of the engine. [06_spinel_dma.md R158; 16_thermal_power.md R392] -/
def dmaRow (p : Fin 288) (op : Nat) (f : State → Nat → Cmd → State) (s : State) : Host.Outcome State Fault Refusal :=
  .next (whenIssue s p fun s => dmaStep s p op f)

/-- DMA_READ. [06_spinel_dma.md R153] -/
def execDmaRead (p : Fin 288) (s : State) : Host.Outcome State Fault Refusal := dmaRow p 0x30 readBegin s

/-- DMA_WRITE. [06_spinel_dma.md R153] -/
def execDmaWrite (p : Fin 288) (s : State) : Host.Outcome State Fault Refusal := dmaRow p 0x31 writeBegin s

/-- DMA_GATHER. [06_spinel_dma.md R154] -/
def execDmaGather (p : Fin 288) (s : State) : Host.Outcome State Fault Refusal := dmaRow p 0x32 gatherBegin s

/-- DMA_SCATTER. [06_spinel_dma.md R154, R155] -/
def execDmaScatter (p : Fin 288) (s : State) : Host.Outcome State Fault Refusal := dmaRow p 0x33 scatterBegin s

/-- DMA_MULTICAST. [06_spinel_dma.md R156] -/
def execDmaMulticast (p : Fin 288) (s : State) : Host.Outcome State Fault Refusal := dmaRow p 0x34 mcastBegin s

/-- KV_APPEND. [06_spinel_dma.md R157; 10_attention_kv.md R258] -/
def execKvAppend (p : Fin 288) (s : State) : Host.Outcome State Fault Refusal := dmaRow p 0x35 kvBegin s

/-- A write of an append has failed: the append is marked, and a KV_APPEND's part takes ERR. [06_spinel_dma.md R158;
10_attention_kv.md R261] -/
def appendPendFail (s : State) (p : Nat) (a : Append) (x : Pend) (err : Nat) : State :=
  let s := if a.unit = .dma then partFail s p a.cmd x.part err else s
  onTile s p fun t => { t with
    appends := mapIf (fun y => y.id = a.id)
      (fun y => { y with pend := y.pend.filter fun z => z.id ≠ x.id, bad := true }) t.appends }

/-- The responses that have not arrived within REMOTE_TIMEOUT. [06_spinel_dma.md R158] -/
def latePend (s : State) (p : Nat) (x : Pend) : Bool :=
  decide (x.since + fget s TILE_DMA_CTRL__REMOTE_TIMEOUT p * 1000 ≤ now s)

/-- PART_TIMEOUT: every response that has not arrived within REMOTE_TIMEOUT fails its part with ERR 5.
[06_spinel_dma.md R158, R160] -/
def timeoutParts (s : State) (p : Nat) : State :=
  let t := tileOf s p
  let cmds := t.qDma.flatMap fun c => (c.pend.filter fun x => latePend s p x).map fun x => (c.serial, x)
  let apps := t.appends.flatMap fun a => (a.pend.filter fun x => latePend s p x).map fun x => (a, x)
  let s := forS cmds (fun y st => pendFailed st p y.1 y.2.id y.2.part 5) s
  forS apps (fun y st => appendPendFail st p y.1 y.2 5) s

/-- PART_TIMEOUT. [06_spinel_dma.md R158] -/
def execPartTimeout (p : Fin 288) (s : State) : Host.Outcome State Fault Refusal :=
  .next (whenRuns s p fun s => timeoutParts s p)

end Sys2Proof.Machine
end

