-- ==== Sys2Proof/Machine/Regulate.lean ====
section
/-! DEFINITION. Bandwidth and latency regulation: classes in credit (R303, R304), deadlines (R305, R306), the accounting
period with its scaling (R302, R311), and feedback (R307, R308). -/

namespace Sys2Proof.Machine

/-! ### Choice of a class and of a request -/

/-- The classes in round-robin order, from one above the class last chosen. [12_regulation.md R304] -/
def rrClasses (last : Nat) : List Nat := (List.range 8).map fun i => (last + 1 + i) % 8

/-- Deadline `a` is earlier than deadline `b`. [12_regulation.md R306] -/
def earlier (a b : Nat) : Bool := decide ((b + 65536 - a) % 65536 < 32768) && a ≠ b

/-- The request served first among those of one class, oldest arrival first in the list: LATE, then earliest deadline, then
arrival. [12_regulation.md R306] -/
def firstServed {α : Type} (late : α → Bool) (dl : α → Option Nat) (l : List α) : Option α :=
  match l.find? late with
  | some x => some x
  | none =>
    l.foldl (fun best x => match best with
      | none => some x
      | some y =>
        match dl x, dl y with
        | some a, some b => if earlier a b then some x else some y
        | some _, none => some x
        | _, _ => some y) none

/-- A class chosen for service, and whether in credit. [12_regulation.md R304] -/
def pickClass (lastIn lastOut : Nat) (ready credit : Nat → Bool) : Option (Nat × Bool) :=
  match (rrClasses lastIn).find? fun c => ready c && credit c with
  | some c => some (c, true)
  | none => ((rrClasses lastOut).find? ready).map fun c => (c, false)

/-- A deadline has passed. [12_regulation.md R306] -/
def passed (s : State) (d : Option Nat) : Bool :=
  match d with
  | some d => earlier d (now64 s)
  | none => false

/-! ### Capacities (R302), in 0.1 GB/s -/

/-- Deliverable bandwidth of a channel in a band. [07_vaults.md Table 7.5] -/
def bandCap (b : Nat) : Nat := if b = 0 then 1720 else if b = 1 then 1649 else 1505

/-- Capacity of a share of a channel. [12_regulation.md Table 12.2] -/
def shareCap (band x : Nat) (sp : Nat × Nat × Nat) : Nat := bandCap band * x / (sp.1 + sp.2.1 + sp.2.2)

/-- Split slots of share `x`: 0 RD, 1 WR, 2 RM. [07_vaults.md R176] -/
def splitOf (sp : Nat × Nat × Nat) (x : Nat) : Nat := if x = 0 then sp.1 else if x = 1 then sp.2.1 else sp.2.2

/-- Capacity of an Onyx output. [12_regulation.md Table 12.2] -/
def onyxCap (s : State) (g : Nat) : Nat :=
  if fbit s REGION_CAROUSEL_CTRL__EN g then 5120 * (16 - fget s REGION_CAROUSEL_CTRL__CAR_SHARE g) / 16 else 5120

/-- Capacity of a Terrier output. [12_regulation.md Table 12.2] -/
def terrierCap : Nat := 20480

/-- GT/s of a rate code. [11_fabric.md Table 11.10] -/
def rateGT (r : Nat) : Nat :=
  match r with
  | 0 => 4
  | 1 => 8
  | 2 => 12
  | 3 => 16
  | 4 => 24
  | _ => 32

/-- Capacity of the customer-site output at a rate. [12_regulation.md Table 12.2] -/
def custCap (r : Nat) : Nat := 64 * rateGT r * 10 / 8

/-- MIN[c][x] of a share. [12_regulation.md R301, Table 12.3] -/
def vmin (s : State) (g c x : Nat) : Nat :=
  if x = 0 then fget s REGION_QOS_VMIN__RD g c
  else if x = 1 then fget s REGION_QOS_VMIN__WR g c
  else fget s REGION_QOS_VMIN__RM g c

/-- MIN[c][ONYX]. [12_regulation.md Table 12.3] -/
def omin (s : State) (g c : Nat) : Nat := fget s REGION_QOS_LMIN__ONYX g c

/-- MIN[c][TERRIER] or MIN[c][CUST] of link `l`. [12_regulation.md Table 12.3] -/
def lmin (s : State) (l c : Nat) : Nat := if l < 16 then fget s FAB_QOS_LMIN__TERRIER c else fget s FAB_QOS_LMIN__CUST c

/-- MIN_eff of one class in 1/64 of 0.1 GB/s, from its guarantee, the sum and the capacity. [12_regulation.md R311] -/
def minEffOf (m total cap : Nat) : Nat := if total ≤ cap then m * 64 else m * 64 * cap / total

/-- The factor in 1/256 of a resource in deficit, 0 otherwise. [12_regulation.md R311] -/
def factorOf (total cap : Nat) : Nat := if total ≤ cap then 0 else cap * 256 / total

/-- Sum over the eight classes. -/
def sumClasses (f : Nat → Nat) : Nat := sumNat ((List.range 8).map f)

/-! ### Channels -/

/-- The channel serves bursts: it is active and its vault is powered and not in self-refresh. [07_vaults.md R184, R185] -/
def chanActive (s : State) (p c : Nat) : Bool :=
  domOn s p && fget s TILE_VAULT_CH_STATUS__STATE p c = 0 && !fbit s TILE_VAULT_STATUS__SELF_REFRESH p

/-- BAND in force. [07_vaults.md Table 7.10] -/
def bandOf (s : State) (p : Nat) : Nat := fget s TILE_VAULT_STATUS__BAND p

/-- The guarantees of share `x` at a channel: sum and capacity. [12_regulation.md R302] -/
def shareLoad (s : State) (p c x : Nat) : Nat × Nat :=
  let sp := (chanOf s p c).split
  (sumClasses fun k => vmin s (p / 18) k x, shareCap (bandOf s p) (splitOf sp x) sp)

/-- Every credit counter of a channel accrues; the ceiling is 4,096 bytes, kept in 1/7 byte. [12_regulation.md R303] -/
def accrueChan (ch : Chan) : Chan :=
  { ch with cr := (List.range 24).foldl (fun m k =>
      let e := smGet ch.minEff k 0
      if e = 0 then m else smSet m k (min (4096 * 7) (smGet m k 0 + e))) ch.cr }

/-- MIN_eff of a channel for the next period. [12_regulation.md R311] -/
def rescaleChan (s : State) (p c : Nat) (ch : Chan) : Chan :=
  let keys := (List.range 3).flatMap fun x => (List.range 8).map fun k => (x, k)
  { ch with minEff := keys.foldl (fun m e =>
      let ld := shareLoad s p c e.1
      let v := minEffOf (vmin s (p / 18) e.2 e.1) ld.1 ld.2
      if v = smGet m (e.1 * 8 + e.2) 0 then m else smSet m (e.1 * 8 + e.2) v) ch.minEff }

/-- Queued bursts whose deadline has passed are marked LATE. [12_regulation.md R306] -/
def markChan (s : State) (ch : Chan) : Chan :=
  { ch with queue := ch.queue.map fun b => if passed s b.deadline then { b with late := true } else b }

/-- The period has work at a channel: a guarantee, a counter, or a queue. -/
def chanBusy (s : State) (p c : Nat) : Bool :=
  let ch := chanOf s p c
  !ch.minEff.isEmpty || !ch.cr.isEmpty || !ch.queue.isEmpty
    || (List.range 8).any fun k => rget s REGION_QOS_VMIN (p / 18) k ≠ 0

/-- One channel at its accounting boundary. [12_regulation.md R303, R306, R311] -/
def periodChan (s : State) (p c : Nat) : State :=
  if chanBusy s p c then onChan s p c fun ch => rescaleChan s p c (markChan s (accrueChan ch)) else s

/-! ### Deficit -/

/-- Lowest factor of a list of resources, 0 when none is in deficit. [12_regulation.md Table 12.3] -/
def lowFactor (l : List (Nat × Nat)) : Nat :=
  ((l.map fun x => factorOf x.1 x.2).filter fun f => f ≠ 0).foldl (fun a f => if a = 0 then f else min a f) 0

/-- A resource of the list is in deficit. [12_regulation.md R311] -/
def anyDeficit (l : List (Nat × Nat)) : Bool := l.any fun x => decide (x.2 < x.1)

/-- The loads of share `x` over the channels of a region that are not mapped out. [12_regulation.md R302, R311] -/
def regionLoads (s : State) (g x : Nat) : List (Nat × Nat) :=
  if (sumClasses fun k => vmin s g k x) = 0 then []
  else
    (List.range 144).filterMap fun i =>
      let p := g * 18 + i / 8
      if domOn s p && !chanOut s p (i % 8) then some (shareLoad s p (i % 8) x) else none

/-- The load of an Onyx output of a region. [12_regulation.md R302] -/
def onyxLoad (s : State) (g : Nat) : Nat × Nat := (sumClasses fun k => omin s g k, onyxCap s g)

/-- A kind enters deficit: GUARANTEE_DEFICIT with region, kind and factor. [12_regulation.md R311] -/
def postDeficit (s : State) (g kind factor : Nat) : State :=
  postEvent s evtGuaranteeDeficit (g + kind * 2 ^ 5 + factor % 256 * 2 ^ 8)

/-- The deficit bits of some kinds of a region are recomputed; events and the counter follow. [12_regulation.md R311, R313] -/
def setDeficit (s : State) (g : Nat) (ks : List (Nat × List (Nat × Nat))) : State :=
  let old := (regionOf s g).deficit
  let new := ks.foldl (fun m k => setBits m k.1 1 (flag (anyDeficit k.2))) old
  let s := onRegion s g fun r => { r with deficit := new }
  let s := if ks.any fun k => bitOf new k.1 then bump s REGION_QOS_DEFICIT_COUNT g else s
  let s := forS ks (fun k st => if bitOf new k.1 && !bitOf old k.1 then postDeficit st g k.1 (lowFactor k.2) else st) s
  let s := if old ≠ 0 ∧ new = 0 then postEvent s evtGuaranteeRestored g else s
  let s := fset s REGION_QOS_STATUS__DEFICIT (new % 8) g
  let s := fset s REGION_QOS_STATUS__ONYX_DEF (new / 8) g
  forS ks (fun k st =>
    if k.1 = 0 then fset st REGION_QOS_STATUS__FACTOR_RD (lowFactor k.2) g
    else if k.1 = 1 then fset st REGION_QOS_STATUS__FACTOR_WR (lowFactor k.2) g
    else if k.1 = 2 then fset st REGION_QOS_STATUS__FACTOR_RM (lowFactor k.2) g
    else st) s

/-- The region has a guarantee or a deficit. -/
def regionBusy (s : State) (g : Nat) : Bool :=
  (regionOf s g).deficit ≠ 0
    || (List.range 8).any fun k => rget s REGION_QOS_VMIN g k ≠ 0 || rget s REGION_QOS_LMIN g k ≠ 0

/-- The vault channels at their accounting boundary; the 64 VCLK of the hub's regulator begin anew. [12_regulation.md R303, R306,
R308, R311] -/
def periodVaults (s : State) : State :=
  let s := { s with hubQos := { s.hubQos with admits := [] } }
  let s := forS (List.range 2304) (fun i st => periodChan st (i / 8) (i % 8)) s
  forS ((List.range 16).filter fun g => regionBusy s g)
    (fun g st => setDeficit st g ((List.range 3).map fun x => (x, regionLoads st g x))) s

/-! ### Links -/

/-- The guarantee of a class at a link output. [12_regulation.md R301] -/
def linkMin (s : State) (l c : Nat) : Nat := if l < 18 then lmin s l c else omin s (onyxRegion l) c

/-- Capacity of a link output. [12_regulation.md Table 12.2] -/
def linkCap (s : State) (l : Nat) : Nat :=
  if l < 16 then terrierCap
  else if l < 18 then custCap (fget s FAB_LINK_STATUS__RATE 8)
  else onyxCap s (onyxRegion l)

/-- A link output is regulated: Terrier and hub-switch outputs, the hub end of the site link, Onyx router outputs.
[12_regulation.md R301] -/
def regulated (l : Nat) : Bool := l ≠ 17 && decide (l < 1458)

/-- One link output at its accounting boundary; its counters are kept in 1/20 byte. [12_regulation.md R303, R311] -/
def periodLink (s : State) (l : Nat) : State :=
  let k := linkOf s l
  if k.minEff.isEmpty && k.cr.isEmpty && (List.range 8).all fun c => linkMin s l c = 0 then s
  else
    let total := sumClasses fun c => linkMin s l c
    onLink s l fun k => { k with
      cr := (List.range 8).foldl (fun m c =>
        let e := smGet k.minEff c 0
        if e = 0 then m else smSet m c (min (4096 * 20) (smGet m c 0 + e))) k.cr
      minEff := (List.range 8).foldl (fun m c =>
        let v := minEffOf (linkMin s l c) total (linkCap s l)
        if v = smGet m c 0 then m else smSet m c v) k.minEff }

/-- Messages that wait at an output and whose deadline has passed are marked LATE. [12_regulation.md R306] -/
def markMsgs (s : State) : State :=
  { s with msgs := s.msgs.map fun m => if !m.route.isEmpty && passed s m.deadline then { m with late := true } else m }

/-- Deficit of the hub links: status bits and events of region 17. [12_regulation.md R311, Table 12.3] -/
def hubDeficit (s : State) : State :=
  let t := (sumClasses fun c => fget s FAB_QOS_LMIN__TERRIER c, terrierCap)
  let u := (sumClasses fun c => fget s FAB_QOS_LMIN__CUST c, custCap (fget s FAB_LINK_STATUS__RATE 8))
  let siteUp := linkState s 8 = 2
  let ot := fbit s FAB_QOS_CTRL__TERRIER_DEF
  let ou := fbit s FAB_QOS_CTRL__CUST_DEF
  let nt := anyDeficit [t]
  let nu := siteUp && anyDeficit [u]
  let s := if nt && !ot then postDeficit s 17 4 (lowFactor [t]) else s
  let s := if nu && !ou then postDeficit s 17 5 (lowFactor [u]) else s
  let s := if (ot || ou) && !nt && !nu then postEvent s evtGuaranteeRestored 17 else s
  fset (fset s FAB_QOS_CTRL__TERRIER_DEF (flag nt)) FAB_QOS_CTRL__CUST_DEF (flag nu)

/-- The link outputs at their accounting boundary. [12_regulation.md R303, R306, R311] -/
def periodLinks (s : State) : State :=
  let s := forS ((List.range 1458).filter regulated) (fun l st => periodLink st l) (markMsgs s)
  let s := forS ((List.range 16).filter fun g => regionBusy s g) (fun g st => setDeficit st g [(3, [onyxLoad st g])]) s
  hubDeficit s

/-- ACCOUNTING_PERIOD of the vault channels or of the link outputs. [12_regulation.md R303, R306, R311] -/
def execAccountingPeriod (link : Bool) (s : State) : Host.Outcome State Fault Refusal :=
  .next (if link then periodLinks s else periodVaults s)

/-! ### Feedback -/

/-- The OVER mask of one channel. [12_regulation.md R307] -/
def overMask (s : State) (p c : Nat) : Nat :=
  let ch := chanOf s p c
  let rm := ch.queue.filter fun b => b.share = 2
  if rm.length ≤ fget s REGION_QOS_CTRL__FB_QTHR (p / 18) then 0
  else sumNat ((List.range 8).map fun k => if (rm.any fun b => b.cls = k) && !inCredit ch 2 k then 2 ^ k else 0)

/-- The summary of a region: one mask for each of its vaults. [12_regulation.md R307, Table 12.3] -/
def overSummary (s : State) (g : Nat) : List Nat :=
  (List.range 18).map fun k =>
    if fbit s REGION_QOS_CTRL__FB_EN g then (List.range 8).foldl (fun m c => Nat.lor m (overMask s (g * 18 + k) c)) 0 else 0

/-- A management message. [11_fabric.md R274] -/
def sendMgmt (s : State) (src dst : End) (mg : Mgmt) : State :=
  let f := fresh s
  let r := routeOf s src dst
  if r.any fun l => linkDown s l then f.1
  else pushMsg f.1 { blankMsg f.2 .mgmt 3 src dst 7 none f.2 with mg := mg, route := r }

/-- The end of 64 VCLK in region `g`: its summary is sent, its regulator's period restarts, and waiting requests go on.
[12_regulation.md R307, R308] -/
def overStep (s : State) (g : Nat) : State :=
  let sum := overSummary s g
  let s := onRegion s g fun r => { r with ovf := smSet r.ovf g (now s, sum), admits := [] }
  let s := forS ((List.range 16).filter fun h => h ≠ g) (fun h st => sendMgmt st (.region g) (.region h) (.summary g sum)) s
  let s := sendMgmt s (.region g) .hub (.summary g sum)
  releaseRegion s g

/-- OVER_MASK. [12_regulation.md R307, R308] -/
def execOverMask (g : Fin 16) (s : State) : Host.Outcome State Fault Refusal :=
  .next (if domOn s (288 + g.val) then overStep s g else s)

end Sys2Proof.Machine
end

