-- ==== Sys2Proof/Machine/Vault.lean ====
section
/-! DEFINITION. The vault controller: slots and their bursts (R169 to R181, R304), refresh (R172, R173), recovery and remap of
rows (R193, R200 to R202), scrubbing (R198, R199), the error period (R209), the field defect log (R206) and the fall of a
band (R171, R174). -/

namespace Sys2Proof.Machine

/-! ### Timing -/

/-- tRC of a band. [07_vaults.md Table 7.3] -/
def tRC (band : Nat) : Nat := if band = 2 then 35 else 34

/-- VCLK from the issue of a burst to its parity result. [07_vaults.md R168, R180] -/
def resultDelay (band : Nat) (write : Bool) : Nat :=
  let rcd := if band = 2 then 11 else 10
  if write then rcd + 6 + 8 + 4 else rcd + 10 + 8

/-- The refresh interval in force. [07_vaults.md R172, Table 7.3] -/
def tREFI (band : Nat) (odd : Bool) : Nat :=
  if band = 0 then 2730 else if band = 1 then 1365 else if odd then 683 else 682

/-- A refresh has fallen due. [07_vaults.md R172, R174] -/
def refreshDue (s : State) (p c : Nat) : Bool := decide ((chanOf s p c).refDue ≤ (chanOf s p c).now)

/-- The bank can take an activate. [07_vaults.md R169] -/
def bankFree (s : State) (p : Nat) (ch : Chan) (bank : Nat) : Bool :=
  match smFind ch.lastAct bank with
  | none => true
  | some a => decide (a + tRC (bandOf s p) ≤ ch.now)

/-! ### What may issue -/

/-- An earlier burst to the same window has not left the controller, or its row is under recovery. [07_vaults.md R170;
08_ecc_repair.md R193] -/
def windowBusy (ch : Chan) (b : Burst) : Bool :=
  ((ch.queue.takeWhile fun x => x.id ≠ b.id) ++ ch.flight).any (fun x => x.win = b.win)
    || ch.recov.any fun r => r.burst.win = b.win

/-- A burst may issue now: not held by R170, R193, R201 or R228, and its bank can accept it. [12_regulation.md R304] -/
def burstReady (s : State) (p c : Nat) (b : Burst) : Bool :=
  let ch := chanOf s p c
  decide (b.notBefore ≤ ch.now) && bankFree s p ch (b.win % 16) && !windowBusy ch b
    && !(ch.remapQ.any fun j => j.win = b.win) && !winLocked s p c b.win

/-- What one slot of a share issues. -/
inductive Pick where
  | fetch (r : Recovery)
  | burst (b : Burst) (credit : Bool)
  | move (j : RemapJob)
  deriving DecidableEq, Repr

/-- The burst a share selects by class and deadline. [12_regulation.md R304, R306] -/
def selectBurst (s : State) (p c x : Nat) : Option Pick :=
  let ch := chanOf s p c
  let ready := ch.queue.filter fun b => b.share = x && burstReady s p c b
  match pickClass (smGet ch.rrIn x 7) (smGet ch.rrOut x 7) (fun k => ready.any fun b => b.cls = k) (inCredit ch x) with
  | none => none
  | some k =>
    (firstServed (fun b : Burst => b.late) (fun b : Burst => b.deadline) (ready.filter fun b => b.cls = k.1)).map
      fun b => .burst b k.2

/-- What share `x` has ready: the page-code fetch of the row in the recovery buffer, a retry, the write of a row to its
spare, else the selected burst. R180 puts a retry ahead of every other burst of the share and R193 the page-code fetch; where
both are ready the model issues the fetch first, and of several ready retries the one that failed last (DESIGN CHOICE, log 25).
[07_vaults.md R180; 08_ecc_repair.md R193, R201; 12_regulation.md R304] -/
def pickShare (s : State) (p c x : Nat) : Option Pick :=
  let ch := chanOf s p c
  let fetch := ch.recov.head?.filter fun r =>
    !r.fetched && r.burst.share = x && decide (r.burst.notBefore ≤ ch.now) && bankFree s p ch (r.burst.win % 16)
      && !(ch.flight.any fun b => b.req = .page)
  let retry := ch.queue.find? fun b => b.share = x && decide (0 < b.tries) && burstReady s p c b
  let mv := ch.remapQ.find? fun j =>
    x = 2 && !j.written && decide (j.notBefore ≤ ch.now) && bankFree s p ch (j.win % 16) && !winLocked s p c j.win
      && !(ch.flight.any fun b => b.win = j.win) && !(ch.recov.any fun r => r.burst.win = j.win)
  match fetch, retry, mv with
  | some r, _, _ => some (.fetch r)
  | none, some b, _ => some (.burst b false)
  | none, none, some j => some (.move j)
  | none, none, none => selectBurst s p c x

/-! ### Issue -/

/-- The share a slot of the frame belongs to. [07_vaults.md R176] -/
def slotShare (sp : Nat × Nat × Nat) (i : Nat) : Nat := if i < sp.1 then 0 else if i < sp.1 + sp.2.1 then 1 else 2

/-- A bank is activated. [07_vaults.md R169] -/
def activate (s : State) (p c bank : Nat) : State :=
  onChan s p c fun ch => { ch with lastAct := smSet ch.lastAct bank ch.now }

/-- A burst leaves the queue for the DRAM. [07_vaults.md R168, R169, R180; 12_regulation.md R306] -/
def issueQueued (s : State) (p c x : Nat) (b : Burst) (credit : Bool) : State :=
  let s := countShare s p x
  let s := if b.late && !b.counted then bump s REGION_QOS_DL_MISS_COUNT (p / 18) else s
  let s := if b.tries = 0 then chargeClass s p c x b.cls credit
    else bump (bump s TILE_VAULT_RETRY_COUNT p) TILE_VAULT_CH_RETRY_COUNT p c
  let s := onChan s p c fun ch => { ch with
    queue := ch.queue.filter fun y => y.id ≠ b.id
    flight := ch.flight ++ [{ b with issued := ch.now, late := false, counted := b.counted || b.late }] }
  activate s p c (b.win % 16)

/-- A burst that goes ahead of the choice by class is issued and charged to its class. [07_vaults.md R169, R180;
12_regulation.md R303, R304] -/
def issueAhead (s : State) (p c x : Nat) (b : Burst) : State :=
  let s := if b.tries = 0 then spendClass (countShare s p x) p c x b.cls else countRetry s p c x
  let s := onChan s p c fun ch => { ch with flight := ch.flight ++ [{ b with issued := ch.now }] }
  activate s p c (b.win % 16)

/-- The page-code fetch of a row, of class 7. [08_ecc_repair.md R193; 12_regulation.md Table 12.1] -/
def pageBurst (r : Recovery) : Burst := { r.burst with write := false, cls := 7, secs := [], req := .page, merge := false }

/-- The write of a row to its spare, of class 7. [08_ecc_repair.md R201; 12_regulation.md Table 12.1] -/
def moveBurst (n : Nat) (j : RemapJob) : Burst :=
  ⟨n, true, 2, 7, j.win, 2 ^ 64 - 1, [], .move, none, false, j.tries, 0, 0, false, false⟩

/-- A slot of share `x` issues what was picked. [07_vaults.md R176, R180; 08_ecc_repair.md R193, R201] -/
def issuePick (s : State) (p c x : Nat) : Pick → State
  | .fetch r => issueAhead s p c x (pageBurst r)
  | .burst b credit => issueQueued s p c x b credit
  | .move j => let f := fresh s; issueAhead f.1 p c x (moveBurst f.2 j)

/-- One slot: its owner's burst, else one of the next share that has any when lending is on. [07_vaults.md R177] -/
def slotIssue (s : State) (p c owner : Nat) : State :=
  match pickShare s p c owner with
  | some k => issuePick s p c owner k
  | none =>
    if fbit s TILE_VAULT_CTRL__LEND p then
      match [(owner + 1) % 3, (owner + 2) % 3].findSome? fun x => (pickShare s p c x).map fun k => (x, k) with
      | some y => issuePick (bump s TILE_VAULT_LENT_COUNT p) p c y.1 y.2
      | none => s
    else s

/-- The split a frame takes at its first slot. [07_vaults.md R178] -/
def splitNow (s : State) (p : Nat) : Nat × Nat × Nat :=
  (fget s TILE_VAULT_CTRL__SPLIT_RD p, fget s TILE_VAULT_CTRL__SPLIT_WR p, fget s TILE_VAULT_CTRL__SPLIT_RM p)

/-- A slot boundary: the frame's split is latched at its first slot, the slot issues, channel time moves on by 8 VCLK.
[07_vaults.md R176 to R178; 12_regulation.md R304] -/
def slotStep (s : State) (p c : Nat) : State :=
  let s := if (chanOf s p c).slot = 0 then onChan s p c fun ch => { ch with split := splitNow s p } else s
  let ch := chanOf s p c
  let s := slotIssue s p c (slotShare ch.split ch.slot)
  onChan s p c fun ch => { ch with
    now := ch.now + 8
    slot := if ch.slot + 1 < ch.split.1 + ch.split.2.1 + ch.split.2.2 then ch.slot + 1 else 0 }

/-- SLOT_BOUNDARY: a refresh that is due goes first. [07_vaults.md R173, R176; 12_regulation.md R304] -/
def execSlotBoundary (p : Fin 288) (c : Fin 8) (s : State) : Host.Outcome State Fault Refusal :=
  .next (if chanActive s p c && !refreshDue s p c then slotStep s p c else s)

/-! ### Refresh -/

/-- A refresh that fell due at `due`: 109 VCLK, one row of each bank; the next falls due one interval later, and in B2 the
interval after that is of the other length. [07_vaults.md R172, R173] -/
def refreshFrom (due : Nat) (odd : Bool) (s : State) (p c : Nat) : State :=
  let band := bandOf s p
  let s := onChan s p c fun ch => { ch with
    now := ch.now + 109
    refLast := due
    refDue := due + tREFI band odd
    refOdd := band = 2 && !odd
    refRow := (ch.refRow + 1) % (chanRows s p / 16) }
  bump s TILE_VAULT_REFRESH_COUNT p

/-- The refresh that is due. [07_vaults.md R172, R173] -/
def refreshStep (s : State) (p c : Nat) : State := refreshFrom (chanOf s p c).refDue (chanOf s p c).refOdd s p c

/-- A refresh issued at once, from which the next interval counts; in B2 that interval is of 682 VCLK. [07_vaults.md R172, R185] -/
def refreshAtOnce (s : State) (p c : Nat) : State := refreshFrom (chanOf s p c).now false s p c

/-- REFRESH. [07_vaults.md R172, R173] -/
def execRefresh (p : Fin 288) (c : Fin 8) (s : State) : Host.Outcome State Fault Refusal :=
  .next (if chanActive s p c && refreshDue s p c then refreshStep s p c else s)

/-! ### The outcome of a burst -/

/-- The descriptors of a fetch arrive. [04_tile_commands.md R96] -/
def fetchArrive (s : State) (p k id : Nat) (secs : List Sector) : State :=
  onStream s p k fun x => { x with fetch := x.fetch.map fun f => if f.id = id then { f with secs := some secs } else f }

/-- Sectors of a read reach their requester. [04_tile_commands.md R96; 07_vaults.md R175; 11_fabric.md R274] -/
def deliverBurst (s : State) (p : Nat) (b : Burst) (secs : List Sector) : State :=
  match b.req with
  | .dma n => dmaData s p n b.id secs
  | .remote m => respond s m .rdata secs
  | .fetch k _ => fetchArrive s p k b.id secs
  | _ => s

/-- The command a failed burst concerns. [04_tile_commands.md R116] -/
def burstRef (s : State) (p : Nat) (b : Burst) : FaultCmd :=
  match b.req with
  | .dma n => ((cmdBy (tileOf s p) .dma n).map cmdRef).getD (noCmdRef s)
  | _ => noCmdRef s

/-- The recovery that a page-code fetch belongs to changes. [08_ecc_repair.md R193] -/
def onRecov (s : State) (p c : Nat) (b : Burst) (f : Recovery → Recovery) : State :=
  onChan s p c fun ch => { ch with recov := mapIf (fun r => r.burst.id = b.id) f ch.recov }

/-- The move that a write to a spare belongs to changes. [08_ecc_repair.md R201] -/
def onMove (s : State) (p c : Nat) (b : Burst) (f : RemapJob → RemapJob) : State :=
  onChan s p c fun ch => { ch with remapQ := mapIf (fun j => j.win = b.win) f ch.remapQ }

/-- A burst has failed RETRY_LIMIT attempts. A page-code fetch so lost restores nothing, and a move so lost leaves the row in its
place (log 70). [07_vaults.md R181, Table 7.8; 08_ecc_repair.md R193, R201] -/
def burstLost (s : State) (p c : Nat) (b : Burst) : State :=
  let s := bump s TILE_VAULT_RETRY_FAIL_COUNT p
  let x := burstRef s p b
  let s := match b.req with
    | .page => onRecov s p c b fun r => { r with fetched := true, lost := true }
    | .move => onChan s p c fun ch => { ch with remapQ := ch.remapQ.filter fun j => j.win ≠ b.win }
    | _ => if b.write then s else deliverBurst { s with draws := s.draws + 1 } p b (lostSectors s b.mask)
  raiseFault s p 0x60 7 x (c + flag b.write * 2 ^ 3 + b.win * 2 ^ 8)

/-- A burst whose parity was right. [07_vaults.md R180; 08_ecc_repair.md R190 to R195; 15_fault_tolerance.md R369] -/
def burstGood (s : State) (p c : Nat) (b : Burst) : State :=
  if b.write then (if b.merge then mergeWin s p c b.win b.secs else writeWin s p c b.win b.secs)
  else
    let x := lightRead s p c b.win b.mask
    let s :=
      if x.2.recover then
        let at_ := b.issued + resultDelay (bandOf s p) false + 4
        onChan x.1 p c fun ch => { ch with recov := ch.recov ++ [⟨{ b with tries := 0, notBefore := at_ }, x.2.early, false, false⟩] }
      else x.1
    if x.2.early then deliverBurst s p b x.2.secs else s

/-- A burst whose parity was right, whatever it is for. [07_vaults.md R180; 08_ecc_repair.md R193, R201] -/
def settleBurst (s : State) (p c : Nat) (b : Burst) : State :=
  match b.req with
  | .page => onRecov s p c b fun r => { r with fetched := true }
  | .move => onMove s p c b fun j => { j with written := true }
  | _ => burstGood s p c b

/-- A burst whose attempt failed waits for its retry, ahead of what stands in the queue (log 25). [07_vaults.md R180] -/
def retryBurst (s : State) (p c : Nat) (b : Burst) : State :=
  let n := b.tries + 1
  let at_ := b.issued + resultDelay (bandOf s p) b.write
  match b.req with
  | .page => onRecov s p c b fun r => { r with burst := { r.burst with tries := n, notBefore := at_ } }
  | .move => onMove s p c b fun j => { j with tries := n, notBefore := at_ }
  | _ => onChan s p c fun ch => { ch with queue := { b with tries := n, notBefore := at_ } :: ch.queue }

/-- The parity result of the oldest burst in flight; with none in flight, a failure awaits the next burst that the channel serves
whole (log 70). [07_vaults.md R180, R181] -/
def parityStep (s : State) (p c : Nat) (ok : Bool) : State :=
  match (chanOf s p c).flight with
  | [] => if ok then s else onChan s p c fun ch => { ch with armFail := ch.armFail + 1 }
  | b :: rest =>
    let s := onChan s p c fun ch => { ch with flight := rest }
    if ok then settleBurst s p c b
    else if fget s TILE_VAULT_CTRL__RETRY_LIMIT p ≤ b.tries + 1 then burstLost s p c b
    else retryBurst s p c b

/-- BURST_PARITY_RESULT. [07_vaults.md R179 to R181] -/
def execBurstParity (p : Fin 288) (c : Fin 8) (ok : Bool) (s : State) : Host.Outcome State Fault Refusal :=
  .next (if domOn s p then parityStep s p c ok else s)

/-- The decode of the row in the recovery buffer, once the fetch of its page code has ended. [08_ecc_repair.md R193] -/
def recoveryStep (s : State) (p c : Nat) : State :=
  match (chanOf s p c).recov with
  | r :: rest =>
    if r.fetched then
      let s := onChan s p c fun ch => { ch with recov := rest }
      let x := recoverRow s p c r.burst.win r.burst.mask r.delivered r.lost
      if r.delivered then x.1 else deliverBurst x.1 p r.burst x.2
    else s
  | [] => s

/-- ROW_RECOVERY. [08_ecc_repair.md R193] -/
def execRowRecovery (p : Fin 288) (c : Fin 8) (s : State) : Host.Outcome State Fault Refusal :=
  .next (if domOn s p then recoveryStep s p c else s)

/-! ### Remap -/

/-- Sectors that a move finds uncorrectable. -/
def movedBad (s : State) (p c : Nat) (j : RemapJob) : List Nat :=
  let v := viewRow s p c j.win
  if (pageFix v (rowCode s p c (rowOf s p c j.win))).isSome then [] else badSectors (lightRow v)

/-- The move of a row to its spare is complete. [08_ecc_repair.md R201, R210, Table 8.6] -/
def remapStep (s : State) (p c : Nat) : State :=
  match (chanOf s p c).remapQ.find? fun j => j.written with
  | none => s
  | some j =>
    let bank := j.win % 16
    let done := fun (s : State) => onChan s p c fun ch => { ch with remapQ := ch.remapQ.filter fun x => x.win ≠ j.win }
    match freeSpare s p c bank 56 64 with
    | none => declareFailing (done s) p c j.win []
    | some k =>
      let secs := movedRow s p c j
      let s := firstX s p c j.win (movedBad s p c j)
      let s := writeRow s p c (196608 + bank * 64 + k) secs
      let s := useSpare (done s) p c bank k
      let s := onChan s p c fun ch => { ch with remap := smSet ch.remap j.win k }
      let s := bump s TILE_ECC_REMAP_COUNT p
      let s := postEvent s evtRowRemapped (rowPayload p c j.win + k * 2 ^ 30)
      updSpares (logRecord s (repairRec 3 p c bank (j.win / 16) 0 0 4)) p

/-- ROW_REMAPPED. [08_ecc_repair.md R201] -/
def execRowRemapped (p : Fin 288) (c : Fin 8) (s : State) : Host.Outcome State Fault Refusal :=
  .next (if domOn s p then remapStep s p c else s)

/-! ### Scrubbing -/

/-- Device time of one scrub pass in ns. [08_ecc_repair.md R198, Table 8.9] -/
def scrubPeriod (s : State) (p : Nat) : Nat := fget s TILE_ECC_CTRL__SCRUB_PERIOD p * 1000000000

/-- Number of the scrub interval of a channel of tile `p` that device time `t` lies in: there are as many to a period as the
channel has rows. [08_ecc_repair.md R198] -/
def scrubSlot (s : State) (p t : Nat) : Nat := t * chanRows s p / scrubPeriod s p

/-- The scrub read of this interval falls due: none has been made in it. [08_ecc_repair.md R198] -/
def scrubTurn (s : State) (p c : Nat) : Bool :=
  fbit s TILE_ECC_CTRL__SCRUB_EN p && chanActive s p c && tileOpen s p && decide (scrubSlot s p (chanOf s p c).scrubAt < scrubSlot s p (now s))

/-- The row to scrub is held, by a lock or by its move. [08_ecc_repair.md R198, R201; 09_jasper.md R228] -/
def scrubHeld (s : State) (p c : Nat) : Bool :=
  winLocked s p c (chanOf s p c).scrubWin || (moveOf s p c (chanOf s p c).scrubWin).isSome

/-- A scrub of the channel is due and not held. [08_ecc_repair.md R198] -/
def scrubDue (s : State) (p c : Nat) : Bool := scrubTurn s p c && !scrubHeld s p c

/-- The scrubber moves to the next window; after the last, the rows corrected in the pass become those of the last pass.
[08_ecc_repair.md R198, R200] -/
def scrubNext (s : State) (p c : Nat) : State :=
  onChan s p c fun ch =>
    let ch := { ch with scrubAt := now s, scrubHeld := false }
    if ch.scrubWin + 1 < chanRows s p then { ch with scrubWin := ch.scrubWin + 1 }
    else { ch with scrubWin := 0, ceLast := ch.ceNow, ceNow := [] }

/-- The scrubber has corrected light-code errors in a row: the consecutive passes in which it did, this one included.
[08_ecc_repair.md R200] -/
def cePasses (s : State) (p c w : Nat) : Nat :=
  ((((chanOf s p c).ceLast.find? fun x => x.1 = w).map fun x => x.2).getD 0) + 1

/-- The row enters the table of the rows corrected in the pass; the oldest of 64 gives way. [08_ecc_repair.md R200] -/
def noteCe (s : State) (p c w : Nat) : State :=
  onChan s p c fun ch =>
    let l := ch.ceNow ++ [(w, cePasses s p c w)]
    { ch with ceNow := l.drop (l.length - 64) }

/-- What a scrub makes of a sealed row: its words and tags as they are to stand, the words the light code corrected, whether the
page code was needed, and the sectors found uncorrectable. -/
structure ScrubOut where
  words : List Nat
  tags : List Nat
  ce : Nat
  page : Bool
  bad : List Nat
  deriving DecidableEq, Repr

/-- Both codes on a sealed row. Where the light code passes every word and the page code does not agree with them, the page code
corrects the row, be it in its own symbols alone; a row beyond it stays as the light code left it. [08_ecc_repair.md R192, R193,
R198] -/
def scrubCodes (v : RowView) (code : List Byte) : ScrubOut :=
  let l := lightRow v
  let bad := badSectors l
  if bad.isEmpty then
    let fixed := l.map quarterOut
    let ce := corrected l
    if pageCode ((bytesOfWords fixed).map BitVec.toNat) = code.map BitVec.toNat then ⟨fixed, v.tags, ce, false, []⟩
    else match pageFix v code with
      | none => ⟨fixed, v.tags, ce, false, []⟩
      | some out =>
        let words := pickWords v.tags (out.map quarterOut) v.words
        ⟨words, v.tags, if words = fixed then ce else corrected out, true, []⟩
  else
    let f := fixRow v code
    ⟨f.words, f.tags, if f.good then f.ce else corrected l, f.good, if f.good then [] else bad⟩

/-- A burst of the scrubber, of class 7, with its attempts: what it leaves, and whether one passed. [07_vaults.md R180, R181;
12_regulation.md R303, Table 12.1] -/
def scrubBurst (s : State) (p c w : Nat) (write : Bool) : State × Bool := wholeAttempts (spendClass s p c 2 7) p c w write

/-- The row written back whole; every sector written back with tag X counts, also one that had it before. A write-back lost on the
interface is not applied. [07_vaults.md R181; 08_ecc_repair.md R198, R199, R209, Table 8.13] -/
def writeBack (s : State) (p c w : Nat) (words tags : List Nat) : State :=
  let a := scrubBurst s p c w true
  if !a.2 then a.1
  else noteX (writeWin a.1 p c w (pickSectors words tags (2 ^ 64 - 1))) p c w 1 ((List.range 64).filter fun i => tags.getD i 0 = 3)

/-- The scrub of a sealed row. A row counts as declared failing by tag X only for sectors this scrub found uncorrectable
(log 72). [08_ecc_repair.md R198 to R200, R209, R210] -/
def scrubRow (s : State) (p c w : Nat) (v : RowView) : State :=
  let o := scrubCodes v (rowCode s p c (rowOf s p c w))
  let passes := cePasses s p c w
  let s := if o.ce = 0 then s else noteCe (bumpN s TILE_ECC_CE_COUNT o.ce p) p c w
  let s := if o.page then eccLog (bump s TILE_ECC_PAGE_CORR_COUNT p) p c w 2 ((badSectors (lightRow v)).headD 0) else s
  let s := firstX s p c w o.bad
  let s := if o.words = v.words && o.tags = v.tags && o.ce = 0 && !o.page then s else writeBack s p c w o.words o.tags
  if o.page || !o.bad.isEmpty || (o.ce ≠ 0 && decide (fget s TILE_ECC_CTRL__CE_THRESH p ≤ passes)) then declareFailing s p c w o.bad
  else s

/-- One scrub: a remote burst of class 7 and a page-code fetch; a burst lost on the interface scrubs nothing.
[07_vaults.md R181; 08_ecc_repair.md R198; 12_regulation.md Table 12.1] -/
def scrubStep (s : State) (p c : Nat) : State :=
  let w := (chanOf s p c).scrubWin
  let v := viewRow s p c w
  let a := scrubBurst s p c w false
  let s :=
    if !a.2 then a.1
    else if v.unsealed then bump a.1 TILE_ECC_UNSEALED_COUNT p
    else
      let b := scrubBurst a.1 p c w false
      if !b.2 then b.1 else bump (scrubRow b.1 p c w v) TILE_ECC_SCRUB_ROW_COUNT p
  scrubNext s p c

/-- A scrub read that meets a lock is counted once as held. [09_jasper.md R228, Table 9.10] -/
def scrubMeetsLock (s : State) (p c : Nat) : State :=
  if scrubTurn s p c && winLocked s p c (chanOf s p c).scrubWin && !(chanOf s p c).scrubHeld then
    bump (onChan s p c fun ch => { ch with scrubHeld := true }) REGION_JASPER_HOLD_COUNT (p / 18)
  else s

/-- SCRUB. [08_ecc_repair.md R198] -/
def execScrub (p : Fin 288) (c : Fin 8) (s : State) : Host.Outcome State Fault Refusal :=
  .next (if scrubDue s p c then scrubStep s p c else scrubMeetsLock s p c)

/-- A period boundary of device time has passed since the count of rows with tag X last restarted. [08_ecc_repair.md R209] -/
def stormBoundary (s : State) (p : Nat) : Bool := decide ((tileOf s p).xFrom / scrubPeriod s p < now s / scrubPeriod s p)

/-- ECC_STORM_PERIOD: at a period boundary, the count of rows with tag X restarts. [08_ecc_repair.md R209] -/
def execEccStormPeriod (p : Fin 288) (s : State) : Host.Outcome State Fault Refusal :=
  .next (if domOn s p && stormBoundary s p then onTile s p fun t => { t with xRows := [], xFrom := now s } else s)

/-! ### Field defect log -/

/-- The next record that is due is appended, or FIELD_LOG_FULL is posted once. [08_ecc_repair.md R205, R206] -/
def fieldLogStep (s : State) : State :=
  match s.blood.logQ with
  | [] => s
  | r :: rest =>
    let s := { s with blood := { s.blood with logQ := rest } }
    if s.flash.fieldLog.length < 8192 then { s with flash := { s.flash with fieldLog := s.flash.fieldLog ++ [r] } }
    else if s.blood.logFullPosted then s
    else postEvent { s with blood := { s.blood with logFullPosted := true } } evtFieldLogFull 0

/-- FIELD_LOG_APPEND: only Bloodhound appends. [08_ecc_repair.md R206; 18_host_firmware.md R454] -/
def execFieldLogAppend (s : State) : Host.Outcome State Fault Refusal := .next (if compUp s 2 then fieldLogStep s else s)

/-! ### Temperature bands -/

/-- The band that the edges reached and not left give. [07_vaults.md R171] -/
def bandNow (r : Region) : Nat := if r.in2 then 2 else if r.in1 then 1 else 0

/-- The next refresh of a channel after a change of band: one already due stays as it is; else the new interval, in B2 one of 682,
counts from the last, and one that has elapsed makes the refresh due at once. [07_vaults.md R172, R174] -/
def bandChan (b : Nat) (ch : Chan) : Chan :=
  { ch with
    refDue := if ch.refDue ≤ ch.now then ch.refDue else max (ch.refLast + tREFI b false) ch.now
    refOdd := b = 2 && decide (ch.now < ch.refDue) }

/-- The band of a region changes: its registers, and the next refresh of each channel. [07_vaults.md R171, R172, R174] -/
def setBand (s : State) (g b : Nat) : State :=
  if fget s REGION_DRAM_BAND__BAND g = b then s
  else
    let s := fset s REGION_DRAM_BAND__BAND b g
    forS (List.range 18) (fun k st =>
      let p := g * 18 + k
      let st := fset st TILE_VAULT_STATUS__BAND b p
      forS ((List.range 8).filter fun c => (smFind st.chans (p * 8 + c)).isSome)
        (fun c u => onChan u p c (bandChan b)) st) s

/-- A downward hold of 100 ms is complete. [07_vaults.md R171] -/
def holdDone (s : State) (h : Option Nat) : Bool :=
  match h with
  | some t => decide (t + 100000000 ≤ now s)
  | none => false

/-- DOWN_PENDING: a downward hold of the band in force is running. [07_vaults.md Table 7.14] -/
def downPending (r : Region) : Bool := (r.in2 && r.hold2.isSome) || (!r.in2 && r.in1 && r.hold1.isSome)

/-- The holds that are complete take effect. [07_vaults.md R171] -/
def bandDownStep (s : State) (g : Nat) : State :=
  let s := onRegion s g fun r => { r with
    in1 := r.in1 && !holdDone s r.hold1
    in2 := r.in2 && !holdDone s r.hold2 }
  let r := regionOf s g
  fset (setBand s g (bandNow r)) REGION_DRAM_BAND__DOWN_PENDING (flag (downPending r)) g

/-- BAND_DOWN. [07_vaults.md R171, R174] -/
def execBandDown (g : Fin 16) (s : State) : Host.Outcome State Fault Refusal := .next (bandDownStep s g)

end Sys2Proof.Machine
end

