-- ==== Sys2Proof/Machine/Jasper.lean ====
section
/-! DEFINITION. Near-memory compute: the fetch and check of a program (R221, R222), its lock (R228), its steps (R214 to R220,
R225, R226, R230), its end and its time limit (R232, R233). -/

namespace Sys2Proof.Machine

/-! ### Faults -/

/-- TILE_FAULT_INFO of a Jasper code. [09_jasper.md Table 9.6] -/
def jInfo (step cause w c : Nat) : Nat := step % 2 ^ 10 + cause * 2 ^ 12 + w % 2 ^ 18 * 2 ^ 16 + c % 8 * 2 ^ 34

/-- The step number of faults that concern no step. [09_jasper.md Table 9.6] -/
def noStep : Nat := 0x3FF

/-- The program of a tile is gone: its context, its bit of RUN_MASK and its lock. [09_jasper.md R232, R233, Tables 9.8, 9.9] -/
def dropProg (s : State) (p : Nat) : State :=
  let s := onTile s p fun t => { t with jprog := none }
  let s := rset s REGION_JASPER_CTX 0 (p / 18) (p % 18)
  fset s REGION_JASPER_STATUS__RUN_MASK (setBits (fget s REGION_JASPER_STATUS__RUN_MASK (p / 18)) (p % 18) 1 0) (p / 18)

/-- The command completes FAIL with a fault of the bank-edge unit. [09_jasper.md R236] -/
def jFail (s : State) (p : Nat) (c : Cmd) (code info : Nat) : State := failCmd (dropProg s p) p .jasper c code info

/-! ### The fetch -/

/-- The place of an address of the issuing tile, when it lies in the tile's own vault. [09_jasper.md R221] -/
def ownPlace (s : State) (p va : Nat) (write : Bool) : State × Option (Nat × Nat) :=
  let x := tileTranslate s (p / 18) va write
  match x.2 with
  | .vault q c off => (x.1, if q = p && vaultCause x.1 p c = 0 then some (c, off) else none)
  | _ => (x.1, none)

/-- What a fetch gives: the bytes, and the window and channel of the first tagged word. [09_jasper.md R222, Table 9.6] -/
structure OwnData where
  bytes : List Byte
  bad : Option (Nat × Nat)
  deriving DecidableEq, Repr

/-- The pieces of a fetch, read in order by remote bursts of the command's class; none when an address is not the tile's own.
[09_jasper.md R222; 12_regulation.md Table 12.1] -/
def ownPieces (s : State) (p cls : Nat) : List (Nat × Nat) → State × Option OwnData
  | [] => (s, some ⟨[], none⟩)
  | x :: xs =>
    let a := ownPlace s p x.1 false
    match a.2 with
    | none => (a.1, none)
    | some y =>
      let o := y.2 % 2048
      let r := ownReadWin a.1 p y.1 cls (y.2 / 2048) (byteMask o x.2)
      let z := ownPieces r.1 p cls xs
      let bad := if firstTag r.2 = 0 then none else some (y.2 / 2048, y.1)
      (z.1, z.2.map fun d => ⟨((r.2.flatMap fun q => q.data).drop (o % 32)).take x.2 ++ d.bytes, bad.orElse fun _ => d.bad⟩)

/-- `n` bytes at an address of the tile's own vault. [09_jasper.md R222] -/
def ownRead (s : State) (p cls va n : Nat) : State × Option OwnData := ownPieces s p cls (vaPieces (n / 2048 + 2) va n)

/-- TILE_FAULT_INFO of a fetch that met a tagged word. [09_jasper.md Table 9.6] -/
def fetchInfo (x : Nat × Nat) : Nat := jInfo noStep 0 x.1 x.2

/-- NSTEPS of a header. [09_jasper.md Table 9.2] -/
def jSteps (h : Nat) : Nat := bitsOf h 16 11

/-! ### Fields of a step -/

/-- STEP. [09_jasper.md Table 9.3] -/
def stOp (x : Nat) : Nat := bitsOf x 0 4
/-- CH. [09_jasper.md Table 9.3] -/
def stCh (x : Nat) : Nat := bitsOf x 4 3
/-- FUNC of ROWOP. [09_jasper.md Table 9.3] -/
def stFunc (x : Nat) : Nat := bitsOf x 8 3
/-- Window field `k` of a step: 0 at bit 16, 1 to 3 after it. [09_jasper.md Table 9.3] -/
def stWin (x k : Nat) : Nat := bitsOf x (16 + 18 * k) 18
/-- VOP of VEC. [09_jasper.md Table 9.3] -/
def stVop (x : Nat) : Nat := bitsOf x 8 8
/-- N of VEC. [09_jasper.md Table 9.3] -/
def stN (x : Nat) : Nat := bitsOf x 88 15
/-- ROWN of VEC. [09_jasper.md Table 9.3] -/
def stRown (x : Nat) : Nat := bitsOf x 106 14
/-- COUNT of SEAL. [09_jasper.md Table 9.3] -/
def stCount (x : Nat) : Nat := bitsOf x 34 9

/-- Source windows of a row function. [09_jasper.md Table 9.1] -/
def funcSources (f : Nat) : Nat := if f = 3 ∨ f = 5 then 1 else if f = 4 then 3 else 2

/-- The fields a step defines, as (low bit, width). [09_jasper.md Table 9.3] -/
def stepFields (x : Nat) : List (Nat × Nat) :=
  if stOp x = 1 then [(0, 7), (8, 3), (16, 18)] ++ (List.range (funcSources (stFunc x))).map fun k => (34 + 18 * k, 18)
  else if stOp x = 2 then [(0, 7), (16, 18), (34, 4)]
  else if stOp x = 3 then [(0, 7), (16, 18)]
  else if stOp x = 4 then [(0, 7), (16, 18), (34, 5)]
  else if stOp x = 5 then [(0, 7), (8, 4)]
  else if stOp x = 6 then [(0, 4), (16, 32)]
  else if stOp x = 7 then [(0, 7), (16, 18), (34, 9)]
  else [(0, 7), (8, 8), (16, 104)]

/-- A VOP that VEC accepts. [09_jasper.md R226] -/
def vecVop (v : Nat) : Bool := vopKnown v && (decide (v ≤ 0x18) || v = 0x20 || v = 0x21 || v = 0x22 || v = 0x30 || v = 0x31 || v = 0x33)

/-- The reserved values and bits of a step are in order. [09_jasper.md R222, Table 9.3] -/
def stepPlain (x : Nat) : Bool :=
  onlyFields (stepFields x) x
    && (if stOp x = 1 then decide (stFunc x ≤ 5)
      else if stOp x = 6 then bitsOf x 16 32 % 32 = 0
      else if stOp x = 7 then decide (1 ≤ stCount x) && decide (stCount x ≤ 256)
      else if stOp x = 8 then vecVop (stVop x) && decide (1 ≤ stN x) && decide (stN x ≤ 16384)
      else decide (1 ≤ stOp x) && decide (stOp x ≤ 5))

/-! ### VEC as a Beryl command -/

/-- PARAM `n` of an argument block. [09_jasper.md Table 9.4] -/
def jParam (args n : Nat) : Nat := bitsOf args (128 + 32 * (n % 4)) 32

/-- The command a VEC step stands for: LEN = N, IMM and AUX from the step and the argument block. [09_jasper.md R226] -/
def vecP (args x : Nat) : BerylP :=
  let v := stVop x
  let f := bitsOf x 103 1
  let n := bitsOf x 104 2
  let imm := if vopRow v then stRown x else if v = 5 then jParam args n else 0
  let aux := if v = 5 then jParam args (n + 1) else if vopRow v then jParam args n else 0
  ⟨0, 0, 0, 0, stN x, v, f, if v = 0x33 then 2 else f, imm, aux⟩

/-- ROWN is what the operation asks for. [09_jasper.md R226] -/
def rownOk (x : Nat) : Bool :=
  if vopRow (stVop x) then decide (stRown x ≠ 0) && stN x % stRown x = 0 else stRown x = 0

/-- 32-byte words of the results of a VEC step. [09_jasper.md R226] -/
def vecOutWords (b : BerylP) : Nat := wordsDst b + if b.vop = 0x33 then ceilDiv (berylRows b * 2) 32 else 0

/-- Consecutive windows that hold `n` words. [09_jasper.md R226] -/
def winsFor (w n : Nat) : List Nat := (List.range (ceilDiv n 64)).map fun i => w + i

/-- The operands of a VEC step: first window and words. [09_jasper.md R226] -/
def vecSources (args x : Nat) : List (Nat × Nat) :=
  let b := vecP args x
  [(stWin x 1, wordsA b)] ++ (if vopUsesB b.vop then [(stWin x 2, wordsB b)] else [])
    ++ (if vopUsesC b.vop then [(stWin x 3, wordsC b)] else [])

/-! ### The check -/

/-- Windows a step reads. [09_jasper.md Table 9.3] -/
def stepReads (args x : Nat) : List Nat :=
  if stOp x = 1 then (List.range (funcSources (stFunc x))).map fun k => stWin x (k + 1)
  else if stOp x = 8 then (vecSources args x).flatMap fun y => winsFor y.1 y.2
  else if stOp x = 2 ∨ stOp x = 3 ∨ stOp x = 4 then [stWin x 0]
  else []

/-- Windows a step writes under the lock. [09_jasper.md R222] -/
def stepWrites (args x : Nat) : List Nat :=
  if stOp x = 1 then [stWin x 0]
  else if stOp x = 7 then (List.range (stCount x)).map fun i => stWin x 0 + i
  else if stOp x = 8 then winsFor (stWin x 0) (vecOutWords (vecP args x))
  else []

/-- Bytes of an element in an output form. [09_jasper.md Table 9.4] -/
def outSize (form : Nat) : Nat := if form = 0 then 4 else if form = 1 then 2 else 16

/-- Bytes an OUT step writes, the last sector filled up. [09_jasper.md R220] -/
def outBytes (args : Nat) : Nat := ceilDiv (bitsOf args 24 8 * outSize (bitsOf args 32 2)) 32 * 32

/-- Window `w` of channel `c` is locked by a program with header `h`. [09_jasper.md R228] -/
def hdrLocks (h c w : Nat) : Bool :=
  bitOf (bitsOf h 32 8) c && decide (bitsOf h 64 18 ≤ w) && decide (w ≤ bitsOf h 96 18)

/-- What is wrong with a step, as (cause, window, channel). [09_jasper.md R222, Table 9.6] -/
def stepBad (s : State) (p h args x : Nat) : Option (Nat × Nat × Nat) :=
  let c := stCh x
  let ws := stepWrites args x ++ stepReads args x
  if !stepPlain x then some (0, 0, c)
  else if stOp x = 8 && !bitOf h 8 then some (7, 0, c)
  else if stOp x = 8 && !rownOk x then some (8, 0, c)
  else match ws.find? fun w => decide (147456 ≤ w) with
    | some w => some (2, w, c)
    | none =>
      if !ws.isEmpty && chanOut s p c then some (3, ws.headD 0, c)
      else match if stOp x = 1 then ws.find? fun w => w % 16 ≠ ws.headD 0 % 16 else none with
        | some w => some (4, w, c)
        | none => match (stepWrites args x).find? fun w => !hdrLocks h c w with
          | some w => some (5, w, c)
          | none =>
            if stOp x = 6 && decide (2 ^ 21 < bitsOf args 64 48 % 2 ^ 21 + bitsOf x 16 32 + outBytes args) then some (6, 0, 0)
            else none

/-- What is wrong with the header or the argument block. [09_jasper.md R222, Tables 9.2, 9.4, 9.6] -/
def headBad (s : State) (p h args : Nat) : Option (Nat × Nat × Nat) :=
  let n := bitsOf args 24 8
  if !onlyFields [(0, 10), (16, 11), (32, 8), (64, 18), (96, 18)] h || bitsOf h 0 8 ≠ 1
      || decide (bitsOf h 96 18 < bitsOf h 64 18) then some (0, 0, 0)
  else if bitOf h 8 != fbit s REGION_JASPER_STATUS__MODE (p / 18) then some (1, 0, 0)
  else if 147456 ≤ bitsOf h 96 18 then some (2, bitsOf h 96 18, 0)
  else match (List.range 8).find? fun c => bitOf (bitsOf h 32 8) c && chanOut s p c with
    | some c => some (3, bitsOf h 64 18, c)
    | none =>
      if !onlyFields [(0, 34), (64, 48), (128, 128)] args || n = 0 || decide (128 < n) || bitsOf args 32 2 = 3 then some (0, 0, 0)
      else none

/-- The first step that is wrong. [09_jasper.md R222] -/
def stepsBad (s : State) (p h args : Nat) : Nat → List Nat → Option (Nat × Nat × Nat × Nat)
  | _, [] => none
  | i, x :: xs =>
    match stepBad s p h args x with
    | some y => some (i, y.1, y.2.1, y.2.2)
    | none => stepsBad s p h args (i + 1) xs

/-- The check of a program fetched without tags. [09_jasper.md R222, R227] -/
def jCheck (s : State) (p : Nat) (c : Cmd) (h args : Nat) (steps : List Nat) : State :=
  if bitOf h 9 && fbit s HUB_MODE__STRICT then jFail s p c 0x82 noStep
  else match headBad s p h args with
    | some y => jFail s p c 0x81 (jInfo noStep y.1 y.2.1 y.2.2)
    | none =>
      let va := bitsOf args 64 48
      let o := ownPlace s p va true
      let s := o.1
      if va % 32 ≠ 0 ∨ o.2.isNone then jFail s p c 0x85 noStep
      else match stepsBad s p h args 0 steps with
        | some y => jFail s p c 0x81 (jInfo y.1 y.2.1 y.2.2.1 y.2.2.2)
        | none =>
          let prog : JProg := ⟨c.serial, h, steps, args, false, 0, [], false, [], []⟩
          let s := onTile s p fun t => { t with jprog := some prog }
          let s := onCmd s p .jasper c.serial fun y => { y with phase := .active }
          let g := p / 18
          let s := fset s REGION_JASPER_CTX__STATE 1 g (p % 18)
          fset s REGION_JASPER_STATUS__RUN_MASK (setBits (fget s REGION_JASPER_STATUS__RUN_MASK g) (p % 18) 1 1) g

/-- The fetch of header, steps and argument block; a fault that a read raises may have discarded the command.
[09_jasper.md R221, R222] -/
def jFetch (s : State) (p : Nat) (c : Cmd) : State :=
  let va := jasperP c.desc
  let cls := dClass c.desc
  let a := ownRead s p cls va.1 32
  match a.2 with
  | none => jFail a.1 p c 0x85 noStep
  | some hd =>
    let h := leNat hd.bytes
    if (cmdBy (tileOf a.1 p) .jasper c.serial).isNone then a.1
    else if va.1 % 32 ≠ 0 ∨ va.2 % 32 ≠ 0 then jFail a.1 p c 0x85 noStep
    else match hd.bad with
      | some x => jFail a.1 p c 0x84 (fetchInfo x)
      | none =>
        if jSteps h = 0 ∨ 1024 < jSteps h then jFail a.1 p c 0x81 noStep
        else
          let b := ownRead a.1 p cls (va.1 + 32) (jSteps h * 16)
          let d := ownRead b.1 p cls va.2 64
          match b.2, d.2 with
          | some x, some y =>
            if (cmdBy (tileOf d.1 p) .jasper c.serial).isNone then d.1
            else match x.bad.orElse fun _ => y.bad with
              | some z => jFail d.1 p c 0x84 (fetchInfo z)
              | none => jCheck d.1 p c h (leNat y.bytes) ((chunks 16 1024 x.bytes).map leNat)
          | _, _ => jFail d.1 p c 0x85 noStep

/-- The bank-edge unit may act for a tile; its duty gates the starts of steps alone. [09_jasper.md R212; 16_thermal_power.md R392] -/
def whenJasper (s : State) (p : Nat) (f : State → State) : State :=
  whenRuns s p fun s => if jasperAbsent s p then s else f s

/-- The command at the bank-edge unit begins. [09_jasper.md R222] -/
def jStart (s : State) (p : Nat) : State :=
  match (tileOf s p).qJasper.head? with
  | some c => if c.phase = .queued then jFetch s p c else s
  | none => s

/-- A burst already accepted to a locked window has not completed. [09_jasper.md R228] -/
def lockBusy (s : State) (p h : Nat) : Bool :=
  (List.range 8).any fun c =>
    let ch := chanOf s p c
    (ch.queue.any fun b => hdrLocks h c b.win) || (ch.flight.any fun b => hdrLocks h c b.win)
      || (ch.recov.any fun r => hdrLocks h c r.burst.win) || (ch.remapQ.any fun j => hdrLocks h c j.win)

/-- The lock is taken. [09_jasper.md R228] -/
def jLock (s : State) (p : Nat) : State :=
  match (tileOf s p).jprog with
  | none => s
  | some j =>
    if j.locked || lockBusy s p j.hdr then s
    else
      let s := onTile s p fun t => { t with jprog := some { j with locked := true, lockAt := now s } }
      fset s REGION_JASPER_CTX__STATE 2 (p / 18) (p % 18)

/-! ### Steps -/

/-- VCLK a row operation or a plane count occupies its bank: 96 or 768 FCLK. [09_jasper.md R214, R218] -/
def bankVclk (op : Nat) : Nat := if op = 4 then 269 else 34

/-- Banks of a channel that are busy with steps. [09_jasper.md R216] -/
def busySteps (ch : Chan) : Nat := ((List.range 16).filter fun b => decide (ch.now < smGet ch.jEnd b 0)).length

/-- The bank and the channel let a row operation or a plane count start: the bank is free, no burst to it is ready, fewer than
CONC_CH steps run in the channel, and the step ends before the next refresh. [09_jasper.md R216, Table 9.7] -/
def bankOpen (s : State) (p x : Nat) : Bool :=
  let c := stCh x
  let ch := chanOf s p c
  let bank := stWin x 0 % 16
  bankFree s p ch bank && !(ch.queue.any fun b => b.win % 16 = bank && burstReady s p c b)
    && decide (busySteps ch < fget s REGION_JASPER_CTRL__CONC_CH (p / 18))
    && decide (ch.now + bankVclk (stOp x) ≤ ch.refDue)

/-- The bank is busy until the step would end. [09_jasper.md R216] -/
def occupyBank (s : State) (p x : Nat) : State :=
  onChan s p (stCh x) fun ch => { ch with
    lastAct := smSet ch.lastAct (stWin x 0 % 16) (ch.now + bankVclk (stOp x) - tRC (bandOf s p))
    jEnd := smSet ch.jEnd (stWin x 0 % 16) (ch.now + bankVclk (stOp x)) }

/-- Step `n` has ended, unless a fault of its reads has stopped the program. [09_jasper.md R223, R233, Table 9.9] -/
def stepEnded (s : State) (p n : Nat) : State :=
  if (tileOf s p).jprog.isNone then s
  else
    let s := onTile s p fun t => { t with
      actSteps := t.actSteps + 1
      jprog := t.jprog.map fun j => { j with ended := j.ended ++ [n] } }
    fset s REGION_JASPER_CTX__STEP (n + 1) (p / 18) (p % 18)

/-- The program of a tile changes. -/
def onProg (s : State) (p : Nat) (f : JProg → JProg) : State := onTile s p fun t => { t with jprog := t.jprog.map f }

/-- The program stops with a fault at step `n`. [09_jasper.md R236, Table 9.6] -/
def stepFail (s : State) (p : Nat) (j : JProg) (code info : Nat) : State :=
  match cmdBy (tileOf s p) .jasper j.serial with
  | some c => jFail s p c code info
  | none => dropProg s p

/-- A step of code `op` acts when it is the next of a running program. [09_jasper.md R223; 16_thermal_power.md R392] -/
def jStep (s : State) (p op : Nat) (n : Nat) (f : State → JProg → Nat → State) : State :=
  whenIssue s p fun s => if jasperAbsent s p then s else
    match (tileOf s p).jprog with
    | none => s
    | some j =>
      match j.steps[n]? with
      | none => s
      | some x => if j.locked && j.ended.length = n && stOp x = op then f s j x else s

/-- A bitwise row function on the words of its sources. [09_jasper.md Table 9.1] -/
def rowFunc (f a b c : Nat) : Nat :=
  if f = 0 then a &&& b
  else if f = 1 then a ||| b
  else if f = 2 then a ^^^ b
  else if f = 3 then 2 ^ 64 - 1 - a % 2 ^ 64
  else if f = 4 then (a &&& b) ||| (a &&& c) ||| (b &&& c)
  else a

/-- The tag of a destination sector: clean, else P before U before X. [09_jasper.md R215] -/
def rowTag (ts : List Nat) : Nat := if ts.contains 1 then 1 else if ts.contains 2 then 2 else if ts.contains 3 then 3 else 0

/-- A row stored as raw bits, unsealed. [09_jasper.md R215] -/
def storeRaw (s : State) (p c r : Nat) (words tags : List Nat) : State :=
  let ch := chNo p c
  let s := { s with
    vaultData := memWrite s.vaultData (ch * 2 ^ 29 + r * 2048) (bytesOfWords words)
    vaultTag := memWrite s.vaultTag (ch * 2 ^ 24 + r * 64) (tags.map tagStored) }
  setUnsealed s p c r true

/-- ROWOP. [09_jasper.md R214, R215] -/
def rowopStep (n : Nat) (s : State) (p x : Nat) : State :=
  if !bankOpen s p x then s
  else
    let c := stCh x
    let vs := (List.range (funcSources (stFunc x))).map fun k => viewRow s p c (stWin x (k + 1))
    let word := fun k i => ((vs.map RowView.words).getD k []).getD i 0
    let words := (List.range 256).map fun i => rowFunc (stFunc x) (word 0 i) (word 1 i) (word 2 i)
    let tags := (List.range 64).map fun i => rowTag (vs.map fun v => v.tags.getD i 0)
    let s := storeRaw s p c (rowOf s p c (stWin x 0)) words tags
    stepEnded (bump (occupyBank s p x) REGION_JASPER_ROWOP_COUNT (p / 18)) p n

/-- Class of the bursts of a program: that of its command. [12_regulation.md Table 12.1] -/
def progClass (s : State) (p : Nat) : Nat :=
  match (tileOf s p).jprog.bind fun j => cmdBy (tileOf s p) .jasper j.serial with
  | some c => dClass c.desc
  | none => 0

/-- Deadline of the bursts of a program: that of its command. [12_regulation.md R305] -/
def progDue (s : State) (p : Nat) : Option Nat :=
  ((tileOf s p).jprog.bind fun j => cmdBy (tileOf s p) .jasper j.serial).bind fun c => c.deadline

/-- A burst of a program in its own vault that it takes whole, with its attempts. [07_vaults.md R180, R181; 12_regulation.md R303] -/
def progBurst (s : State) (p c w : Nat) (write : Bool) : State × Bool :=
  wholeAttempts (spendClass s p c 2 (progClass s p)) p c w write

/-- LOADA: the codes as delivered; a code 0x80 is counted. [09_jasper.md R220; 02_arithmetic.md R42] -/
def loadaStep (n : Nat) (s : State) (p x : Nat) : State :=
  let c := stCh x
  let r := ownReadWin s p c (progClass s p) (stWin x 0) (byteMask (bitsOf x 34 4 * 128) 128)
  let codes := (r.2.flatMap fun q => q.data).map BitVec.toNat
  let s := onTile r.1 p fun t => { t with
    actLatch := codes.zipIdx.foldl (fun m y => smSet m (c * 128 + y.2) y.1) t.actLatch }
  stepEnded (noteActClamp s p (codes.filter fun a => a = 128).length) p n

/-- LOADE: one exponent row as delivered. [09_jasper.md R220] -/
def loadeStep (n : Nat) (s : State) (p x : Nat) : State :=
  let c := stCh x
  let r := ownReadWin s p c (progClass s p) (stWin x 0) (2 ^ 64 - 1)
  let bs := (r.2.flatMap fun q => q.data).map BitVec.toNat
  stepEnded (onTile r.1 p fun t => { t with
    expLatch := bs.zipIdx.foldl (fun m y => smSet m (c * 2048 + y.2) y.1) t.expLatch }) p n

/-- The plane sum of a column. [09_jasper.md R217, R218; 02_arithmetic.md R47] -/
def popSum (int1 : Bool) (acts : List Int) (bytes : List Nat) (col : Nat) : Int :=
  (acts.zipIdx).foldl (fun t y =>
    let w := bitOf (bytes.getD (16 * col + y.2 / 8) 0) (y.2 % 8)
    if int1 then (if w then t - y.1 else t + y.1) else if w then t + y.1 else t) 0

/-- A POP result goes down the channel: the first of each eight takes a remote burst slot of the program's class (log 71).
[09_jasper.md R235; 12_regulation.md R303] -/
def popResult (s : State) (p c : Nat) : State :=
  let s := if (chanOf s p c).popSlot = 0 then countShare (spendClass s p c 2 (progClass s p)) p 2 else s
  onChan s p c fun ch => { ch with popSlot := (ch.popSlot + 1) % 8 }

/-- POP. Key 1,024 + channel of the block registers notes that a code 0x80 took part. [09_jasper.md R218, R219, R220] -/
def popStep (n : Nat) (s : State) (p : Nat) (j : JProg) (x : Nat) : State :=
  if !bankOpen s p x then s
  else
    let c := stCh x
    let w := stWin x 0
    let v := viewRow s p c w
    let l := if v.unsealed then v.words.map fun a => (a, LightOut.clean) else lightRow v
    let ce := corrected l
    let s := if ce = 0 then s else bumpN s TILE_ECC_CE_COUNT ce p
    let s := occupyBank s p x
    if (v.tags.any fun t => t ≠ 0) || l.any wordBad then stepFail s p j 0x84 (jInfo n 0 w c)
    else
      let bytes := (bytesOfWords (l.map quarterOut)).map BitVec.toNat
      let latch := (tileOf s p).actLatch
      let codes := (List.range 128).map fun k => smGet latch (c * 128 + k) 0
      let acts := codes.map actVal
      let clamp := codes.any fun a => a = 128
      let m : Int := ((2 ^ bitsOf x 34 3 : Nat) : Int)
      let add := fun (b : SMap Int) (col : Nat) =>
        let d := m * popSum (bitOf x 38) acts bytes col
        smSet b (c * 128 + col) (smGet b (c * 128 + col) 0 + if bitOf x 37 then -d else d)
      let s := onProg s p fun j =>
        let b := (List.range 128).foldl add j.blk
        { j with blk := if clamp then smSet b (1024 + c) 1 else b }
      stepEnded (bump (popResult s p c) REGION_JASPER_POP_COUNT (p / 18)) p n

/-- BLOCK. [09_jasper.md R220; 02_arithmetic.md R49, R50, R51] -/
def blockStep (n : Nat) (s : State) (p : Nat) (j : JProg) (x : Nat) : State :=
  let c := stCh x
  let f := sext 8 (bitsOf j.args 16 8)
  let cols := List.range (bitsOf j.args 24 8)
  let ex := fun i => sext 8 (smGet (tileOf s p).expLatch (c * 2048 + 128 * bitsOf x 8 4 + i) 0)
  if cols.any fun i => !scaleOk f (ex i) then
    stepFail (fset s TILE_ARITH_STATUS__SCALE_RANGE 1 p) p j 0x14 (Config.noInfo 0x14 (now s))
  else
    let clamp := decide (smGet j.blk (1024 + c) 0 ≠ 0)
    let old := fun i => smGet j.acc i accStart
    let new := fun i =>
      let a := accBlock f (old i) (smGet j.blk (c * 128 + i) 0) (ex i)
      { a with clamp := a.clamp || clamp }
    let acc := cols.foldl (fun m i => smSet m i (new i)) j.acc
    let s := noteSat s p (cols.any fun i => (new i).satN && !(old i).satN) (cols.any fun i => (new i).satL && !(old i).satL)
    let blk := smSet ((List.range 128).foldl (fun m i => smSet m (c * 128 + i) 0) j.blk) (1024 + c) 0
    stepEnded (onProg s p fun j => { j with acc := acc, blk := blk }) p n

/-- Bytes written to the own vault from byte `off` of channel `c`: bursts to locked windows are the program's own and issue at
once, one that is lost on the interface is not applied; others are accepted as remote bursts with the command's class and
deadline. [07_vaults.md R181; 09_jasper.md R220, R225, R228; 12_regulation.md R300, R305] -/
def ownWrite (p c : Nat) : Nat → Nat → List Byte → State → State
  | 0, _, _, s => s
  | k + 1, off, bs, s =>
    if bs.isEmpty then s
    else
      let o := off % 2048
      let here := bs.take (2048 - o)
      let secs := (chunks 32 65 here).zipIdx.map fun y => (⟨o / 32 + y.2, y.1, 0⟩ : Sector)
      let w := off / 2048
      let s :=
        if winLocked s p c w then
          let a := progBurst s p c w true
          if a.2 then writeWin a.1 p c w secs else a.1
        else
          let f := fresh s
          acceptBurst f.1 p c ⟨f.2, true, 2, progClass s p, w, sectorsMask (secs.map fun y => y.s), secs, .none, progDue s p,
            false, 0, 0, 0, false, false⟩
      ownWrite p c k (off + here.length) (bs.drop (2048 - o)) s

/-- Bytes filled up to whole sectors. [09_jasper.md R220] -/
def padSector (bs : List Byte) : List Byte := bs ++ List.replicate (ceilDiv bs.length 32 * 32 - bs.length) 0

/-- OUT: the group reopens, and contributions that no BLOCK has applied are gone. [09_jasper.md R220; 02_arithmetic.md R49, R55,
R57, R58, R59] -/
def outStep (n : Nat) (s : State) (p : Nat) (j : JProg) (x : Nat) : State :=
  let f := sext 8 (bitsOf j.args 16 8)
  let ncols := bitsOf j.args 24 8
  let form := bitsOf j.args 32 2
  let sw := bitsOf j.args 0 16
  let pl := ownPlace s p (bitsOf j.args 64 48) true
  match pl.2 with
  | none => stepFail pl.1 p j 0x85 (jInfo n 0 0 0)
  | some y =>
    let ended := fun i =>
      let a := accEnd f (smGet j.acc i accStart)
      { a with nonfin := a.nonfin || bitOf sw 8 }
    let recs := (List.range ncols).map fun i => accRecord f (sext 8 (sw % 256)) (ended i)
    let newL := (List.range ncols).any fun i => (ended i).satL && !(smGet j.acc i accStart).satL
    let out := recs.map (resultBytes form)
    let bs := padSector (out.flatMap fun z => z.1)
    let s := ownWrite p y.1 4 (y.2 + bitsOf x 16 32) bs pl.1
    let s := noteSat s p false newL
    let s := setIf s (out.any fun z => z.2) TILE_ARITH_STATUS__CONV_OVF p
    let s := noteSatCount s p (recs.filter fun r => r.satN || r.satL).length
    stepEnded (onProg s p fun j => { j with acc := [], blk := [] }) p n

/-- One row of SEAL: read as stored, written back whole with check bytes, page code and seal; a row whose read or write is lost
on the interface is not written, and the fault of that loss ends the program. [07_vaults.md R181; 09_jasper.md R230] -/
def sealRow (p c w : Nat) (s : State) : State :=
  if (tileOf s p).jprog.isNone then s
  else
    let v := viewRow s p c w
    let a := progBurst s p c w false
    if !a.2 then a.1
    else
      let b := progBurst a.1 p c w true
      if b.2 then writeWin b.1 p c w (pickSectors v.words v.tags (2 ^ 64 - 1)) else b.1

/-- SEAL. [09_jasper.md R230] -/
def sealStep (n : Nat) (s : State) (p x : Nat) : State :=
  let ws := stepWrites 0 x
  let s := forS ws (sealRow p (stCh x)) s
  stepEnded (bumpN s REGION_JASPER_SEAL_COUNT ws.length (p / 18)) p n

/-- What an operation of VEC computes, with 16 lanes in its reductions. [09_jasper.md R226] -/
def vecOp (v : Nat) (x : BerylP) (i : BerylIn) : BerylOut :=
  let f := fmtOf x.fout
  if v = 0x00 then elem1 (fKeep f) x i
  else if v = 0x01 then elem2 (fAdd f) x i
  else if v = 0x02 then elem2 (fSub f) x i
  else if v = 0x03 then elem2 (fMul f) x i
  else if v = 0x04 then elem3 (fFma f) x i
  else if v = 0x05 then elem1 (fun a => fFma f a (immF x) (auxF x)) x i
  else if v = 0x06 then elem2 (fun a b => fKeep f (fMaxV a b)) x i
  else if v = 0x07 then elem2 (fun a b => fKeep f (fMinV a b)) x i
  else if v = 0x08 then elem1 (fun a => fKeep f (fMaxV a (.fin false 0 0))) x i
  else if v = 0x10 then elem1 (fun a => toOut f (fExp .fp32 a)) x i
  else if v = 0x11 then elem1 (fun a => toOut f (fLog .fp32 a)) x i
  else if v = 0x12 then elem1 (fun a => toOut f (fRecip .fp32 a)) x i
  else if v = 0x13 then elem1 (fun a => toOut f (fRsqrt .fp32 a)) x i
  else if v = 0x14 then elem1 (fun a => toOut f (fSqrt .fp32 a)) x i
  else if v = 0x15 then elem1 (fun a => toOut f (fSigmoid a)) x i
  else if v = 0x16 then elem1 (fun a => toOut f (fSilu a)) x i
  else if v = 0x17 then elem1 (fun a => toOut f (fTanh a)) x i
  else if v = 0x18 then elem2 (fun a b => toOut f (fGlu a b)) x i
  else if v = 0x20 then reduceRows (fun r => toOut f (reduceSum 4 false r)) x i
  else if v = 0x21 then reduceRows (fun r => toOut f (reduceSum 4 true r)) x i
  else if v = 0x22 then reduceRows (fun r => fKeep f (rowMaxR r)) x i
  else if v = 0x30 then rowsOut (softmaxRow 4 f (auxF x)) x i
  else if v = 0x31 then rowsOut (fun r => rmsnormRow 4 f (auxF x) r (vecElems x i 1)) x i
  else outQuant x i

/-- The `n` sectors of an operand read in order from consecutive windows: its bytes, and the first window with a source sector that
is not clean. [09_jasper.md R225] -/
def vecRead (s : State) (p c n : Nat) : List Nat → State × List Byte × Option Nat
  | [] => (s, [], none)
  | w :: ws =>
    let r := ownReadWin s p c (progClass s p) w (2 ^ min n 64 - 1)
    if firstTag r.2 ≠ 0 then (r.1, [], some w)
    else
      let z := vecRead r.1 p c (n - 64) ws
      (z.1, (r.2.flatMap fun q => q.data) ++ z.2.1, z.2.2)

/-- The operands of a VEC step in order. [09_jasper.md R225, R226] -/
def vecReadAll (s : State) (p c : Nat) : List (Nat × Nat) → State × List (List Byte) × Option Nat
  | [] => (s, [], none)
  | y :: ys =>
    let r := vecRead s p c y.2 (winsFor y.1 y.2)
    match r.2.2 with
    | some w => (r.1, [], some w)
    | none =>
      let z := vecReadAll r.1 p c ys
      (z.1, (r.2.1.take (y.2 * 32)) :: z.2.1, z.2.2)

/-- VEC. [09_jasper.md R225, R226] -/
def vecStep (n : Nat) (s : State) (p : Nat) (j : JProg) (x : Nat) : State :=
  let c := stCh x
  let b := vecP j.args x
  let r := vecReadAll s p c (vecSources j.args x)
  match r.2.2 with
  | some w => stepFail r.1 p j 0x84 (jInfo n 0 w c)
  | none =>
    let o := vecOp b.vop b ⟨r.2.1, none⟩
    let bs := padSector o.bytes ++ padSector o.scales
    let s := ownWrite p c (bs.length / 2048 + 2) (stWin x 0 * 2048) bs r.1
    let s := noteBeryl s p o.fl
    let s := setIf s o.masked TILE_BERYL_STATUS__MASKED_ROW p
    stepEnded (noteNonfinite s p o.nonfin) p n

/-! ### End -/

/-- The program ends when its last step has ended. [09_jasper.md R232] -/
def jEnd (s : State) (p : Nat) : State :=
  match (tileOf s p).jprog with
  | none => s
  | some j =>
    if j.locked && j.ended.length = j.steps.length then
      let s := bump (dropProg s p) REGION_JASPER_PROG_COUNT (p / 18)
      finishCmd s p .jasper j.serial true
    else s

/-- A program that has not ended 20 µs after it took its lock. [09_jasper.md R233] -/
def jTimeout (s : State) (p : Nat) : State :=
  match (tileOf s p).jprog with
  | none => s
  | some j =>
    if j.locked && decide (j.lockAt + 20000 ≤ now s) && decide (j.ended.length < j.steps.length) then
      stepFail s p j 0x83 (jInfo j.ended.length 0 0 0)
    else s

/-! ### The commands -/

/-- JASPER_START. [09_jasper.md R222] -/
def execJasperStart (p : Fin 288) (s : State) : Host.Outcome State Fault Refusal := .next (whenJasper s p fun s => jStart s p)

/-- JASPER_LOCK. [09_jasper.md R228] -/
def execJasperLock (p : Fin 288) (s : State) : Host.Outcome State Fault Refusal := .next (whenJasper s p fun s => jLock s p)

/-- ROWOP. [09_jasper.md R214] -/
def execJRowop (p : Fin 288) (n : Fin 1024) (s : State) : Host.Outcome State Fault Refusal :=
  .next (jStep s p 1 n fun s _ x => rowopStep n s p x)

/-- LOADA. [09_jasper.md R220] -/
def execJLoada (p : Fin 288) (n : Fin 1024) (s : State) : Host.Outcome State Fault Refusal :=
  .next (jStep s p 2 n fun s _ x => loadaStep n s p x)

/-- LOADE. [09_jasper.md R220] -/
def execJLoade (p : Fin 288) (n : Fin 1024) (s : State) : Host.Outcome State Fault Refusal :=
  .next (jStep s p 3 n fun s _ x => loadeStep n s p x)

/-- POP. [09_jasper.md R218] -/
def execJPop (p : Fin 288) (n : Fin 1024) (s : State) : Host.Outcome State Fault Refusal :=
  .next (jStep s p 4 n fun s j x => popStep n s p j x)

/-- BLOCK. [09_jasper.md R220] -/
def execJBlock (p : Fin 288) (n : Fin 1024) (s : State) : Host.Outcome State Fault Refusal :=
  .next (jStep s p 5 n fun s j x => blockStep n s p j x)

/-- OUT. [09_jasper.md R220] -/
def execJOut (p : Fin 288) (n : Fin 1024) (s : State) : Host.Outcome State Fault Refusal :=
  .next (jStep s p 6 n fun s j x => outStep n s p j x)

/-- SEAL. [09_jasper.md R230] -/
def execJSeal (p : Fin 288) (n : Fin 1024) (s : State) : Host.Outcome State Fault Refusal :=
  .next (jStep s p 7 n fun s _ x => sealStep n s p x)

/-- VEC. [09_jasper.md R226] -/
def execJVec (p : Fin 288) (n : Fin 1024) (s : State) : Host.Outcome State Fault Refusal :=
  .next (jStep s p 8 n fun s j x => vecStep n s p j x)

/-- PROGRAM_END. [09_jasper.md R232] -/
def execProgramEnd (p : Fin 288) (s : State) : Host.Outcome State Fault Refusal := .next (whenRuns s p fun s => jEnd s p)

/-- FLT_JASPER_TIMEOUT. [09_jasper.md R233] -/
def execJasperTimeout (p : Fin 288) (s : State) : Host.Outcome State Fault Refusal := .next (whenRuns s p fun s => jTimeout s p)

end Sys2Proof.Machine
end

