-- ==== Sys2Proof/Machine/HostPost.lean ====
section
/-! DEFINITION. Completion rings and the end of host commands (18_host_firmware.md R438 to R443, R448). -/

namespace Sys2Proof.Machine

/-! ### Completion entries (R443) -/

/-- Entries of ring `r` between two indices. [18_host_firmware.md R439] -/
def ringGap (log2 head tail : Nat) : Nat := (tail + 2 ^ log2 - head % 2 ^ log2) % 2 ^ log2

/-- A completion entry without its PHASE. [18_host_firmware.md Table 18.6] -/
def cqeBits (cid ring status cause head result time : Nat) : Nat :=
  cid % 2 ^ 16 + ring * 2 ^ 16 + status * 2 ^ 24 + cause * 2 ^ 32 + head * 2 ^ 48 + result % 2 ^ 64 * 2 ^ 64
    + time % 2 ^ 64 * 2 ^ 128

/-- A completion is written at the CQ tail of its ring and signalled. [18_host_firmware.md R440, R443] -/
def writeCqe (s : State) (r entry : Nat) (atOnce : Bool) : State :=
  let size := 2 ^ fget s HOST_RING_CFG__CQ_LOG2 r
  let tail := fget s HOST_RING_STATE__CQ_TAIL r
  let ph := fget s HOST_RING_STATE__CQ_PHASE r
  let a := fget s HOST_RING_CFG__CQ_BASE r * 4096 + tail * 32
  let s := { s with bar4 := memWrite s.bar4 a (leBytes 32 (entry % 2 ^ 255 + ph * 2 ^ 255)) }
  let s := fset s HOST_RING_STATE__CQ_TAIL ((tail + 1) % size) r
  let s := if tail + 1 = size then fset s HOST_RING_STATE__CQ_PHASE (1 - ph) r else s
  notePosted s r atOnce

/-- A completion is posted, behind the host link while it is down. [18_host_firmware.md R436] -/
def postCqe (s : State) (r entry : Nat) (atOnce : Bool) : State :=
  if hostReady s then writeCqe s r entry atOnce
  else { s with host := { s.host with waiting := s.host.waiting ++ [.cqe r entry atOnce] } }

/-- Commands of ring `r` in progress. [18_host_firmware.md R442] -/
def ringCmds (s : State) (r : Nat) : List HostCmd := s.host.cmds.filter fun c => c.ring = r

/-- A ring whose ENABLE = 0 write waited reads as disabled once its last command has completed. [18_host_firmware.md R438] -/
def ringSettle (s : State) (r : Nat) : State :=
  if s.host.stopping.contains r && (ringCmds s r).isEmpty then
    let s := { s with host := { s.host with stopping := s.host.stopping.filter fun x => x ≠ r } }
    fset s HOST_RING_CFG__ENABLE 0 r
  else s

/-- No CQ entry is free for one more command: entries posted and not consumed, those that wait for the link, and commands in
progress fill the ring. [18_host_firmware.md R442] -/
def cqFull (s : State) (r : Nat) : Bool :=
  let log := fget s HOST_RING_CFG__CQ_LOG2 r
  let posted := ringGap log (fget s DB_CQ_HEAD__INDEX r) (fget s HOST_RING_STATE__CQ_TAIL r)
  let held := (s.host.waiting.filter fun x => match x with
    | .cqe q _ _ => q = r
    | _ => false).length
  decide (2 ^ log ≤ posted + held + (ringCmds s r).length + 1)

/-- STALLED follows the CQ. [18_host_firmware.md R442] -/
def updStalled (s : State) (r : Nat) : State :=
  fset s HOST_RING_STATE__STALLED (flag (fbit s HOST_RING_CFG__ENABLE r && cqFull s r)) r

/-- A completion with its status, cause and result. [18_host_firmware.md R443] -/
def postEnd (s : State) (c : HostCmd) (status cause result : Nat) : State :=
  let s := bump s HOST_CMD_COUNT
  let e := cqeBits c.cid c.ring status cause (fget s HOST_RING_STATE__SQ_HEAD c.ring) result (now s)
  updStalled (ringSettle (postCqe s c.ring e (bitOf c.entry 9)) c.ring) c.ring

/-- A command in progress completes: it leaves the list of those in progress, and its final status is kept.
[18_host_firmware.md R442, R443, R448] -/
def endCmd (s : State) (c : HostCmd) (status cause result : Nat) : State :=
  let s := { s with host := { s.host with
    cmds := s.host.cmds.filter fun x => !(x.ring = c.ring && x.cid = c.cid)
    finals := (c.ring, c.cid, status) :: s.host.finals.filter fun x => !(x.1 = c.ring && x.2.1 = c.cid) } }
  postEnd s c status cause result

end Sys2Proof.Machine
end

