-- ==== Sys2Proof/Machine/Agate.lean ====
section
/-! DEFINITION. Agate's updates: live updates and their acknowledgement (R240, R242), the rebuild of the shadow bank (R243 to
R245) and the swap (R246, R247). -/

namespace Sys2Proof.Machine

/-- The tile is good: neither bad nor excluded in the floor plan. [17_bringup.md R428, R431] -/
def tileGood (s : State) (p : Nat) : Bool := bitOf (fget s SEQ_FP_REGION__GOOD (p / 18)) (p % 18)

/-- Why an entry is refused: 1 reserved bit, 2 tile, 3 channel, 4 CPAGE; 0 when it is accepted. [10_attention_kv.md R240, Table 10.10] -/
def entRefuse (s : State) (e : Nat) : Nat :=
  let p := entTile e
  if !entValid e then 0
  else if e / 2 ^ 24 ≠ 0 then 1
  else if decide (287 < p) || !tileGood s p then 2
  else if chanOut s p (entChan e) then 3
  else if (if jasperVault s p then 144 else 192) ≤ entPage e then 4
  else 0

/-- STATE of Agate. [10_attention_kv.md Table 10.3] -/
def agateState (s : State) : Nat := fget s AGATE_STATUS__STATE

/-- STATE changes. [10_attention_kv.md Table 10.3] -/
def setAgate (s : State) (st : Nat) : State := fset s AGATE_STATUS__STATE st

/-- The hub's messages reach the controller of region `g`. [11_fabric.md R281] -/
def regionReached (s : State) (g : Nat) : Bool :=
  domOn s (288 + g) && !(routeOf s .hub (.region g)).any fun l => linkDown s l

/-- The regions whose acknowledgement is awaited, as a mask. [10_attention_kv.md R242, R246] -/
def reachedMask (s : State) : Nat := sectorsMask ((List.range 16).filter fun g => regionReached s g)

/-- A management message to every region that can be reached. [10_attention_kv.md R242, R246] -/
def toRegions (s : State) (mg : Mgmt) : State :=
  forS ((List.range 16).filter fun g => regionReached s g) (fun g st => sendMgmt st .hub (.region g) mg) s

/-- No region that can be reached has its acknowledgement outstanding. [10_attention_kv.md R242, R246] -/
def allAcked (s : State) (wait : Nat) : Bool := !(List.range 16).any fun g => bitOf wait g && regionReached s g

/-- The delta log takes a record, or LOG_OVF is set. [10_attention_kv.md R245] -/
def logDelta (s : State) (i e : Nat) : State :=
  if s.agate.log.length < 4096 then
    let s := { s with agate := { s.agate with log := s.agate.log ++ [(i, e)] } }
    fset s AGATE_STATUS__LOG_FILL s.agate.log.length
  else fset s AGATE_STATUS__LOG_OVF 1

/-- A live update is applied. [10_attention_kv.md R240, R242, R245] -/
def applyUpdate (s : State) (i e : Nat) : State :=
  let why := entRefuse s e
  if why ≠ 0 then fset (fset s AGATE_STATUS__WR_ERR 1) AGATE_STATUS__WR_CAUSE why
  else
    let s := bankSet s false i e
    let s := if agateState s = 1 ∨ agateState s = 2 then logDelta s i e else s
    let s := fset s AGATE_STATUS__UPD_BUSY 1
    let s := { s with agate := { s.agate with updWait := reachedMask s } }
    toRegions s (.invalidate i)

/-- Updates wait behind one that is not acknowledged, and during REPLAY. [10_attention_kv.md R242, R246] -/
def updHeld (s : State) : Bool := fbit s AGATE_STATUS__UPD_BUSY || agateState s = 3

/-- One record of the delta log; the result notes the first conflict. [10_attention_kv.md R246] -/
def replayRec (x : Nat × Nat) (r : State × Option Nat) : State × Option Nat :=
  if r.1.agate.rebuilt.contains x.1 then (bump r.1 AGATE_CONFLICT_COUNT, some (r.2.getD x.1))
  else (bankSet r.1 true x.1 x.2, r.2)

/-- REPLAY. The first conflict of the swap is posted. [10_attention_kv.md R246, Table 10.9] -/
def replayLog (s : State) : State :=
  let r := s.agate.log.foldl (fun r x => replayRec x r) (s, none)
  match r.2 with
  | some i => postEvent r.1 evtAgateConflict i
  | none => r.1

/-- A write of AGATE_GEN that reaches Agate. [10_attention_kv.md R246] -/
def genWrite (s : State) (v : Nat) : State :=
  if agateState s = 2 && !fbit s AGATE_STATUS__LOG_OVF && s.agate.sweep.isNone
      && v % 2 ^ 32 = (fget s AGATE_GEN__GEN + 1) % 2 ^ 32 then setAgate (replayLog s) 3
  else fset s AGATE_STATUS__SWAP_ERR 1

/-- The held writes in order, up to an update behind one that has made UPD_BUSY. [10_attention_kv.md R242, R246, R247] -/
def releaseUpdates (s : State) : List HostWrite → State
  | [] => { s with agate := { s.agate with held := [] } }
  | .gen v :: us => releaseUpdates (genWrite s v) us
  | .upd i e :: us =>
    if updHeld s then { s with agate := { s.agate with held := .upd i e :: us } }
    else releaseUpdates (applyUpdate s i e) us

/-- A write from the host is held behind those that the host link holds. [10_attention_kv.md R242] -/
def holdWrite (s : State) (w : HostWrite) : State := { s with agate := { s.agate with held := s.agate.held ++ [w] } }

/-- A write of AGATE_UPD_DATA. [10_attention_kv.md R242] -/
def updWrite (s : State) (v : Nat) : State :=
  let i := fget s AGATE_UPD_INDEX__INDEX
  if updHeld s || !s.agate.held.isEmpty then holdWrite s (.upd i v) else applyUpdate s i v

/-- A write of AGATE_GEN from the host: one sent after updates that are still held reaches Agate after them.
[10_attention_kv.md R242, R246, R247] -/
def swapWrite (s : State) (v : Nat) : State := if s.agate.held.isEmpty then genWrite s v else holdWrite s (.gen v)

/-- Every region has acknowledged the invalidation. [10_attention_kv.md R242] -/
def updAcked (s : State) : State :=
  if fbit s AGATE_STATUS__UPD_BUSY && allAcked s s.agate.updWait then
    let s := fset s AGATE_STATUS__UPD_BUSY 0
    let s := { s with agate := { s.agate with updWait := 0 } }
    releaseUpdates s s.agate.held
  else s

/-! ### Rebuild -/

/-- A write of REBUILD. [10_attention_kv.md R243] -/
def rebuildWrite (s : State) : State :=
  if agateState s = 0 then
    let s := fset s AGATE_STATUS__LOG_FILL 0
    setAgate { s with agate := { s.agate with log := [] } } 1
  else s

/-- COPY ends: the shadow bank is the active bank as it was copied, and the updates since then are in the log. An update made
during COPY reaches the shadow bank with the copy or with the log. [10_attention_kv.md R243] -/
def copyEnd (s : State) : State :=
  if agateState s = 1 then
    let a := s.agate
    let src := if activeBank s then a.bank1 else a.bank0
    let b := if activeBank s then { a with bank0 := src, rebuilt := [] } else { a with bank1 := src, rebuilt := [] }
    setAgate { s with agate := b } 2
  else s

/-- A write of ABORT. [10_attention_kv.md R245] -/
def abortRebuild (s : State) : State :=
  let s := { s with agate := { s.agate with log := [], sweep := none, genWait := 0 } }
  let s := fset (fset s AGATE_STATUS__LOG_OVF 0) AGATE_STATUS__LOG_FILL 0
  let s := setAgate (fset s AGATE_RETARGET__BUSY 0) 0
  releaseUpdates s s.agate.held

/-- The shadow entry is stored and marked REBUILT. [10_attention_kv.md R243] -/
def shadowSet (s : State) (i e : Nat) : State :=
  let s := bankSet s true i e
  { s with agate := { s.agate with rebuilt := i :: s.agate.rebuilt.filter fun j => j ≠ i } }

/-- A write of AGATE_SHD_DATA. [10_attention_kv.md R240, R243] -/
def shdWrite (s : State) (v : Nat) : State :=
  if agateState s = 2 then
    let why := entRefuse s v
    if why ≠ 0 then fset (fset s AGATE_STATUS__WR_ERR 1) AGATE_STATUS__WR_CAUSE why
    else shadowSet s (fget s AGATE_SHD_INDEX__INDEX) v
  else fset s AGATE_STATUS__SHD_ERR 1

/-- A write of AGATE_RETARGET: FROM and TO in every state; GO starts a sweep in REBUILD. [10_attention_kv.md R243, R244] -/
def retargetWrite (s : State) (v : Nat) : State :=
  let s := fset (fset s AGATE_RETARGET__FROM (bitsOf v 0 9)) AGATE_RETARGET__TO (bitsOf v 16 9)
  if bitOf v 32 then
    if agateState s = 2 && s.agate.sweep.isNone then
      fset { s with agate := { s.agate with sweep := some (bitsOf v 0 9, bitsOf v 16 9) } } AGATE_RETARGET__BUSY 1
    else fset s AGATE_STATUS__SHD_ERR 1
  else s

/-- One entry of the sweep; the results so far are (changed, failed, first failed). [10_attention_kv.md R244] -/
def sweepEntry (src dst : Nat) (x : Nat × Nat) (r : State × Nat × Nat × Option Nat) : State × Nat × Nat × Option Nat :=
  match entDecode x.2 with
  | none => r
  | some e =>
    if entValid e && entTile e = src then
      let e' := setBits e 4 9 dst
      if entRefuse r.1 e' = 0 then (shadowSet r.1 x.1 e', r.2.1 + 1, r.2.2.1, r.2.2.2)
      else (r.1, r.2.1, r.2.2.1 + 1, some (r.2.2.2.getD x.1))
    else r

/-- The sweep ends with its results. [10_attention_kv.md R244] -/
def sweepDone (s : State) : State :=
  match s.agate.sweep with
  | none => s
  | some ft =>
    let shadow := if activeBank s then s.agate.bank0 else s.agate.bank1
    let r := shadow.foldl (fun r x => sweepEntry ft.1 ft.2 x r) (s, 0, 0, none)
    let s := { r.1 with agate := { r.1.agate with sweep := none } }
    let s := fset s AGATE_RETARGET__BUSY 0
    rset s AGATE_RT_RESULT (r.2.1 % 2 ^ 20 + r.2.2.1 % 2 ^ 20 * 2 ^ 20 + (r.2.2.2.getD 0) * 2 ^ 40)

/-! ### Swap -/

/-- The exchange: roles, GEN, held updates, and the broadcast. [10_attention_kv.md R246] -/
def exchange (s : State) : State :=
  if agateState s = 3 then
    let s := fset s AGATE_STATUS__ACTIVE_BANK (flag (!activeBank s))
    let g := (fget s AGATE_GEN__GEN + 1) % 2 ^ 32
    let s := fset s AGATE_GEN__GEN g
    let s := { s with agate := { s.agate with log := [], rebuilt := [], genWait := reachedMask s } }
    let s := setAgate (fset s AGATE_STATUS__LOG_FILL 0) 4
    let s := toRegions s (.gen g)
    releaseUpdates s s.agate.held
  else s

/-- A request of the customer die that the hub translated under another GEN than `g` has no answer yet. [10_attention_kv.md R246;
11_fabric.md R295] -/
def oldForward (s : State) (g : Nat) : Bool :=
  let old := fun (m : Msg) => m.gen.any fun x => x ≠ g
  (s.msgs.any fun m => old m && (m.typ = .rd || m.typ = .wr))
    || s.chans.any fun x => (x.2.queue ++ x.2.flight ++ x.2.recov.map fun r => r.burst).any fun b =>
      match b.req with
      | .remote m => old m
      | _ => false

/-- A descriptor fetch translated under another GEN than `g` is not served yet. [04_tile_commands.md R96; 10_attention_kv.md R246] -/
def oldFetch (s : State) (g : Nat) : Bool :=
  s.chans.any fun x => (x.2.queue ++ x.2.flight ++ x.2.recov.map fun r => r.burst).any fun b =>
    match b.req with
    | .fetch _ y => y ≠ g
    | _ => false

/-- A request translated under another GEN is outstanding: an access of a tile, a descriptor fetch, or one forwarded for the
customer die. [10_attention_kv.md R246] -/
def oldPend (s : State) : Bool :=
  let g := fget s AGATE_GEN__GEN
  (s.tiles.any fun t =>
    (t.2.qDma.any fun c => dOp c.desc ≠ 0x34 && c.pend.any fun x => x.gen ≠ g)
      || t.2.appends.any fun a => a.pend.any fun x => x.gen ≠ g)
    || oldForward s g || oldFetch s g

/-- DRAIN ends. [10_attention_kv.md R246] -/
def drainEnd (s : State) : State :=
  if agateState s = 4 && allAcked s s.agate.genWait && !oldPend s then
    let s := setAgate { s with agate := { s.agate with genWait := 0 } } 0
    postEvent (bump s AGATE_SWAP_COUNT) evtAgateSwapped (fget s AGATE_GEN__GEN)
  else s

/-! ### Bloodhound's use of a rebuild (15_fault_tolerance.md R370) -/

/-- In TRANSLATE, the end of COPY starts the retarget. [15_fault_tolerance.md R370] -/
def afterCopy (s : State) : State :=
  match s.blood.recov with
  | some r =>
    if fget s BH_STATUS__STATE = 3 && agateState s = 2 && s.agate.sweep.isNone then
      retargetWrite s (r.src + (r.standby.getD 0) * 2 ^ 16 + 2 ^ 32)
    else s
  | none => s

/-- In TRANSLATE, the end of the sweep starts the swap; a log that overflowed starts the rebuild again.
[15_fault_tolerance.md R370; 10_attention_kv.md R245] -/
def afterSweep (s : State) : State :=
  if fget s BH_STATUS__STATE = 3 && agateState s = 2 then
    if fbit s AGATE_STATUS__LOG_OVF then rebuildWrite (abortRebuild s) else genWrite s ((fget s AGATE_GEN__GEN + 1) % 2 ^ 32)
  else s

/-- In TRANSLATE, AGATE_SWAPPED lets REBUILD begin. [15_fault_tolerance.md R370] -/
def afterSwap (s : State) : State :=
  if fget s BH_STATUS__STATE = 3 then { s with blood := { s.blood with recov := s.blood.recov.map fun r => { r with swapped := true } } }
  else s

/-! ### The commands -/

/-- Agate is powered: its unit has no rail of its own beyond the translation unit. [17_bringup.md Table 17.8] -/
def whenAgate (s : State) (f : State → State) : State := if domOn s 316 then f s else s

/-- LIVE_UPDATE. [10_attention_kv.md R242] -/
def execLiveUpdate (v : BitVec 64) (s : State) : Host.Outcome State Fault Refusal := .next (whenAgate s fun s => updWrite s v.toNat)

/-- UPD_ACK. [10_attention_kv.md R242] -/
def execUpdAck (s : State) : Host.Outcome State Fault Refusal := .next (whenAgate s updAcked)

/-- AGATE_REBUILD. [10_attention_kv.md R243] -/
def execAgateRebuild (s : State) : Host.Outcome State Fault Refusal := .next (whenAgate s rebuildWrite)

/-- AGATE_COPY_END. [10_attention_kv.md R243] -/
def execAgateCopyEnd (s : State) : Host.Outcome State Fault Refusal := .next (whenAgate s fun s => if agateState s = 1 then afterCopy (copyEnd s) else s)

/-- AGATE_ABORT. [10_attention_kv.md R245] -/
def execAgateAbort (s : State) : Host.Outcome State Fault Refusal := .next (whenAgate s abortRebuild)

/-- AGATE_SHD_DATA_WRITE. [10_attention_kv.md R243] -/
def execAgateShdDataWrite (v : BitVec 64) (s : State) : Host.Outcome State Fault Refusal :=
  .next (whenAgate s fun s => shdWrite s v.toNat)

/-- RETARGET. [10_attention_kv.md R244] -/
def execAgateRetarget (v : BitVec 64) (s : State) : Host.Outcome State Fault Refusal :=
  .next (whenAgate s fun s => retargetWrite s v.toNat)

/-- SWEEP_END. [10_attention_kv.md R244] -/
def execSweepEnd (s : State) : Host.Outcome State Fault Refusal := .next (whenAgate s fun s => if s.agate.sweep.isSome then afterSweep (sweepDone s) else s)

/-- SWAP. [10_attention_kv.md R246] -/
def execAgateSwap (v : BitVec 64) (s : State) : Host.Outcome State Fault Refusal := .next (whenAgate s fun s => swapWrite s v.toNat)

/-- EXCHANGE. [10_attention_kv.md R246] -/
def execAgateExchange (s : State) : Host.Outcome State Fault Refusal := .next (whenAgate s exchange)

/-- AGATE_SWAPPED. [10_attention_kv.md R246] -/
def execAgateSwapped (s : State) : Host.Outcome State Fault Refusal := .next (whenAgate s fun s =>
    let t := drainEnd s
    if agateState s = 4 && agateState t = 0 then afterSwap t else t)

end Sys2Proof.Machine
end

