-- ==== Sys2Proof/Machine/Topaz.lean ====
section
/-! DEFINITION. Topaz: the sequence table and its commands (R251 to R254), the pools (R255), and the append path (R256 to
R261). -/

namespace Sys2Proof.Machine

/-! ### Structures in vault memory -/

/-- Class of Topaz's bursts. [10_attention_kv.md R251] -/
def topazCls : Nat := 7

/-- A structure of `n` bytes as Topaz reads it: its value, or none when it is tagged or cannot be read (log 12).
[10_attention_kv.md R251, R254] -/
def topazRead (s : State) (va n : Nat) : State × Option Nat :=
  let r := hubRead s topazCls va n
  (r.1, if r.2.tag ≠ 0 ∨ r.2.cause ≠ 0 then none else some (leNat r.2.bytes))

/-- A structure of `n` bytes as Topaz writes it. [10_attention_kv.md R251] -/
def topazWrite (s : State) (va n v : Nat) : State := (hubWrite s va (leBytes n v) 0 topazCls).1

/-- SEQ_POISON. [10_attention_kv.md R254] -/
def seqPoison (s : State) (seq : Nat) : State := postEvent s evtSeqPoison seq

/-- Address of a descriptor. [10_attention_kv.md R251] -/
def descVa (s : State) (seq : Nat) : Nat := fget s TOPAZ_CTRL__TABLE_VA * 2 ^ 21 + 64 * seq

/-- A descriptor enters the cache. [10_attention_kv.md R251] -/
def cacheDesc (s : State) (seq d : Nat) : State :=
  { s with topaz := { s.topaz with cache := ((seq, d) :: s.topaz.cache.filter fun x => x.1 ≠ seq).take 32768 } }

/-- A descriptor through the cache. [10_attention_kv.md R251, Table 10.12] -/
def readDesc (s : State) (seq : Nat) : State × Option Nat :=
  match s.topaz.cache.find? fun x => x.1 = seq with
  | some x => (s, some x.2)
  | none =>
    let r := topazRead (bump s TOPAZ_CACHE_MISS_COUNT) (descVa s seq) 64
    match r.2 with
    | some d => (cacheDesc r.1 seq d, some d)
    | none => (r.1, none)

/-- A descriptor is written through. [10_attention_kv.md R251] -/
def writeDesc (s : State) (seq d : Nat) : State := cacheDesc (topazWrite s (descVa s seq) 64 d) seq d

/-- STATE of a descriptor. [10_attention_kv.md Table 10.5] -/
def dState (d : Nat) : Nat := bitsOf d 0 2
/-- NLAYER. [10_attention_kv.md Table 10.5] -/
def dLayers (d : Nat) : Nat := bitsOf d 8 8
/-- NKV. [10_attention_kv.md Table 10.5] -/
def dHeads (d : Nat) : Nat := bitsOf d 16 5

/-- Address of a head record. [10_attention_kv.md R252] -/
def headVa (d layer kvhead : Nat) : Nat := bitsOf d 64 48 + 32 * (layer * dHeads d + kvhead)

/-- Address of page entry `j` of a head. [10_attention_kv.md R252] -/
def pentVa (h j : Nat) : Nat := bitsOf h 80 48 + 8 * j

/-- K_TAIL (part 0) or V_TAIL (part 1). [10_attention_kv.md Table 10.6] -/
def tailOf (h part : Nat) : Nat := bitsOf h (32 * part) 21

/-! ### Pools -/

/-- Pages in the pool of logical tile `t`. [10_attention_kv.md R255] -/
def poolCount (s : State) (t : Nat) : Nat :=
  (fget s TOPAZ_POOL_PTR__TAIL t + 2 ^ 21 - fget s TOPAZ_POOL_PTR__HEAD t) % 2 ^ 21

/-- Entries of the ring of a pool. [10_attention_kv.md R255] -/
def poolSize (s : State) (t : Nat) : Nat := 2 ^ fget s TOPAZ_POOL_CFG__LOG2SIZE t

/-- Address of ring entry `i` of a pool. [10_attention_kv.md R255] -/
def poolVa (s : State) (t i : Nat) : Nat := fget s TOPAZ_POOL_CFG__BASE t + 4 * (i % poolSize s t)

/-- The pool stands at or below its mark, or above it. [10_attention_kv.md R255] -/
def poolMark (s : State) (t : Nat) : State :=
  let rest := s.topaz.low.filter fun x => x ≠ t
  { s with topaz := { s.topaz with low := if poolCount s t ≤ fget s TOPAZ_POOL_CFG__LOW t * 16 then t :: rest else rest } }

/-- A page has left a pool: KV_POOL_LOW is posted when the count falls to the mark, and again only after it has risen above.
[10_attention_kv.md R255] -/
def poolFall (s : State) (t : Nat) : State :=
  let u := poolMark s t
  if u.topaz.low.contains t && !s.topaz.low.contains t then postEvent u evtKvPoolLow t else u

/-- A page is appended to a pool, or dropped when the ring is full. There are 288 pools; a HOME above them has none (log 33).
[10_attention_kv.md R255] -/
def poolPush (s : State) (t page : Nat) : State :=
  if 288 ≤ t then s
  else if poolSize s t ≤ poolCount s t then bump (fset s TOPAZ_POOL_PTR__FULL_ERR 1 t) TOPAZ_POOL_DROP_COUNT
  else
    let i := fget s TOPAZ_POOL_PTR__TAIL t
    let s := topazWrite s (poolVa s t i) 4 page
    poolMark (fset s TOPAZ_POOL_PTR__TAIL (i + 1) t) t

/-- The next page of a pool, if any: its address bits [47:16]. [10_attention_kv.md R255, R260] -/
def poolTake (s : State) (t : Nat) : State × Option Nat :=
  if 288 ≤ t ∨ poolCount s t = 0 then (s, none)
  else
    let i := fget s TOPAZ_POOL_PTR__HEAD t
    let r := hubRead s topazCls (poolVa s t i) 4
    let s := bump (fset r.1 TOPAZ_POOL_PTR__HEAD (i + 1) t) TOPAZ_PAGE_ALLOC_COUNT
    (poolFall s t, some (leNat r.2.bytes))

/-! ### Commands -/

/-- The command ends. An end without error leaves the ERR of a write refused meanwhile, which the next accepted command clears.
[10_attention_kv.md Table 10.11] -/
def topazEnd (s : State) (err : Nat) : State :=
  let s := fset { s with topaz := { s.topaz with cmd := none } } TOPAZ_CMD_STATUS__BUSY 0
  if err = 0 then s else fset s TOPAZ_CMD_STATUS__ERR err

/-- The command ends on a structure that is tagged. [10_attention_kv.md R254] -/
def topazPoison (s : State) (seq : Nat) : State := topazEnd (seqPoison s seq) 4

/-- A write of TOPAZ_CMD. [10_attention_kv.md R253, Table 10.11; 00_scope.md R18] -/
def topazCmdWrite (s : State) (v : Nat) : State :=
  let op := bitsOf v 0 4
  if op = 0 ∨ 4 < op then s
  else if fbit s TOPAZ_CMD_STATUS__BUSY then fset s TOPAZ_CMD_STATUS__ERR 1
  else
    let c : TopazCmd := ⟨op, bitsOf v 4 20, bitsOf v 24 8, bitsOf v 32 4, bitsOf v 36 21⟩
    let s := { s with topaz := { s.topaz with cmd := some c } }
    fset (fset s TOPAZ_CMD_STATUS__BUSY 1) TOPAZ_CMD_STATUS__ERR 0

/-- The accepted command, when it has operation `op`. [10_attention_kv.md R253] -/
def topazRow (s : State) (op : Nat) (f : State → TopazCmd → State) : State :=
  match s.topaz.cmd with
  | some c => if c.op ≠ op then s else if fbit s TOPAZ_CTRL__ENABLE then f s c else topazEnd s 2
  | none => s

/-- The descriptor in the staging registers. [10_attention_kv.md Table 10.11] -/
def staged (s : State) : Nat := (List.range 8).foldl (fun d i => d + rget s TOPAZ_STAGE i * 2 ^ (64 * i)) 0

/-- The staged fields are in range. [10_attention_kv.md R253, Table 10.5] -/
def stagedOk (d : Nat) : Bool :=
  decide (1 ≤ dLayers d) && decide (1 ≤ dHeads d) && decide (dHeads d ≤ 16) && bitsOf d 64 48 % 32 = 0 && bitsOf d 128 48 % 32 = 0

/-- OPEN writes the whole descriptor, keeping the table's GEN; a tagged descriptor is rewritten too, with the GEN bits as they
were delivered. [10_attention_kv.md R253, R254] -/
def openCmd (s : State) (c : TopazCmd) : State :=
  let r := hubRead (bump s TOPAZ_CACHE_MISS_COUNT) topazCls (descVa s c.seq) 64
  let d := leNat r.2.bytes
  if r.2.cause ≠ 0 then topazEnd r.1 4
  else if r.2.tag = 0 ∧ dState d ≠ 0 then topazEnd r.1 2
  else if !stagedOk (staged s) then topazEnd r.1 3
  else topazEnd (writeDesc r.1 c.seq (setBits (setBits (staged s) 0 2 1) 32 32 (bitsOf d 32 32))) 0

/-- READ. [10_attention_kv.md R253] -/
def readCmd (s : State) (c : TopazCmd) : State :=
  let r := readDesc s c.seq
  match r.2 with
  | none => topazPoison r.1 c.seq
  | some d => topazEnd (forS (List.range 8) (fun i st => rset st TOPAZ_STAGE (bitsOf d (64 * i) 64) i) r.1) 0

/-- The VALID page entries of a head from index `j`, as (index, entry); none when one is tagged. [10_attention_kv.md R253, R254] -/
def pagesFrom (h : Nat) : Nat → Nat → State → State × Option (List (Nat × Nat))
  | 0, _, s => (s, some [])
  | n + 1, j, s =>
    if bitsOf h 128 13 ≤ j then (s, some [])
    else
      let r := topazRead s (pentVa h j) 8
      match r.2 with
      | none => (r.1, none)
      | some e =>
        let z := pagesFrom h n (j + 1) r.1
        (z.1, z.2.map fun l => if bitOf e 9 then (j, e) :: l else l)

/-- Every page of a sequence with its pool, in (LAYER, KVHEAD, page) order; none when a structure is tagged.
[10_attention_kv.md R253] -/
def seqPages (d : Nat) : List (Nat × Nat) → State → State × Option (List (Nat × Nat))
  | [], s => (s, some [])
  | x :: xs, s =>
    let r := topazRead s (headVa d x.1 x.2) 32
    match r.2 with
    | none => (r.1, none)
    | some h =>
      let a := if bitOf h 73 then pagesFrom h 4096 0 r.1 else (r.1, some [])
      match a.2 with
      | none => (a.1, none)
      | some l =>
        let z := seqPages d xs a.1
        (z.1, z.2.map fun m => (l.map fun y => (bitsOf h 64 9, bitsOf y.2 16 32)) ++ m)

/-- CLOSE, once every append resolved for the sequence has completed. [10_attention_kv.md R253] -/
def closeCmd (s : State) (c : TopazCmd) : State :=
  let r := readDesc s c.seq
  match r.2 with
  | none => topazPoison r.1 c.seq
  | some d =>
    if dState d ≠ 1 then topazEnd r.1 2
    else if s.topaz.flight.any fun x => x.1 = c.seq then s
    else
      let hs := (List.range (dLayers d)).flatMap fun l => (List.range (dHeads d)).map fun k => (l, k)
      let z := seqPages d hs r.1
      match z.2 with
      | none => topazPoison z.1 c.seq
      | some l =>
        let s := forS l (fun y st => poolPush st y.1 y.2) z.1
        topazEnd (writeDesc s c.seq (setBits (setBits d 0 2 0) 32 32 ((bitsOf d 32 32 + 1) % 2 ^ 32))) 0

/-- TRUNCATE, once the head's append in flight has completed. [10_attention_kv.md R253] -/
def truncateCmd (s : State) (c : TopazCmd) : State :=
  let r := readDesc s c.seq
  match r.2 with
  | none => topazPoison r.1 c.seq
  | some d =>
    if dState d ≠ 1 then topazEnd r.1 2
    else if dLayers d ≤ c.layer ∨ dHeads d ≤ c.kvhead then topazEnd r.1 3
    else if s.topaz.flight.any fun x => x.1 = c.seq && x.2.1 = c.layer && x.2.2.1 = c.kvhead then s
    else
      let va := headVa d c.layer c.kvhead
      let q := topazRead r.1 va 32
      match q.2 with
      | none => topazPoison q.1 c.seq
      | some h =>
        if min (tailOf h 0) (tailOf h 1) < c.len then topazEnd q.1 3
        else
          let z := pagesFrom h 4096 (ceilDiv c.len 256) q.1
          match z.2 with
          | none => topazPoison z.1 c.seq
          | some l =>
            let s := topazWrite z.1 va 32 (setBits (setBits h 0 21 c.len) 32 21 c.len)
            let s := forS l (fun y st =>
              poolPush (topazWrite st (pentVa h y.1) 8 (setBits y.2 9 1 0)) (bitsOf h 64 9) (bitsOf y.2 16 32)) s
            topazEnd s 0

/-! ### Resolution of an append -/

/-- The parts of an append: 0 K, 1 V. [10_attention_kv.md R256, R260] -/
def partsOf (part : Nat) : List Nat := (List.range 2).filter fun i => bitOf part i

/-- The heads and parts an append is serialised on. [10_attention_kv.md R259] -/
def appendKeys (p : Nat) (a : Append) : List (Nat × Nat × Nat × Nat × Nat × Nat) :=
  (partsOf a.part).map fun i => (a.seq, a.layer, a.kvhead, i, p, a.id)

/-- The append waits: for an earlier one to its head and part, or for a TRUNCATE of its head. [10_attention_kv.md R253, R259] -/
def appendWaits (s : State) (a : Append) : Bool :=
  (s.topaz.flight.any fun x => x.1 = a.seq && x.2.1 = a.layer && x.2.2.1 = a.kvhead && bitOf a.part x.2.2.2.1)
    || (s.tiles.any fun t => t.2.appends.any fun b =>
        b.id < a.id && b.res.isNone && b.seq = a.seq && b.layer = a.layer && b.kvhead = a.kvhead && Nat.land b.part a.part ≠ 0)
    || match s.topaz.cmd with
      | some c => c.op = 4 && c.seq = a.seq && c.layer = a.layer && c.kvhead = a.kvhead
      | none => false

/-- What a resolution gives: a cause with the part concerned, or the row places as (row address, page-entry address, part,
row). [10_attention_kv.md R260, R261] -/
structure Resolved where
  cause : Nat
  rows : List (Nat × Nat × Nat × Nat)
  part : Nat := 0
  deriving DecidableEq, Repr

/-- A page cleared before its first row. [10_attention_kv.md R249] -/
def clearPage (s : State) (page : Nat) : State := (hubWrite s (page * 65536) (List.replicate 65536 0) 0 topazCls).1

/-- The pages of the touched indices, taking new ones from the pool: (index, page), or the cause met. [10_attention_kv.md R260] -/
def touchPages (h lt seq : Nat) : List Nat → State → State × Nat × List (Nat × Nat)
  | [], s => (s, 0, [])
  | j :: js, s =>
    let r := topazRead s (pentVa h j) 8
    match r.2 with
    | none => (seqPoison r.1 seq, 6, [])
    | some e =>
      if bitOf e 9 then
        let z := touchPages h lt seq js r.1
        (z.1, z.2.1, (j, bitsOf e 16 32) :: z.2.2)
      else
        let t := poolTake r.1 lt
        match t.2 with
        | none => (t.1, 5, [])
        | some pg =>
          let s := topazWrite (clearPage t.1 pg) (pentVa h j) 8 (2 ^ 9 + pg * 2 ^ 16)
          let z := touchPages h lt seq js s
          (z.1, z.2.1, (j, pg) :: z.2.2)

/-- Rows of a list without repeats, ascending. -/
def dedupe (l : List Nat) : List Nat := l.foldl (fun m x => if m.contains x then m else m ++ [x]) []

/-- The steps of R260 after the descriptor. [10_attention_kv.md R248, R260] -/
def resolveHead (s : State) (p : Nat) (a : Append) (d : Nat) : State × Resolved :=
  let va := headVa d a.layer a.kvhead
  let q := topazRead s va 32
  match q.2 with
  | none => (seqPoison q.1 a.seq, { cause := 6, rows := [] })
  | some h0 =>
    let lt := logField s p
    let h := if bitOf h0 73 then h0 else setBits (setBits h0 64 9 lt) 73 1 1
    let s := if bitOf h0 73 then q.1 else topazWrite q.1 va 32 h
    let past := fun i => decide (256 * bitsOf h 128 13 < tailOf h i + a.ntok)
    if bitsOf h 64 9 ≠ lt then (s, { cause := 3, rows := [] })
    else if (partsOf a.part).any past then (s, ⟨4, [], (partsOf a.part).findIdx past⟩)
    else
      let idx := dedupe ((partsOf a.part).flatMap fun i => (List.range a.ntok).map fun r => (tailOf h i + r) / 256)
      let t := touchPages h lt a.seq idx s
      let touches := fun i => (List.range a.ntok).any fun r => (tailOf h i + r) / 256 = idx.getD t.2.2.length 0
      if t.2.1 ≠ 0 then (t.1, ⟨t.2.1, [], (partsOf a.part).findIdx touches⟩)
      else
        let rows := (partsOf a.part).flatMap fun i => (List.range a.ntok).map fun r =>
          let n := tailOf h i + r
          let pg := (((t.2.2.find? fun x => x.1 = n / 256).map fun x => x.2).getD 0)
          (pg * 65536 + 32768 * i + 128 * (n % 256), pentVa h (n / 256), i, r)
        (t.1, { cause := 0, rows := rows })

/-- Topaz resolves an append. [10_attention_kv.md R253, R254, R260, Table 10.11] -/
def resolve (s : State) (p : Nat) (a : Append) : State × Resolved :=
  if a.cause ≠ 0 then (s, { cause := a.cause, rows := [] })
  else if !fbit s TOPAZ_CTRL__ENABLE then (s, { cause := 1, rows := [] })
  else
    let r := readDesc s a.seq
    match r.2 with
    | none => (seqPoison r.1 a.seq, { cause := 6, rows := [] })
    | some d =>
      let closing := match s.topaz.cmd with
        | some c => c.op = 2 && c.seq = a.seq
        | none => false
      if dState d ≠ 1 ∨ closing = true then (r.1, { cause := 1, rows := [] })
      else if dLayers d ≤ a.layer ∨ dHeads d ≤ a.kvhead then (r.1, { cause := 2, rows := [] })
      else resolveHead r.1 p a d

/-! ### The rows of an append -/

/-- H of a layer. [10_attention_kv.md R267] -/
def headroom (s : State) (p layer : Nat) : Nat := bitsOf (rget s TILE_KV_HEADROOM p (layer / 21)) (3 * (layer % 21)) 3

/-- The 128 code bytes of a row with the tags of their sectors; P of the page is set on its first non-zero row.
[02_arithmetic.md R46; 10_attention_kv.md R257, R258, R260] -/
def rowCodes (s : State) (p : Nat) (a : Append) (eva : Nat) (row : List Nat × List Nat) : State × List Byte × List Nat :=
  let e := leNat (hubRead s topazCls eva 8).2.bytes
  let setP := fun (st : State) (v : Int) => topazWrite st eva 8 (setBits (setBits e 0 8 (ofInt 8 v)) 8 1 1)
  if a.coded then
    let s := if !bitOf e 8 && row.1.any (fun c => c % 256 ≠ 0) then setP s 0 else s
    (s, row.1.map fun c => BitVec.ofNat 8 c, row.2)
  else
    let q := quantiseKv (row.1.map fun v => decodeF .fp32 v) (if bitOf e 8 then some (sext 8 (bitsOf e 0 8)) else none)
      (headroom s p a.layer)
    let s := match q.p with
      | some v => if bitOf e 8 then s else setP s v
      | none => s
    (noteNonfinite (noteKvClamp s p q.clamps) p q.nonfin, q.codes.map codeByte, [])

/-- An append changes. -/
def onAppend (s : State) (p id : Nat) (f : Append → Append) : State :=
  onTile s p fun t => { t with appends := mapIf (fun a => a.id = id) f t.appends }

/-- A write of the append fails before it leaves the tile. [10_attention_kv.md R261] -/
def appendBad (s : State) (p : Nat) (a : Append) (part err : Nat) : State :=
  let s := if a.unit = .dma then partFail s p a.cmd part err else s
  onAppend s p a.id fun y => { y with bad := true }

/-- The sectors of the rows of an append, in order. [06_spinel_dma.md R152; 10_attention_kv.md R248, R260] -/
def appendItems (p : Nat) (a : Append) : List (Nat × Nat × Nat × Nat) → State → State × List Item
  | [], s => (s, [])
  | x :: xs, s =>
    let row := (if x.2.2.1 = 0 then a.krows else a.vrows).getD x.2.2.2 ([], [])
    let z := rowCodes s p a x.2.1 row
    let its := (chunks 32 4 z.2.1).zipIdx.map fun y => (⟨x.1 + 32 * y.2, 0, y.1, z.2.2.getD y.2 0⟩ : Item)
    let r := appendItems p a xs z.1
    (r.1, its ++ r.2)

/-- One write burst of an append: to the tile's own vault, or as a message; nothing more of a failed part.
[06_spinel_dma.md R151, R158; 10_attention_kv.md R248, R260] -/
def appendBurst (s : State) (p : Nat) (a : Append) (b : OBurst) : State :=
  let failed := a.unit = .dma && match cmdBy (tileOf s p) .dma a.cmd with
    | some c => ((c.parts[b.part]?).map fun x => x.err).getD 0 ≠ 0
    | none => false
  let remote := fun (s : State) =>
    let f := fresh s
    let s := onAppend f.1 p a.id fun y => { y with pend := y.pend ++ [⟨f.2, b.part, [], destRegion b.dst, now s, b.gen⟩] }
    sendRequest s p (burstMsg p f.2 true a.cls a.deadline b)
  if failed then s
  else match b.dst with
    | .cust _ => remote s
    | .vault q c w =>
      if q ≠ p then remote s
      else
        let cause := vaultCause s p c
        if cause ≠ 0 then appendBad s p a b.part (noepErr cause)
        else
          let f := fresh (countSent s p (burstMask b) false)
          let n := if a.unit = .dma then taggedSecs (burstSecs b) else 0
          let s := notePoison f.1 p n
          let s := if n = 0 then s else onCmd s p .dma a.cmd fun y => { y with poison := true }
          acceptBurst s p c ⟨f.2, true, 1, a.cls, w, burstMask b, burstSecs b, .none, a.deadline, false, 0, 0, 0, false, false⟩

/-- The rows of an append are written: the walk merges their sectors, the parts of a KV_APPEND are its destinations, and an
unmapped address fails its part. [06_spinel_dma.md R152, R158; 10_attention_kv.md R260] -/
def writeRows (s : State) (p : Nat) (a : Append) (rows : List (Nat × Nat × Nat × Nat)) : State :=
  let z := appendItems p a rows s
  let w := walkItems z.1 p true none z.2
  let s := if a.unit = .dma then onCmd w.st p .dma a.cmd fun y => { y with parts := w.parts } else w.st
  let s := forS (w.parts.zipIdx.filter fun x => x.1.dest = .unmapped) (fun x st => appendBad st p a x.2 1) s
  forS w.closed (fun b st => appendBurst st p a b) s

/-- APPEND_RESOLVE: resolution in arrival order, then the writes of the rows. [10_attention_kv.md R259, R260, R261] -/
def resolveAppend (s : State) (p : Nat) (a : Append) : State :=
  let r := resolve s p a
  let s := onAppend r.1 p a.id fun y => { y with res := some r.2.rows, cause := r.2.cause, bad := decide (r.2.cause ≠ 0) }
  if r.2.cause ≠ 0 then
    if a.unit = .dma then
      partFail (onCmd s p .dma a.cmd fun y => { y with parts := List.replicate (r.2.part + 1) ⟨.unmapped, 0, true⟩ }) p a.cmd r.2.part 7
    else s
  else
    let s := { s with topaz := { s.topaz with flight := s.topaz.flight ++ appendKeys p a } }
    writeRows s p a r.2.rows

/-- The append of a tile by its number. -/
def appendBy (s : State) (p id : Nat) : Option Append := (tileOf s p).appends.find? fun a => a.id = id

/-- No append that could be resolved arrived before this one. [10_attention_kv.md R259] -/
def firstAppend (s : State) (a : Append) : Bool :=
  !s.tiles.any fun t => t.2.appends.any fun b => b.id < a.id && b.res.isNone && !appendWaits s b

/-- The row of APPEND_RESOLVE. [10_attention_kv.md R259, R260] -/
def resolveStep (s : State) (p id : Nat) : State :=
  match appendBy s p id with
  | none => s
  | some a => if a.res.isNone && !appendWaits s a && firstAppend s a then resolveAppend s p a else s

/-! ### The end of an append -/

/-- The tails of an append that was written advance; false where a structure is tagged. [10_attention_kv.md R254, R261] -/
def advanceTails (s : State) (a : Append) : State × Bool :=
  let r := readDesc s a.seq
  match r.2 with
  | none => (seqPoison r.1 a.seq, false)
  | some d =>
    let va := headVa d a.layer a.kvhead
    let q := topazRead r.1 va 32
    match q.2 with
    | none => (seqPoison q.1 a.seq, false)
    | some h => (topazWrite q.1 va 32 ((partsOf a.part).foldl (fun h i => setBits h (32 * i) 21 (tailOf h i + a.ntok)) h), true)

/-- TILE_FAULT_INFO of FLT_KV_APPEND. [10_attention_kv.md Table 10.8] -/
def kvInfo (a : Append) : Nat := a.cause % 16 + a.seq % 2 ^ 20 * 2 ^ 4 + a.layer % 2 ^ 8 * 2 ^ 24 + a.kvhead % 2 ^ 4 * 2 ^ 32

/-- The command of an append that has ended: it ends with its last append; a failed one makes it FAIL with FLT_KV_APPEND.
[10_attention_kv.md R257, R261, R264] -/
def appendCmdEnd (s : State) (p : Nat) (a : Append) : State :=
  let s := onCmd s p a.unit a.cmd fun c => { c with
    apps := c.apps.filter fun x => x ≠ a.id
    faulted := c.faulted || (a.bad && !c.stopped) }
  let stopped := ((cmdBy (tileOf s p) a.unit a.cmd).map fun c => c.stopped).getD false
  let s :=
    if a.bad && !stopped then
      match cmdBy (tileOf s p) a.unit a.cmd with
      | some c => raiseFault s p 0x4C 4 (cmdRef c) (kvInfo a)
      | none => s
    else s
  match cmdBy (tileOf s p) a.unit a.cmd with
  | none => s
  | some c =>
    if !c.apps.isEmpty then s
    else if c.faulted then
      onTile (onCmd s p a.unit a.cmd fun y => { y with phase := .done, ok := false }) p fun t => stampNext t a.unit
    else if c.stopped then updQuiet (dmaStopDone s p c) p
    else finishCmd s p a.unit a.cmd true

/-- An append whose head record or descriptor is found tagged at its end fails with cause 6. [10_attention_kv.md R254, R261] -/
def appendTagged (s : State) (p : Nat) (a : Append) : State × Append :=
  (if a.unit = .dma then partFail s p a.cmd 0 7 else s, { a with bad := true, cause := 6 })

/-- The outcome of an append: its tails advance where every write was good. [10_attention_kv.md R254, R261] -/
def settleAppend (s : State) (p : Nat) (a : Append) : State × Append :=
  if a.bad then (s, a)
  else
    let z := advanceTails s a
    if z.2 then (z.1, a) else appendTagged z.1 p a

/-- APPEND_DONE: every write has been answered. [10_attention_kv.md R261] -/
def appendEnd (s : State) (p id : Nat) : State :=
  match appendBy s p id with
  | none => s
  | some a =>
    if a.res.isSome && a.pend.isEmpty then
      let z := settleAppend s p a
      let a := z.2
      let s := bump z.1 (if a.bad then TOPAZ_APPEND_FAIL_COUNT else TOPAZ_APPEND_COUNT)
      let s := { s with topaz := { s.topaz with flight := s.topaz.flight.filter fun x => x.2.2.2.2.2 ≠ id } }
      let s := onTile s p fun t => { t with appends := t.appends.filter fun x => x.id ≠ id }
      updQuiet (appendCmdEnd s p a) p
    else s

/-! ### The commands -/

/-- OPEN. [10_attention_kv.md R253] -/
def execTopazOpen (s : State) : Host.Outcome State Fault Refusal := .next (topazRow s 1 openCmd)

/-- CLOSE. [10_attention_kv.md R253] -/
def execTopazClose (s : State) : Host.Outcome State Fault Refusal := .next (topazRow s 2 closeCmd)

/-- READ. [10_attention_kv.md R253] -/
def execTopazRead (s : State) : Host.Outcome State Fault Refusal := .next (topazRow s 3 readCmd)

/-- TRUNCATE. [10_attention_kv.md R253] -/
def execTopazTruncate (s : State) : Host.Outcome State Fault Refusal := .next (topazRow s 4 truncateCmd)

/-- TOPAZ_POOL_PUSH. [10_attention_kv.md R255] -/
def execTopazPoolPush (t : Fin 288) (v : BitVec 64) (s : State) : Host.Outcome State Fault Refusal :=
  .next (poolPush s t (bitsOf v.toNat 16 32))

/-- APPEND_RESOLVE. [10_attention_kv.md R260] -/
def execAppendResolve (p : Fin 288) (a : Nat) (s : State) : Host.Outcome State Fault Refusal :=
  .next (whenRuns s p fun s => resolveStep s p a)

/-- APPEND_DONE. [10_attention_kv.md R261] -/
def execAppendDone (p : Fin 288) (a : Nat) (s : State) : Host.Outcome State Fault Refusal :=
  .next (whenRuns s p fun s => appendEnd s p a)

end Sys2Proof.Machine
end

