-- ==== Sys2Proof/Machine/Bar2.lean ====
section
/-! DEFINITION. Host accesses to device memory, through BAR2 and by HOST_COPY: served in the order of their receipt, in the vaults and
in the customer window (18_host_firmware.md R435, R442; 09_jasper.md R228; 12_regulation.md R308; 11_fabric.md R295;
08_ecc_repair.md Table 8.4). -/

namespace Sys2Proof.Machine

/-- The class of host accesses. [18_host_firmware.md R435] -/
def hostClass (s : State) : Nat := fget s FAB_QOS_CTRL__HOST_CLASS

/-- The completions of a read of bytes at an address: each ends at a multiple of `size`, the Max_Payload_Size in force, or with the last
byte, and has EP set when it carries a tagged sector; `k` bounds their number. [08_ecc_repair.md Table 8.4; 18_host_firmware.md Table 18.1] -/
def completionsOf (size : Nat) : Nat → Nat → List Byte → List Bool → List (List Byte × Bool × Bool)
  | 0, _, _, _ => []
  | k + 1, va, bytes, marks =>
    if bytes.isEmpty then []
    else
      let n := size - va % size
      (bytes.take n, (marks.take n).any fun m => m, false) :: completionsOf size k (va + n) (bytes.drop n) (marks.drop n)

/-- An error is reported through AER. [18_host_firmware.md Table 18.1] -/
def aerNote (s : State) (e : AerErr) : State := { s with host := { s.host with aer := s.host.aer ++ [e] } }

/-- One completion leaves; one with EP is counted and reported, and Completer Abort is reported. [08_ecc_repair.md Table 8.4;
18_host_firmware.md R435] -/
def completeOne (s : State) (x : List Byte × Bool × Bool) : State :=
  let s := if x.2.1 then aerNote (bump s PCIE_BAR2_POISON_COUNT) .poisonedSent else s
  let s := if x.2.2 then aerNote s .completerAbort else s
  { s with host := { s.host with bar2Out := s.host.bar2Out ++ [x] } }

/-- Max_Payload_Size in bytes. [18_host_firmware.md Table 18.1] -/
def payloadBytes (s : State) : Nat := 128 * 2 ^ s.host.pci.maxPayload.val

/-- The completions of a BAR2 read leave. [18_host_firmware.md R435; 08_ecc_repair.md Table 8.4] -/
def bar2Answer (s : State) (va : Nat) (bytes : List Byte) (marks : List Bool) : State :=
  forS (completionsOf (payloadBytes s) 40 va bytes marks) (fun x st => completeOne st x) s

/-- A BAR2 read is completed with Completer Abort. [18_host_firmware.md R435] -/
def bar2Abort (s : State) : State := completeOne s ([], false, true)

/-! ### The accesses that wait -/

/-- `s` with the oldest access changed by `f`. -/
def onBar2 (s : State) (f : Bar2Acc → Bar2Acc) : State :=
  { s with host := { s.host with bar2 := match s.host.bar2 with
    | x :: xs => f x :: xs
    | [] => [] } }

/-- The oldest access has ended. -/
def bar2Pop (s : State) : State := { s with host := { s.host with bar2 := s.host.bar2.drop 1 } }

/-- Data of a host command goes to host memory. [18_host_firmware.md R442] -/
def hostOut (s : State) (hpa : Nat) (bytes : List Byte) : State :=
  if bytes.isEmpty then s else { s with host := { s.host with out := s.host.out ++ [(hpa, bytes)] } }

/-- A HOST_COPY ends: what was read goes to the host, and RESULT is the bytes moved; without the host link none of it goes.
`cause` is 0, or 6 where device memory failed. [18_host_firmware.md R436, R442, Table 18.7] -/
def hostCopyEnd (s : State) (a : Bar2Acc) (x : CopyRef) (cause : Nat) : State :=
  let cut := !a.write && !hostReady s
  let s := if a.write || cut then s else hostOut s x.hpa a.bytes
  let moved := if a.write then a.n - a.data.length else if cut then 0 else a.bytes.length
  let cause := if cut then 7 else if cause = 0 then x.bus else cause
  match s.host.cmds.find? fun c => c.ring = x.ring && c.cid = x.cid with
  | some c => endCmd s c (if cause = 0 then 0 else 4) cause moved
  | none => s

/-- The oldest access met NOEP: a read completes with Completer Abort, a write is discarded and counted; a copy fails.
[18_host_firmware.md R435, R442] -/
def bar2Fail (s : State) (a : Bar2Acc) : State :=
  match a.copy with
  | some x => hostCopyEnd (bar2Pop s) a x 6
  | none => if a.write then bump (bar2Pop s) PCIE_BAR2_DROP_COUNT else bar2Abort (bar2Pop s)

/-- The oldest access has been served to its end. [18_host_firmware.md R435, R442] -/
def bar2Done (s : State) (a : Bar2Acc) : State :=
  match a.copy with
  | some x => hostCopyEnd (bar2Pop s) a x (if a.ep then 6 else 0)
  | none => if a.write then bar2Pop s else bar2Answer (bar2Pop s) a.va a.bytes a.marks

/-! ### The customer window (R295) -/

/-- A request of the hub to endpoint 16 for a window, or its refusal before it leaves. [11_fabric.md R282, R295] -/
def bar2Send (s : State) (a : Bar2Acc) (write : Bool) (va mask : Nat) (secs : List Sector) : State :=
  let f := fresh s
  let cause := sendCause f.1 .cust [16]
  if cause ≠ 0 then bar2Fail (countNoep f.1) a
  else
    let s := onBar2 f.1 fun x => { x with wait := some (f.2, write) }
    pushMsg s { blankMsg f.2 (if write then .vwr else .vrd) 0 .hub .cust (hostClass s) none f.2 with
      va := va
      mask := mask
      sectors := secs
      route := [16] }

/-- A piece begins or ends inside a sector. [18_host_firmware.md R435] -/
def partPiece (va n : Nat) : Bool := decide (va % 32 ≠ 0) || decide ((va + n) % 32 ≠ 0)

/-- The next piece of the oldest access goes to the customer window: its sectors are read, or, where they are covered whole, written.
[18_host_firmware.md R435] -/
def custPiece (s : State) (a : Bar2Acc) (va n : Nat) : State :=
  let w := va / 2048 * 2048
  let o := va % 2048
  let m := byteMask o n
  if !a.write || partPiece va n then bar2Send s a false w m []
  else
    let blank := (maskSectors m).map fun i => (⟨i, List.replicate 32 0, 0⟩ : Sector)
    bar2Send s a true w m (mergeSectors blank o (a.data.take n) 0)

/-- The piece of the oldest access is done. -/
def bar2Next (s : State) (n : Nat) (bytes : List Byte) (marks : List Bool) : State :=
  onBar2 s fun x => { x with
    wait := none
    held := false
    pieces := x.pieces.drop 1
    data := x.data.drop n
    bytes := x.bytes ++ bytes
    ep := x.ep || marks.any fun m => m
    marks := x.marks ++ marks }

/-! ### The vaults -/

/-- The window of a vault that an address names. [10_attention_kv.md R239] -/
def pieceWin (s : State) (va : Nat) (write : Bool) : Option (Nat × Nat × Nat) :=
  match (hubTranslate s va write).2 with
  | .vault p c off => some (p, c, off / 2048)
  | _ => none

/-- The next piece of an access reads a window under a Jasper lock: a read, or a write of part of a sector. A write of whole sectors
is held by the controller. [09_jasper.md R228; 18_host_firmware.md R435] -/
def heldPiece (s : State) (a : Bar2Acc) (x : Nat × Nat) : Bool :=
  (!a.write || partPiece x.1 x.2) && (pieceWin s x.1 a.write).any fun y => winLocked s y.1 y.2.1 y.2.2

/-- A held burst is counted once. [09_jasper.md Table 9.10] -/
def countHeld (s : State) (a : Bar2Acc) (x : Nat × Nat) : State :=
  if heldPiece s a x && !a.held then
    match pieceWin s x.1 a.write with
    | some y => bump (onBar2 s fun z => { z with held := true }) REGION_JASPER_HOLD_COUNT (y.1 / 18)
    | none => s
  else s

/-- The next piece of an access waits: for a lock, or for the hub's regulator. [09_jasper.md R228; 12_regulation.md R308] -/
def pieceWaits (s : State) (a : Bar2Acc) (x : Nat × Nat) : Bool :=
  !vaCust x.1 && (heldPiece s a x || hubWaits s (hostClass s) x.1 x.2 a.write)

/-- The sectors of a copy's piece, up to the first that is tagged: the bytes, and whether the copy stops there.
[18_host_firmware.md R442] -/
def copyRead (s : State) (va n : Nat) : State × List Byte × Bool :=
  let a := hubTranslate s va false
  match a.2 with
  | .vault p c off =>
    let cause := hubCause a.1 p c
    if cause ≠ 0 then (hubNoep a.1 p (hostClass a.1) cause 1, [], true)
    else
      let y := hubReadAt a.1 p c (hostClass a.1) (off / 2048) (byteMask (off % 2048) n)
      let ok := y.2.takeWhile fun z => z.tag = 0
      (y.1, ok.flatMap fun z => z.data, decide (ok.length < y.2.length))
  | _ => (countNoep a.1, [], true)

/-- The next piece of the oldest access is made in its vault. [18_host_firmware.md R435, R442] -/
def vaultPiece (s : State) (a : Bar2Acc) (va n : Nat) : State :=
  if a.write then
    let w := hubWritePiece s va (a.data.take n) 0 (hostClass s)
    if w.2 ≠ 0 then bar2Fail w.1 a else bar2Next w.1 n [] []
  else if a.copy.isSome then
    let r := copyRead s va n
    let s := bar2Next r.1 n r.2.1 []
    if r.2.2 then onBar2 s fun y => { y with pieces := [], ep := true } else s
  else
    let r := hubReadPiece s (hostClass s) va n
    if r.2.cause ≠ 0 then bar2Fail r.1 a else bar2Next r.1 n r.2.bytes r.2.marks

/-! ### Service in order -/

/-- The next piece of the oldest access. [18_host_firmware.md R435] -/
def bar2Piece (s : State) (a : Bar2Acc) (x : Nat × Nat) : State :=
  if vaCust x.1 then custPiece s a x.1 x.2 else vaultPiece s a x.1 x.2

/-- The accesses are served one after the other, so that a read sees every earlier write; `k` bounds the steps taken here. An access
whose piece waits stays in front of the later ones; one that waits for a link that is DOWN has failed. [18_host_firmware.md R435;
11_fabric.md R282; 09_jasper.md R228; 12_regulation.md R308] -/
def bar2Serve : Nat → State → State
  | 0, s => s
  | k + 1, s =>
    match s.host.bar2 with
    | [] => s
    | a :: _ =>
      if a.wait.isSome then if linkDown s 16 then bar2Serve k (bar2Fail s a) else s
      else match a.pieces with
        | [] => bar2Serve k (bar2Done s a)
        | x :: _ => if pieceWaits s a x then countHeld s a x else bar2Serve k (bar2Piece s a x)

/-- Steps that serving can take at once: each piece of an access, and its end. -/
def bar2Fuel (s : State) : Nat := sumNat (s.host.bar2.map fun a => a.pieces.length + 2) + 2

/-- Serving goes on. -/
def bar2Go (s : State) : State := bar2Serve (bar2Fuel s) s

/-- Read data for the oldest access: delivered, or merged with the bytes of a write that covers its sectors in part; a copy
stops at the first tagged sector. [18_host_firmware.md R435, R442] -/
def bar2Data (s : State) (a : Bar2Acc) (secs : List Sector) : State :=
  match a.pieces with
  | [] => s
  | x :: _ =>
    let o := x.1 % 2048
    if a.write then
      bar2Send s a true (x.1 / 2048 * 2048) (byteMask o x.2) (mergeSectors secs o (a.data.take x.2) 0)
    else
      let ok := if a.copy.isSome then secs.takeWhile fun z => z.tag = 0 else secs
      let part := fun {α : Type} (f : Sector → List α) => ((ok.flatMap f).drop (o % 32)).take x.2
      let s := bar2Next s x.2 (part fun z => z.data) (part fun z => z.data.map fun _ => decide (z.tag ≠ 0))
      if a.copy.isSome && decide (firstTag secs ≠ 0) then onBar2 s fun y => { y with pieces := [], ep := true } else s

/-- The piece under way, when response `id` answers the request of the oldest access. -/
def bar2Waits (s : State) (id : Nat) (write : Bool) : Option Bar2Acc :=
  match s.host.bar2 with
  | a :: _ => if a.wait == some (id, write) then some a else none
  | [] => none

/-- RDATA at the hub. [11_fabric.md R295] -/
def hubData (s : State) (id : Nat) (secs : List Sector) : State :=
  match bar2Waits s id false with
  | some a => bar2Go (bar2Data s a secs)
  | none => s

/-- WACK at the hub. [11_fabric.md R295] -/
def hubAck (s : State) (id : Nat) : State :=
  match bar2Waits s id true with
  | some a => bar2Go (bar2Next s (a.pieces.headD (0, 0)).2 [] [])
  | none => s

/-- NOEP at the hub. [11_fabric.md R282; 18_host_firmware.md R435] -/
def hubRefused (s : State) (id : Nat) : State :=
  match bar2Waits s id false with
  | some a => bar2Go (bar2Fail s a)
  | none =>
    match bar2Waits s id true with
    | some a => bar2Go (bar2Fail s a)
    | none => s

/-- An access is received behind those that wait. [18_host_firmware.md R435, R442; 11_fabric.md R295] -/
def bar2Receive (s : State) (va n : Nat) (write : Bool) (data : List Byte) (copy : Option CopyRef) : State :=
  let a : Bar2Acc := ⟨n, write, data, vaPieces (n / 2048 + 2) va n, none, [], false, va, [], copy, false⟩
  bar2Go { s with host := { s.host with bar2 := s.host.bar2 ++ [a] } }

/-! ### The loss of the link (R436) -/

/-- The device-to-host copies in progress fail, for they need the link. [18_host_firmware.md R436] -/
def failCopies (s : State) : State :=
  let out := s.host.bar2.filter fun a => a.copy.isSome && !a.write
  forS out (fun a st => a.copy.elim st fun x => hostCopyEnd st a x 7)
    { s with host := { s.host with bar2 := s.host.bar2.filter fun a => !(a.copy.isSome && !a.write) } }

/-- The link has gone, or Bus Master Enable is cleared; BAR2 reads that a lost link leaves without an answer are dropped (PRESUMED, PCI
Express, log 54). [18_host_firmware.md R436] -/
def linkDownStep (bmeOnly : Bool) (s : State) : State :=
  let s := failCopies { s with host := { s.host with linkUp := s.host.linkUp && bmeOnly, bme := false } }
  if bmeOnly then s else { s with host := { s.host with bar2 := s.host.bar2.filter fun a => a.write || a.copy.isSome } }

/-! ### BAR2 accesses (R435) -/

/-- The device virtual address of a BAR2 offset. [18_host_firmware.md R435] -/
def bar2Va (s : State) (o : Nat) : Nat := fget s PCIE_BAR2_BASE__VA * 2 ^ 36 + o

/-- The BARs are decoded: the link is up, Memory Space Enable is set, and the function is in D0. [18_host_firmware.md R434,
Table 18.1] -/
def barsOpen (s : State) : Bool := s.host.linkUp && s.host.pci.memEnable && !s.host.pci.d3hot

/-- A read of `n` bytes through BAR2. [18_host_firmware.md R434, R435] -/
def bar2ReadStep (s : State) (o n : Nat) : State :=
  if !barsOpen s then s else bar2Receive s (bar2Va s o) n false [] none

/-- A memory request crosses no 4 KiB boundary. (PRESUMED, PCI Express, log 54) -/
def inPage (o n : Nat) : Bool := decide (o % 4096 + n ≤ 4096)

/-- BAR2_READ. [18_host_firmware.md R435] -/
def execBar2Read (o : BitVec 36) (n : Fin 4097) (s : State) : Host.Outcome State Fault Refusal :=
  if inPage o.toNat n then .next (bar2ReadStep s o.toNat n) else .refused .illFormed

/-- A write through BAR2; a poisoned one is discarded. [18_host_firmware.md R434, R435; 08_ecc_repair.md Table 8.4] -/
def bar2WriteStep (s : State) (o : Nat) (data : List Byte) (ep : Bool) : State :=
  if !barsOpen s then s
  else if ep then aerNote (bump s PCIE_BAR2_POISON_COUNT) .poisonedReceived
  else bar2Receive s (bar2Va s o) data.length true data none

/-- BAR2_WRITE. [18_host_firmware.md R435] -/
def execBar2Write (o : BitVec 36) (data : List Byte) (ep : Bool) (s : State) : Host.Outcome State Fault Refusal :=
  if inPage o.toNat data.length && decide (data.length ≤ 512) then .next (bar2WriteStep s o.toNat data ep)
  else .refused .illFormed

end Sys2Proof.Machine
end

