-- ==== Sys2Proof/Machine/Messages.lean ====
section
/-! DEFINITION. What the units do with a message that has arrived: reads and writes at a vault (R274), responses, Spinel
writes and their tree (R285), the stall of a receiver (R286), the customer die's requests (R295) and management messages
(R274); the held external write (R110) and the fetch of descriptors (R96). -/

namespace Sys2Proof.Machine

/-! ### Requests at a vault -/

/-- A request at the vault of tile `q`: refused with its cause, or accepted by the channel; a write is answered at acceptance.
[07_vaults.md R170, R175, R184, R185; 11_fabric.md R274, R282] -/
def vaultRequest (s : State) (m : Msg) (q : Nat) (write : Bool) : State :=
  let s := takeMsg s m
  let cause := vaultCause s q m.chan
  if cause ≠ 0 then respondNoep s m cause
  else
    let f := fresh s
    let b : Burst := ⟨f.2, write, 2, m.cls, m.win, m.mask, if write then m.sectors else [], if write then .none else .remote m,
      m.deadline, false, 0, 0, 0, false, false⟩
    let s := acceptBurst f.1 q m.chan b
    if write then respond s m .wack [] else s

/-- RD. [11_fabric.md R274] -/
def execMsgRd (n : Nat) (s : State) : Host.Outcome State Fault Refusal :=
  .next (match arrived s n .rd with
    | some m => (match m.dst with
      | .tile q => vaultRequest s m q false
      | _ => s)
    | none => s)

/-- WR. [11_fabric.md R274] -/
def execMsgWr (n : Nat) (s : State) : Host.Outcome State Fault Refusal :=
  .next (match arrived s n .wr with
    | some m => (match m.dst with
      | .tile q => vaultRequest s m q true
      | _ => s)
    | none => s)

/-! ### Responses at a requester -/

/-- WHIPPET_PARITY of the crossing from the fabric into tile `p`: FCLK writes, ACLK reads. [18_host_firmware.md Table 18.15] -/
def whippetPayload (p : Nat) : Nat := p + p / 72 * 2 ^ 13 + 1 * 2 ^ 16

/-- `n` words of a crossing into tile `p` have failed parity. [11_fabric.md R291] -/
def whippetFail (s : State) (p n : Nat) : State :=
  if n = 0 then s else postEvent (bumpN s FAB_WHIPPET_PARITY_COUNT n) evtWhippetParity (whippetPayload p)

/-- Read data reaches tile `p`: a failing header word discards the message, and the sectors of failing data words take tag P.
[11_fabric.md R291] -/
def rdataAt (s : State) (p : Nat) (m : Msg) (hdr : Bool) (bad : Nat) : State :=
  let s := takeMsg s m
  if !tileUp s p then s
  else if hdr then whippetFail s p 1
  else
    let s := whippetFail s p (m.sectors.filter fun x => bitOf bad x.s).length
    let secs := m.sectors.map fun x => if bitOf bad x.s then { x with tag := 1 } else x
    match pendCmd (tileOf s p) m.txn with
    | some c => dmaData s p c.1 m.txn secs
    | none => s

/-- `n` words of a crossing into the hub have failed parity: FCLK writes, HCLK reads. [11_fabric.md R291; 18_host_firmware.md
Table 18.15] -/
def whippetHub (s : State) (n : Nat) : State :=
  if n = 0 then s
  else postEvent (bumpN s FAB_WHIPPET_PARITY_COUNT n) evtWhippetParity (0x1FF + 4 * 2 ^ 13 + 1 * 2 ^ 16 + 3 * 2 ^ 19)

/-- Read data reaches the hub. [11_fabric.md R291, R295] -/
def rdataHub (s : State) (m : Msg) (hdr : Bool) (bad : Nat) : State :=
  let s := takeMsg s m
  if hdr then whippetHub s 1
  else
    let s := whippetHub s (m.sectors.filter fun x => bitOf bad x.s).length
    hubData s m.txn (m.sectors.map fun x => if bitOf bad x.s then { x with tag := 1 } else x)

/-- RDATA. [11_fabric.md R274, R291] -/
def execMsgRdata (n : Nat) (hdr : Bool) (bad : BitVec 64) (s : State) : Host.Outcome State Fault Refusal :=
  .next (match arrived s n .rdata with
    | some m => (match m.dst with
      | .tile p => rdataAt s p m hdr bad.toNat
      | .hub => rdataHub s m hdr bad.toNat
      | _ => takeMsg s m)
    | none => s)

/-- The append of tile `p` that waits for response `id`. -/
def pendAppend (t : Tile) (id : Nat) : Option (Append × Pend) :=
  t.appends.findSome? fun a => (a.pend.find? fun x => x.id = id).map fun x => (a, x)

/-- A write of tile `p` has been acknowledged. [06_spinel_dma.md R158; 10_attention_kv.md R261] -/
def wackAt (s : State) (p : Nat) (m : Msg) : State :=
  let s := takeMsg s m
  if !tileUp s p then s
  else match pendCmd (tileOf s p) m.txn with
    | some c => dmaEnd (dropPend s p c.1 m.txn) p c.1
    | none =>
      match pendAppend (tileOf s p) m.txn with
      | some a => onAppend s p a.1.id fun y => { y with pend := y.pend.filter fun z => z.id ≠ m.txn }
      | none => s

/-- WACK. [11_fabric.md R274] -/
def execMsgWack (n : Nat) (s : State) : Host.Outcome State Fault Refusal :=
  .next (match arrived s n .wack with
    | some m => (match m.dst with
      | .tile p => wackAt s p m
      | .hub => hubAck (takeMsg s m) m.txn
      | _ => takeMsg s m)
    | none => s)

/-- Request `id` of tile `p` has met no endpoint: its part takes the ERR of the cause. [11_fabric.md R282, Table 11.6] -/
def noepId (s : State) (p id cause : Nat) : State :=
  match pendCmd (tileOf s p) id with
    | some c => pendFailed s p c.1 id c.2 (noepErr cause)
    | none =>
      match pendAppend (tileOf s p) id with
      | some a => appendPendFail s p a.1 a.2 (noepErr cause)
      | none => s

/-- A NOEP reaches tile `p`: for one request, or for several receivers of a multicast. [11_fabric.md R282] -/
def noepAt (s : State) (p : Nat) (m : Msg) : State :=
  let s := takeMsg s m
  if !tileUp s p then s
  else forS (if m.subs.isEmpty then [m.txn] else m.subs.map Prod.snd) (fun id st => noepId st p id m.cause) s

/-- NOEP. [11_fabric.md R282] -/
def execMsgNoep (n : Nat) (s : State) : Host.Outcome State Fault Refusal :=
  .next (match arrived s n .noep with
    | some m => (match m.dst with
      | .tile p => noepAt s p m
      | .hub => hubRefused (takeMsg s m) m.txn
      | _ => takeMsg s m)
    | none => s)

/-! ### Spinel writes -/

/-- A command is no longer pruned at a tile. [11_fabric.md R286] -/
def unprune (s : State) (q key : Nat) : State := onTile s q fun t => { t with pruned := t.pruned.filter fun x => x ≠ key }

/-- The stall timer of tile `q`'s local port: it runs from the moment a multicast write waits there for credit or for its slot,
and is zero while none does. [11_fabric.md R286] -/
def mcWaits (s : State) (q : Nat) : Bool :=
  let l := onyxOut (q / 18) (q % 18) 4
  s.msgs.any fun m => m.vc = 2 && ((m.dst = .tile q && m.waitSince.isSome)
    || (m.route.head? == some l && m.sent = 0 && decide (smGet (linkOf s l).credit 2 0 < flitCount m)))

/-- The timer starts, runs on, or is cleared. [11_fabric.md R286] -/
def noteStall (s : State) (q : Nat) : State :=
  let w := mcWaits s q
  let t := now s
  onTile s q fun x => { x with mcSince := if w then some (x.mcSince.getD t) else none }

/-- Credit returned by the tile restarts the timer. [11_fabric.md R286] -/
def restartStall (s : State) (q : Nat) : State :=
  let w := mcWaits s q
  let t := now s
  onTile s q fun x => { x with mcSince := if w then some t else none }

/-- Tile `q` takes a Spinel write from its port and returns its credit. [11_fabric.md R286] -/
def mcTake (s : State) (q : Nat) (m : Msg) : State :=
  let s := takeMsg s m
  if m.vc = 2 then restartStall s q else s

/-- The copy of a Spinel write that leaves router `r` of region `g` by port `i`. [11_fabric.md R272, R285] -/
def mcCopy (s : State) (g r : Nat) (m : Msg) (i : Nat) : State :=
  let f := fresh s
  let subs := m.subs.filter fun x => mcPort r x.1 = i
  let s := pushMsg f.1 { m with
    id := f.2
    txn := if i = 4 then (subs.map Prod.snd).headD m.txn else m.txn
    dst := if i = 4 then .tile (g * 18 + r) else .region g
    subs := subs
    lmask := sectorsMask (subs.map Prod.fst)
    route := [onyxOut g r i]
    group := some m.id
    go := false
    got := 0
    sent := 0
    stamp := f.2
    late := false
    waitSince := none }
  if i = 4 then noteStall s (g * 18 + r) else s

/-- A translated Spinel write at router `r`: a copy goes out by every port that leads to a receiver, and the copies share its
buffered flits. A receiver pruned from its command gets none. [11_fabric.md R277, R285, R286] -/
def mcSplit (s : State) (g r : Nat) (m : Msg) : State :=
  let q := g * 18 + r
  let cut := (tileOf s q).pruned.contains m.win
  let here := if cut then m.subs.filter fun x => x.1 = r else []
  let s := forS here (fun x st => respondNoep st { m with txn := x.2 } 3) s
  let s := if !here.isEmpty && m.last then unprune s q m.win else s
  let m := { m with subs := if cut then m.subs.filter fun x => x.1 ≠ r else m.subs }
  if m.subs.isEmpty then takeMsg s m
  else
    forS ((List.range 5).filter fun i => m.subs.any fun x => mcPort r x.1 = i) (fun i st => mcCopy st g r m i)
      { s with msgs := s.msgs.filter fun x => x.id ≠ m.id }

/-- Where receiver `k` of a Spinel write lies: none where it is unbound, or where its tile is fenced. A message for a receiver that
was pruned goes as far as its router, which discards it. [01_architecture.md R26; 11_fabric.md R285, R286] -/
def mcReceiver (s : State) (g : Nat) (m : Msg) (k : Nat) : Option Nat :=
  (physOf s (g * 18 + k)).filter fun q => tileOpen s q

/-- An earlier message of a command is still on its way through the tree to tile `q`. [11_fabric.md R285, R286] -/
def inTreeTo (s : State) (q key : Nat) : Bool :=
  s.msgs.any fun x => x.typ = .spw && x.phys && x.win = key && x.subs.any (fun y => y.1 = q % 18)
    && (x.dst = .region (q / 18) || x.dst = .tile q)

/-- Receiver `k` of a Spinel write gets nothing: its part meets NOEP, and the last message ends its pruning, unless earlier ones
are still to reach its router. [11_fabric.md R285, R286] -/
def mcRefuse (s : State) (g : Nat) (m : Msg) (k txn : Nat) : State :=
  let s := match physOf s (g * 18 + k) with
    | some q => if m.last && !inTreeTo s q m.win then unprune s q m.win else s
    | none => s
  respondNoep s { m with txn := txn } 3

/-- A Spinel write reaches its region: LMASK is translated, and it sets out from its root. [11_fabric.md R285] -/
def spwRegion (s : State) (g : Nat) (m : Msg) : State :=
  let ks := (maskTiles m.lmask).zipIdx.map fun x => (x.1, m.txn + x.2, mcReceiver s g m x.1)
  let s := forS (ks.filter fun x => x.2.2.isNone) (fun x st => mcRefuse st g m x.1 x.2.1) s
  mcSplit s g (mcRoot m.src g) { m with phys := true, subs := ks.filterMap fun x => x.2.2.map fun q => (q % 18, x.2.1) }

/-- The sectors of a Spinel write are written; words beyond Spinel are not. [11_fabric.md R285; 06_spinel_dma.md R143] -/
def spwStore (s : State) (q : Nat) (m : Msg) : State :=
  let ws := ((List.range m.sectors.length).map (walkWord m.dstSpa)).filter fun w => w < spWords
  forS (m.sectors.zipIdx) (fun x st =>
    let w := walkWord m.dstSpa x.2
    if w < spWords then spWrite st q w x.1.data x.1.tag else st) (dPort s q 2 (shapeBeats m.dstSpa ws))

/-- A Spinel write without a slot, or to a slot that may take it, is written and acknowledged. [04_tile_commands.md R110;
11_fabric.md R285] -/
def spwWrite (s : State) (q : Nat) (m : Msg) : State :=
  let s := spwStore (mcTake s q m) q m
  let s := match m.dstSlot with
    | none => onTile s q fun t => { t with
        begun := if m.last then t.begun.filter fun x => x ≠ m.win else m.win :: t.begun.filter fun x => x ≠ m.win }
    | some k =>
      if m.last then
        onTile (setSlot s q k 2) q fun t => { t with fills := smDel t.fills k }
      else onTile (setSlot s q k 1) q fun t => { t with fills := smSet t.fills k m.win }
  respond s m .wack []

/-- The slot of an arriving write takes it now: EMPTY, or FILLING with the same command. [04_tile_commands.md R110] -/
def slotTakes (s : State) (q k : Nat) (m : Msg) : Bool :=
  slotState s q k = 0 || (slotState s q k = 1 && smFind (tileOf s q).fills k == some m.win)

/-- The slot is one that writes from outside may fill. [04_tile_commands.md R110; 11_fabric.md Table 11.6] -/
def slotExternal (s : State) (q k : Nat) : Bool := slotValid s q k && fget s TILE_SLOT_CFG__PRODUCER q k = 16

/-- An earlier message of the write's command has been taken: it has begun to fill its slot, or, with no slot, to be written.
[06_spinel_dma.md R160] -/
def writeBegun (s : State) (q : Nat) (m : Msg) : Bool :=
  match m.dstSlot with
  | some k => slotState s q k = 1 && smFind (tileOf s q).fills k == some m.win
  | none => (tileOf s q).begun.contains m.win

/-- A write that has not begun is held by credit while the tile is STOPPING. [06_spinel_dma.md R160] -/
def stopHolds (s : State) (q : Nat) (m : Msg) : Bool := tileState s q = 2 && !writeBegun s q m

/-- A Spinel write at its receiver. [04_tile_commands.md R110; 06_spinel_dma.md R160; 11_fabric.md R282, R285, R286] -/
def spwTile (s : State) (q : Nat) (m : Msg) : State :=
  if !tileOpen s q then respondNoep (mcTake s q m) m 3
  else match m.dstSlot with
    | none => if stopHolds s q m then s else spwWrite s q m
    | some k =>
      if !slotExternal s q k then respondNoep (mcTake s q m) m 3
      else if slotTakes s q k m then (if stopHolds s q m then s else spwWrite s q m)
      else if m.waitSince.isNone then noteStall (onMsg s m.id fun x => { x with waitSince := some (now s) }) q
      else s

/-- SPW. [11_fabric.md R285] -/
def execMsgSpw (n : Nat) (s : State) : Host.Outcome State Fault Refusal :=
  .next (match arrived s n .spw with
    | some m => (match m.dst with
      | .region g => spwRegion s g m
      | .tile q => spwTile s q m
      | _ => s)
    | none => s)

/-- The Spinel writes held at tile `q`, oldest first. [04_tile_commands.md R110] -/
def heldWrites (s : State) (q : Nat) : List Msg :=
  s.msgs.filter fun m => m.dst = .tile q && m.waitSince.isSome && (arrived s m.id .spw).isSome

/-- HELD_WRITE_RELEASE: the oldest held write whose slot takes it now proceeds. [04_tile_commands.md R110] -/
def releaseHeld (s : State) (q : Nat) : State :=
  match (heldWrites s q).find? fun m => match m.dstSlot with
    | some k => slotTakes s q k m
    | none => true with
  | some m => spwTile s q m
  | none => s

/-- HELD_WRITE_RELEASE. [04_tile_commands.md R110] -/
def execHeldWriteRelease (p : Fin 288) (s : State) : Host.Outcome State Fault Refusal :=
  .next (whenUp s p fun s => releaseHeld s p)

/-! ### A stalled receiver -/

/-- The waiting message and those of its command that follow it to the same receiver. [11_fabric.md R286] -/
def stalledMsgs (s : State) (q : Nat) (m : Msg) : List Msg :=
  s.msgs.filter fun x => x.typ = .spw && x.dst = .tile q && x.win = m.win && x.src = m.src && decide (m.id ≤ x.id)

/-- A receiver is pruned from a command: its waiting messages are discarded, each with a NOEP of cause 3 from the region controller.
[11_fabric.md R286] -/
def pruneCmd (s : State) (q : Nat) (m : Msg) : State :=
  let l := stalledMsgs s q m
  let s := forS l (fun x st => respondNoep (takeMsg st x) { x with dst := .region (q / 18) } 3) s
  if l.any fun x => x.last then s else onTile s q fun t => { t with pruned := m.win :: t.pruned }

/-- The sender's logical tile. [11_fabric.md R297] -/
def senderTile (s : State) (m : Msg) : Nat :=
  match m.src with
  | .tile p => logField s p
  | _ => 0

/-- The stall timer of tile `q`'s port has reached STALL_LIMIT. [11_fabric.md R286] -/
def stallDue (s : State) (q : Nat) : Bool :=
  match (tileOf s q).mcSince with
  | some t => decide (t + fget s REGION_MC_CTRL__STALL_LIMIT (q / 18) * 1000 ≤ now s)
  | none => false

/-- The multicast write that waits: one held by its slot, or, where none is held, the oldest at the port that has no credit for it.
[11_fabric.md R286] -/
def stallVictim (s : State) (q : Nat) : Option Msg :=
  let l := onyxOut (q / 18) (q % 18) 4
  let held := (heldWrites s q).filter fun m => m.vc = 2
  if held.isEmpty then s.msgs.find? fun m => m.typ = .spw && m.dst = .tile q && m.vc = 2
    && m.route.head? == some l && m.sent = 0 && decide (smGet (linkOf s l).credit 2 0 < flitCount m)
  else held.find? fun m => match m.dstSlot with
    | some k => !slotTakes s q k m
    | none => false

/-- The stall timer of a receiver's local port reaches STALL_LIMIT. [11_fabric.md R286, R297] -/
def stallStep (s : State) (q : Nat) : State :=
  if !stallDue s q then s
  else match stallVictim s q with
    | none => s
    | some m =>
      let s := bump (pruneCmd s q m) REGION_MC_STALL_COUNT (q / 18)
      restartStall (raiseFault s q 0x4D 4 (noCmdRef s) (senderTile s m)) q

/-- MC_STALL. [11_fabric.md R286] -/
def execMcStall (p : Fin 288) (s : State) : Host.Outcome State Fault Refusal := .next (whenUp s p fun s => stallStep s p)

/-! ### The customer die's requests -/

/-- The address lies in the access window of the customer die. [11_fabric.md R295, Table 11.12] -/
def custAllowed (s : State) (va : Nat) : Bool :=
  fbit s FAB_CUST_CFG__ACC_EN && decide (fget s FAB_CUST_ACC_BASE__VA * 2 ^ 21 ≤ va)
    && decide (va < (fget s FAB_CUST_ACC_LIMIT__VA + 1) * 2 ^ 21)

/-- A request by device virtual address from endpoint 16 at the hub: checked, translated and forwarded. Its flits keep their place in
the input buffer until they have left for the vault. [11_fabric.md R276, R295] -/
def custRequest (s : State) (m : Msg) (write : Bool) : State :=
  if !custAllowed s m.va then respondNoep (takeMsg s m) m 6
  else
    let x := hubTranslate s m.va write
    match x.2 with
    | .vault q c off =>
      let f := fresh x.1
      let r := routeOf f.1 .hub (.tile q)
      let cause := sendCause f.1 (.tile q) r
      if cause ≠ 0 then respondNoep (takeMsg f.1 m) m cause
      else pushMsg { f.1 with msgs := f.1.msgs.filter fun x => x.id ≠ m.id } { blankMsg f.2 (if write then .wr else .rd) 0 .cust (.tile q) m.cls m.deadline m.txn with
        chan := c
        win := off / 2048
        mask := m.mask
        sectors := m.sectors
        gen := some (fget f.1 AGATE_GEN__GEN)
        held := m.held
        route := r }
    | _ => respondNoep (takeMsg x.1 m) m 2

/-- VRD. [11_fabric.md R295] -/
def execMsgVrd (n : Nat) (s : State) : Host.Outcome State Fault Refusal :=
  .next (match arrived s n .vrd with
    | some m => if m.dst = .hub then custRequest s m false else s
    | none => s)

/-- VWR. [11_fabric.md R295] -/
def execMsgVwr (n : Nat) (s : State) : Host.Outcome State Fault Refusal :=
  .next (match arrived s n .vwr with
    | some m => if m.dst = .hub then custRequest s m true else s
    | none => s)

/-! ### Management messages -/

/-- The device ACLK count. [14_determinism.md R353] -/
def aclkCount (s : State) : Nat := (now s - s.start.clk0) * aclkMHz s / 1000

/-- QUEUED follows the reports that wait. [15_fault_tolerance.md Table 15.8] -/
def updQueued (s : State) : State := fset s BH_STATUS__QUEUED s.blood.reports.length

/-- CAPACITY_REDUCED. [15_fault_tolerance.md R383, Table 15.9] -/
def capReduced (s : State) (g slot : Nat) : State :=
  postEvent (bump s BH_CAP_REDUCED_COUNT) evtCapacityReduced (g + slot * 2 ^ 4)

/-- The tile that Agate entries are moved from when a recovery starts again: the standby itself once the banks have been
exchanged, be DRAIN ended or not. [15_fault_tolerance.md R370, R375; 10_attention_kv.md R246] -/
def srcAgain (s : State) (r : Recov) : Nat :=
  if r.swapped || (fget s BH_STATUS__STATE = 3 && agateState s = 4) then r.standby.getD r.src else r.src

/-- A fence report reaches Bloodhound: it queues, up to 16; the loss of the standby under recovery sends the recovery back to
BIND. [15_fault_tolerance.md R370, R375, R376] -/
def takeReport (s : State) (g slot code : Nat) : State :=
  if !fbit s BH_CTRL__RECOVER_EN then s
  else
    let again := match s.blood.recov with
      | some r => r.standby == some (g * 18 + slot)
      | none => false
    if again then
      let s := { s with blood := { s.blood with recov := s.blood.recov.map fun r => { r with
        standby := none
        src := srcAgain s r
        swapped := false } } }
      let s := fset s REGION_FENCE__REBUILDING (setBits (fget s REGION_FENCE__REBUILDING g) slot 1 0) g
      let s := if agateState s = 0 ∨ agateState s = 4 then s else abortRebuild s
      fset s BH_STATUS__STATE 2
    else if s.blood.reports.length < 16 then
      updQueued { s with blood := { s.blood with reports := s.blood.reports ++ [⟨g, slot, code, none⟩] } }
    else capReduced s g slot

/-- A management message at a region controller. [10_attention_kv.md R242, R246; 12_regulation.md R307; 14_determinism.md R353] -/
def mgmtRegion (s : State) (g : Nat) (m : Msg) : State :=
  match m.mg with
  | .invalidate i =>
    sendMgmt (onRegion s g fun r => { r with cache := r.cache.filter fun x => x.idx ≠ i }) (.region g) .hub .invAck
  | .gen v => sendMgmt (onRegion s g fun r => { r with gen := v }) (.region g) .hub .genAck
  | .summary h masks => releaseRegion (onRegion s g fun r => { r with ovf := smSet r.ovf h (now s, masks) }) g
  | .start c => onRegion s g fun r => { r with startS := some (c, aclkCount s) }
  | _ => s

/-- A management message at the hub. [10_attention_kv.md R242, R246; 12_regulation.md R308; 15_fault_tolerance.md R363] -/
def mgmtHub (s : State) (m : Msg) : State :=
  let g := endNo m.src
  match m.mg with
  | .invAck => { s with agate := { s.agate with updWait := setBits s.agate.updWait g 1 0 } }
  | .genAck => { s with agate := { s.agate with genWait := setBits s.agate.genWait g 1 0 } }
  | .report slot code _ => takeReport s g slot code
  | .summary h masks => { s with hubQos := { s.hubQos with ovf := smSet s.hubQos.ovf h (now s, masks) } }
  | _ => s

/-- MGMT. [11_fabric.md R274] -/
def execMsgMgmt (n : Nat) (s : State) : Host.Outcome State Fault Refusal :=
  .next (match arrived s n .mgmt with
    | some m => (match m.dst with
      | .region g => mgmtRegion (takeMsg s m) g m
      | .hub => mgmtHub (takeMsg s m) m
      | _ => takeMsg s m)
    | none => s)

/-! ### Descriptor fetch -/

/-- The entries from HEAD up to TAIL, in ring order. [04_tile_commands.md R95] -/
def validEntries (s : State) (p k : Nat) : List Nat :=
  let n := ringSize s p k
  let h := headIdx s p k
  let c := (fget s TILE_STREAM_TAIL__TAIL p k % n + n - h) % n
  (List.range (min c 64)).map fun i => (h + i) % n

/-- The entries that the next fetch of a stream brings: those of one aligned block of 32 that are valid, not buffered, and
have room. [04_tile_commands.md R96] -/
def fetchWanted (s : State) (p k : Nat) : List Nat :=
  let buf := (streamOf (tileOf s p) k).buf
  let want := (validEntries s p k).filter fun i => !buf.any fun x => x.idx = i
  match want with
  | [] => []
  | i :: _ => (want.filter fun j => j / 32 = i / 32).take (32 - buf.length)

/-- Where a 1 KiB block of a ring lies in the tile's own vault, as (channel, offset); none where its address is refused.
[04_tile_commands.md R94, R96; 07_vaults.md R184, R185] -/
def fetchTarget (s : State) (p k blk : Nat) : State × Option (Nat × Nat) :=
  let x := tileTranslate s (p / 18) (fget s TILE_STREAM_CFG__BASE p k * 1024 + blk * 1024) false
  match x.2 with
  | .vault q c off =>
    if q ≠ p || chanOut x.1 p c || fbit x.1 TILE_VAULT_STATUS__SELF_REFRESH p then (x.1, none) else (x.1, some (c, off))
  | _ => (x.1, none)

/-- The fetched descriptors of a block. DESIGN CHOICE (log 35): a descriptor whose address failed has TAG 0, and a poisoned one
the bits of its sector. [04_tile_commands.md R94, R96] -/
def fetchedOf (blk : Option (List Sector)) (idx : List Nat) : List Fetched :=
  idx.map fun i =>
    match blk with
    | none => ⟨i, 0, .badAddr⟩
    | some l =>
      let x := l.getD (i % 32) ⟨0, [], 0⟩
      ⟨i, leNat x.data, if x.tag = 0 then .clean else .poison⟩

/-- A fetch of the entries `want` of a block enters the read share of its channel with the stream's CLASS.
[04_tile_commands.md R95, R96; 07_vaults.md R175] -/
def fetchSend (s : State) (p k blk c off : Nat) (want : List Nat) : State :=
  let f := fresh s
  let b : Burst := ⟨f.2, false, 0, fget s TILE_STREAM_CFG__CLASS p k, off / 2048, byteMask (off % 2048) 1024, [],
    .fetch k (regionOf s (p / 18)).gen, none, false, 0, 0, 0, false, false⟩
  onStream (acceptBurst f.1 p c b) p k fun x => { x with fetch := some ⟨f.2, blk, want, none⟩ }

/-- The fetch buffer of a stream refills: what has arrived is entered, but for entries that became valid after the request; else the
next block is asked for, and entries at a refused address are entered at once. [04_tile_commands.md R94 to R96] -/
def fetchStep (s : State) (p k : Nat) : State :=
  if tileState s p ≠ 1 ∨ !streamLive s p k then s
  else match (streamOf (tileOf s p) k).fetch with
    | some f =>
      match f.secs with
      | none => s
      | some l => onStream s p k fun x => { x with
          buf := x.buf ++ fetchedOf (some l) ((fetchWanted s p k).filter fun i => i / 32 = f.blk && f.want.contains i)
          fetch := none }
    | none =>
      match fetchWanted s p k with
      | [] => s
      | i :: is =>
        let x := fetchTarget s p k (i / 32)
        match x.2 with
        | none => onStream x.1 p k fun y => { y with buf := y.buf ++ fetchedOf none (i :: is) }
        | some z => fetchSend x.1 p k (i / 32) z.1 z.2 (i :: is)

/-- DESC_FETCH. [04_tile_commands.md R96] -/
def execDescFetch (p : Fin 288) (k : Fin 16) (s : State) : Host.Outcome State Fault Refusal :=
  .next (whenUp s p fun s => fetchStep s p k)

end Sys2Proof.Machine
end

