-- ==== Sys2Proof/Machine/Links.lean ====
section
/-! DEFINITION. The link layer: flits and their CRC (R272 to R275), credits (R276), the choice of an output (R277, R278, R288,
R304), sequence numbers and retry (R279, R280), retraining and loss (R281, R294), and the flits of the customer die (R295). -/

namespace Sys2Proof.Machine

/-! ### Flits -/

/-- TYPE code. [11_fabric.md Table 11.3] -/
def typeCode : MsgType → Nat
  | .rd => 1
  | .wr => 2
  | .rdata => 3
  | .wack => 4
  | .noep => 5
  | .spw => 6
  | .vrd => 7
  | .vwr => 8
  | .mgmt => 9

/-- The end-to-end fields of a flit header. [11_fabric.md R272, Table 11.2] -/
def headBits (m : Msg) (som eom : Bool) : Nat :=
  typeCode m.typ + m.vc % 4 * 2 ^ 4 + flag som * 2 ^ 6 + flag eom * 2 ^ 7 + endNo m.dst * 2 ^ 8 + endNo m.src * 2 ^ 13
    + m.cls % 8 * 2 ^ 18 + flag m.deadline.isSome * 2 ^ 21 + m.deadline.getD 0 % 2 ^ 16 * 2 ^ 22 + m.wire % 2 ^ 12 * 2 ^ 64
    + flag m.car * 2 ^ 76

/-- TAGS. [11_fabric.md Table 11.4] -/
def tagBits (m : Msg) : Nat := sumNat (m.sectors.map fun x => x.tag % 4 * 2 ^ (96 + 2 * x.s))

/-- SLOT, CHANNEL and WINDOW. [11_fabric.md Table 11.4] -/
def placeBits (m : Msg) : Nat :=
  (match m.dst with
    | .tile p => p % 18
    | _ => 0) + m.chan % 8 * 2 ^ 5 + m.win % 2 ^ 18 * 2 ^ 8

/-- The payload of a SOM flit; the contents of a management message have no layout in the manual and read zero here.
[11_fabric.md Table 11.4] -/
def somPayload (m : Msg) : Nat :=
  match m.typ with
  | .rd => placeBits m + m.mask % 2 ^ 64 * 2 ^ 32
  | .wr => placeBits m + m.mask % 2 ^ 64 * 2 ^ 32 + tagBits m
  | .rdata => m.mask % 2 ^ 64 * 2 ^ 32 + tagBits m
  | .wack => 0
  | .noep => m.cause % 16 * 2 ^ 224
  | .spw =>
    tagBits m + m.lmask % 2 ^ 18 * 2 ^ 280 + flag m.phys * 2 ^ 298 + m.dstSpa % 2 ^ 16 * 2 ^ 299
      + m.dstSlot.getD 0 % 64 * 2 ^ 315 + flag m.dstSlot.isSome * 2 ^ 321 + m.sectors.length * 32 % 2 ^ 12 * 2 ^ 322
      + flag m.last * 2 ^ 334
  | .vrd => m.mask % 2 ^ 64 * 2 ^ 32 + m.va % 2 ^ 48 * 2 ^ 232
  | .vwr => m.mask % 2 ^ 64 * 2 ^ 32 + tagBits m + m.va % 2 ^ 48 * 2 ^ 232
  | .mgmt => 0

/-- Flit `k` of a message without its link fields. [11_fabric.md R272, R274] -/
def flitBits (m : Msg) (k : Nat) : Nat :=
  let head := headBits m (k = 0) (k + 1 = flitCount m)
  if k = 0 then head + somPayload m * 2 ^ 128
  else head + leNat (((m.sectors.flatMap fun x => x.data).drop (48 * (k - 1))).take 48) * 2 ^ 128

/-- The CRC of a flit. [11_fabric.md R273] -/
def flitCrc (x : Nat) : Nat := crc32 (leBytes 12 x ++ leBytes 48 (x / 2 ^ 128))

/-- A flit with its CRC in place. [11_fabric.md R273] -/
def sealFlit (x : Nat) : Nat := setBits x 96 32 (flitCrc x)

/-- The CRC of a received flit passes. [11_fabric.md R273] -/
def crcOk (x : Nat) : Bool := bitsOf x 96 32 = flitCrc x

/-! ### Buffers -/

/-- Input buffer of a link's receiver, in flits; the customer die's is the least it must have. [11_fabric.md Table 11.5] -/
def bufSize (l vc : Nat) : Nat :=
  let t := if l < 16 then [512, 1024, 256, 64] else if l = 16 then [64, 128, 0, 8] else if l = 17 then [256, 512, 0, 32]
    else [48, 48, 48, 8]
  t.getD vc 0

/-- Replay buffer of a link's sender. [11_fabric.md R279] -/
def replaySize (l : Nat) : Nat := if l < 18 then 2048 else 64

/-! ### The choice at an output -/

/-- A message put into a list ordered by arrival. -/
def insertMsg (m : Msg) : List Msg → List Msg
  | [] => [m]
  | x :: xs => if m.stamp < x.stamp then m :: x :: xs else x :: insertMsg m xs

/-- Messages in order of arrival at their output. [11_fabric.md R278] -/
def byArrival (l : List Msg) : List Msg := l.foldr insertMsg []

/-- Messages that wait at output `l` on a virtual channel, oldest first; of one pair of units only the oldest.
[11_fabric.md R271] -/
def waitingAt (s : State) (l vc : Nat) : List Msg :=
  let ms := s.msgs.filter fun m => m.route.head? == some l && m.vc = vc && m.sent = 0
  byArrival (ms.filter fun m => !ms.any fun x => x.id < m.id && x.src = m.src && x.dst = m.dst)

/-- The flit a sender would send next: flit `k` of a message, whether it starts it, whether R304 chose its class, and whether that
class was in credit. -/
structure NewFlit where
  m : Msg
  k : Nat
  start : Bool
  chosen : Bool
  credit : Bool
  deriving DecidableEq, Repr

/-- The message of a class that R306 puts first. [12_regulation.md R306] -/
def firstOfClass (ms : List Msg) (c : Nat) : Option Msg :=
  firstServed (fun m : Msg => m.late) (fun m : Msg => m.deadline) (ms.filter fun m => m.cls = c)

/-- The message that the request or the multicast channel of an output starts. [12_regulation.md R303, R304] -/
def startRegulated (k : Link) (vc : Nat) (ms : List Msg) : Option NewFlit :=
  let credit := fun c => match firstOfClass ms c with
    | some m => decide (1280 * flitCount m ≤ smGet k.cr c 0)
    | none => false
  match pickClass (smGet k.rrIn vc 7) (smGet k.rrOut vc 7) (fun c => ms.any fun m => m.cls = c) credit with
  | none => none
  | some c => (firstOfClass ms c.1).map fun m => ⟨m, 0, true, true, c.2⟩

/-- The messages that their router may send on at once, among those of virtual channel 2 waiting at output `l`: every output that
a copy of the message needs is free, has credit for the whole of it, and has it next of its pair of units. A message whose router
has begun comes first. [11_fabric.md R277, R285] -/
def mcMayStart (s : State) (l : Nat) : List Msg :=
  let ms := waitingAt s l 2
  match ms.filter fun m => m.go with
  | m :: _ => [m]
  | [] => ms.filter fun m =>
    (m :: copiesOf s m).all fun x => match x.route.head? with
      | some o => (smFind (linkOf s o).cur 2).isNone && decide (flitCount x ≤ smGet (linkOf s o).credit 2 0)
        && (waitingAt s o 2).any (fun y => y.id = x.id) && !(waitingAt s o 2).any fun y => y.go
      | none => false

/-- The next flit of one virtual channel of an output, of CAR messages only when asked. [11_fabric.md R271, R276, R277, R288] -/
def nextOn (s : State) (l vc : Nat) (carOnly : Bool) : Option NewFlit :=
  let k := linkOf s l
  let cr := smGet k.credit vc 0
  if cr = 0 then none
  else match smFind k.cur vc with
    | some x =>
      match s.msgs.find? fun m => m.id = x.1 with
      | some m => if carOnly && !m.car then none else some ⟨m, x.2, false, false, false⟩
      | none => none
    | none =>
      let ms := (if vc = 2 then mcMayStart s l else waitingAt s l vc).filter fun m => !carOnly || m.car
      if vc = 1 ∨ vc = 3 ∨ carOnly then ms.head?.map fun m => ⟨m, 0, true, false, false⟩
      else startRegulated k vc ms

/-- CAR messages still go ahead in this span of 256 FCLK. [11_fabric.md R288] -/
def carAhead (s : State) (l : Nat) : Bool :=
  18 ≤ l && decide ((linkOf s l).carUsed * 16 < fget s REGION_CAROUSEL_CTRL__CAR_SHARE (onyxRegion l) * 1024)

/-- Multicast and request, alternating by message. [11_fabric.md R278] -/
def alternate (s : State) (l : Nat) : Option NewFlit :=
  let k := linkOf s l
  let a := nextOn s l 0 false
  let b := nextOn s l 2 false
  let pref := if (smFind k.cur 0).isSome then true else if (smFind k.cur 2).isSome then false else k.lastMc
  if pref then a.orElse fun _ => b else b.orElse fun _ => a

/-- The next new flit of an output. [11_fabric.md R278, R279, R288] -/
def nextNew (s : State) (l : Nat) : Option NewFlit :=
  if replaySize l ≤ (linkOf s l).replay.length then none
  else
    (nextOn s l 3 false).orElse fun _ =>
      (nextOn s l 1 false).orElse fun _ =>
        (if carAhead s l then nextOn s l 2 true else none).orElse fun _ => alternate s l

/-! ### Sending -/

/-- A LATE request is counted by the Terrier port, hub switch or router that serves it; the inputs of the routers are outputs of
tiles and of the spine, which have no such counter. [12_regulation.md R306, Table 12.4] -/
def countLate (s : State) (l : Nat) (m : Msg) : State :=
  if !m.late then s
  else if l < 18 then bump s FAB_DL_MISS_COUNT
  else if l < 1458 then bump s REGION_QOS_DL_MISS_COUNT (onyxRegion l)
  else s

/-- The flits that an output has sent of a message, and the choice of its router, are noted; what no copy still needs leaves the
buffer. [11_fabric.md R276, R277, R285] -/
def noteSent (s : State) (m : Msg) (n : Nat) : State :=
  let others := copiesOf s m
  let s := match m.held with
    | some h => leaveBuffer s h m.vc (sentByAll others n - sentByAll others m.sent)
    | none => s
  let s := onMsg s m.id fun y => { y with sent := n }
  if m.group.isSome && !m.go then
    { s with msgs := mapIf (fun y => y.group = m.group) (fun y => { y with go := true }) s.msgs }
  else s

/-- Tile whose local port the output is. [11_fabric.md R283] -/
def portTile (l : Nat) : Option Nat :=
  if 18 ≤ l ∧ l < 1458 ∧ (l - 18) % 5 = 4 then some ((l - 18) / 5) else none

/-- The stall timer of an output that is a local port follows a change of its credit. [11_fabric.md R286] -/
def portStall (s : State) (l : Nat) : State :=
  match portTile l with
  | some q => noteStall s q
  | none => s

/-- A new flit enters the replay buffer: credit, sequence number, class charge (a carousel forward is not charged), and the buffer
it leaves. [11_fabric.md R276, R279; 12_regulation.md R301, R303, R304] -/
def sendNew (s : State) (l : Nat) (x : NewFlit) : State :=
  let m := x.m
  let eom := decide (x.k + 1 = flitCount m)
  let s := if x.start then onMsg (countLate s l m) m.id fun y => { y with late := false } else s
  let s := noteSent s m (x.k + 1)
  let s := if l < 18 then bump s FAB_LINK_FLIT_COUNT (l / 2) else s
  let t := now s
  let s := onLink s l fun k =>
    let f : SentFlit := ⟨k.nextSeq, flitBits m x.k, m.id, eom, m.vc⟩
    let k := { k with
      nextSeq := (k.nextSeq + 1) % 4096
      ackAt := if k.replay.isEmpty then t else k.ackAt
      replay := k.replay ++ [f]
      cursor := k.replay.length + 1
      credit := smSet k.credit m.vc (smGet k.credit m.vc 0 - 1)
      cur := if eom then smDel k.cur m.vc else smSet k.cur m.vc (m.id, x.k + 1)
      carUsed := k.carUsed + flag m.car }
    if x.start ∧ (m.vc = 0 ∨ m.vc = 2) then
      let k := { k with lastMc := decide (m.vc = 2) }
      if !x.chosen then k
      else if x.credit then
        { k with
          cr := if m.car then k.cr else smSet k.cr m.cls (smGet k.cr m.cls 0 - 1280 * flitCount m)
          rrIn := smSet k.rrIn m.vc m.cls }
      else { k with rrOut := smSet k.rrOut m.vc m.cls }
    else k
  if m.vc = 2 then portStall s l else s

/-- The link fields that the sender of link `l` writes: acknowledgement and credit of the other direction. [11_fabric.md R272,
R276, R279] -/
def linkFields (s : State) (l bits seq : Nat) : Nat :=
  let r := linkOf s (revLink l)
  let count := (bufSize (revLink l) r.turn + smGet r.left r.turn 0) % 4096
  let x := bits + seq * 2 ^ 38 + (r.expect + 4095) % 4096 * 2 ^ 50 + flag r.accepted * 2 ^ 62 + flag r.nakDue * 2 ^ 63
    + count * 2 ^ 77 + r.turn % 4 * 2 ^ 89
  sealFlit x

/-- The fields have been sent: the NAK is out, and the next virtual channel's count follows. [11_fabric.md R276, R279] -/
def fieldsSent (s : State) (l : Nat) : State :=
  onLink s (revLink l) fun r => { r with nakDue := false, turn := (r.turn + 1) % 4 }

/-- What a sender puts on its link: the state after it, the flit, and the entry of the replay buffer it comes from.
[11_fabric.md R279, R280] -/
def sendFlit (s : State) (l : Nat) : State × Nat × Option SentFlit :=
  let k := linkOf s l
  let out := fun (s : State) (f : Option SentFlit) =>
    let bits := match f with
      | some x => linkFields s l x.bits x.seq
      | none => linkFields s l 0 0
    (fieldsSent s l, bits, f)
  if k.nakSeen then out s none
  else match k.replay[k.cursor]? with
    | some f => out (onLink s l fun k => { k with cursor := k.cursor + 1 }) (some f)
    | none =>
      match nextNew s l with
      | some x =>
        let s := sendNew s l x
        out s (linkOf s l).replay.getLast?
      | none => out s none

/-- One flit slot passes at an output. [11_fabric.md R288] -/
def tickSpan (s : State) (l : Nat) : State :=
  onLink s l fun k => if 1023 ≤ k.span then { k with span := 0, carUsed := 0 } else { k with span := k.span + 1 }

/-! ### Receiving -/

/-- The flits of a replay buffer up to the one acknowledged leave it. [11_fabric.md R279] -/
def ackFlits (t a : Nat) (k : Link) : Link :=
  let n := k.replay.findIdx fun f => f.seq = a
  if n < k.replay.length then
    { k with replay := k.replay.drop (n + 1), cursor := k.cursor - (n + 1), ackAt := t, replays := 0 }
  else k

/-- Acknowledgement and credit that a flit carries, for the sender of the other direction. [11_fabric.md R276, R279, R280] -/
def takeFields (s : State) (l x : Nat) : State :=
  let t := now s
  let s := onLink s (revLink l) fun k =>
    let k := if bitOf x 62 then ackFlits t (bitsOf x 50 12) k else k
    let k := if bitOf x 63 then { k with nakSeen := true } else k
    let vc := bitsOf x 89 2
    let c := bitsOf x 77 12
    let d := (c + 4096 - smGet k.lastCount vc 0) % 4096
    { k with credit := smSet k.credit vc (smGet k.credit vc 0 + d), lastCount := smSet k.lastCount vc c }
  portStall s (revLink l)

/-- A flit is discarded by the receiver of link `l`. [11_fabric.md R279, Table 11.11] -/
def discardFlit (s : State) (l : Nat) : State :=
  let s := if l < 18 then bump s FAB_LINK_CRC_COUNT (l / 2) else s
  onLink s l fun k => if k.accepted && !k.nakSent then { k with nakDue := true, nakSent := true } else k

/-- A translated Spinel write that is still on its way through its region. [11_fabric.md R285] -/
def inTree (m : Msg) : Bool := m.phys && m.route.isEmpty && match m.dst with
  | .region _ => true
  | _ => false

/-- Slot of the router that Onyx link `l` leads to. [11_fabric.md R283] -/
def landSlot (l : Nat) : Nat := (revLink l - 18) / 5 % 18

/-- A message has crossed a link whole: it is held in the link's input buffer, at its next output. A multicast spreads there.
[11_fabric.md R271, R285] -/
def hopDone (s : State) (l : Nat) (id : Nat) : State :=
  let f := fresh s
  let s := onMsg f.1 id fun m => { m with
    route := m.route.drop 1
    held := some l
    got := 0
    sent := 0
    group := none
    go := false
    stamp := f.2
    late := false }
  match s.msgs.find? fun m => m.id = id with
  | some m => if inTree m then mcSplit s (onyxRegion l) (landSlot l) m else s
  | none => s

/-- A sequenced flit of a message of this block is accepted. [11_fabric.md R276, R279] -/
def acceptFlit (s : State) (l : Nat) (f : SentFlit) : State :=
  let s := onLink s l fun k => { k with
    expect := (k.expect + 1) % 4096
    accepted := true
    nakSent := false
    nakDue := false
    used := smSet k.used f.vc (smGet k.used f.vc 0 + 1) }
  if s.msgs.any fun m => m.id = f.msg then
    let s := onMsg s f.msg fun m => { m with got := m.got + 1 }
    if f.eom then hopDone s l f.msg else s
  else leaveBuffer s l f.vc 1

/-- The receiver's buffer for a virtual channel is full. [11_fabric.md R276, R279] -/
def bufFull (s : State) (l vc : Nat) : Bool := decide (bufSize l vc ≤ smGet (linkOf s l).used vc 0)

/-- A flit with passing CRC, for a virtual channel with room, reaches the receiver of link `l`. [11_fabric.md R279] -/
def takeFlit (s : State) (l x : Nat) (f : SentFlit) : State :=
  if bitsOf x 38 12 = (linkOf s l).expect then acceptFlit s l f else discardFlit s l

/-- A message leaves the device for the customer die: a request waits there for its response. [11_fabric.md R295] -/
def leaveDevice (s : State) (f : SentFlit) : State :=
  if !f.eom then s
  else match s.msgs.find? fun m => m.id = f.msg with
    | none => s
    | some m =>
      if m.typ = .vrd ∨ m.typ = .vwr then onMsg s m.id fun y => { y with route := [], held := none, got := 0, sent := 0 }
      else { s with msgs := s.msgs.filter fun y => y.id ≠ m.id }

/-- A NOEP of the hub or of a region to the source of a request that cannot go on; one whose path is DOWN is lost.
[11_fabric.md R281, R282] -/
def noepTo (s : State) (m : Msg) (cause : Nat) : State :=
  if m.src = .cust then
    let f := fresh (countNoep s)
    if linkDown s 16 then f.1
    else pushMsg f.1 { blankMsg f.2 .noep 1 .hub .cust m.cls none m.txn with wire := m.wire, cause := cause, route := [16] }
  else localNoep s m cause

/-! ### Flits from the customer die -/

/-- The sectors of a message from its flits: mask, tags and data. [11_fabric.md R274, R275] -/
def sectorsFrom (idx : List Nat) (pay : Nat) (rest : List Nat) : List Sector :=
  let bs := rest.flatMap fun x => leBytes 48 (x / 2 ^ 128)
  idx.zipIdx.map fun y =>
    let d := (bs.drop (32 * y.2)).take 32
    ⟨y.1, d ++ List.replicate (32 - d.length) 0, bitsOf pay (96 + 2 * y.1) 2⟩

/-- The class of messages from endpoint 16. [11_fabric.md R295] -/
def custClass (s : State) : Nat := fget s FAB_CUST_CFG__CUST_CLASS

/-- The deadline a flit carries. [11_fabric.md Table 11.2] -/
def flitDeadline (x : Nat) : Option Nat := if bitOf x 21 then some (bitsOf x 22 16) else none

/-- The flits of a message from the customer die leave the hub's input buffer. [11_fabric.md R276] -/
def custLeave (s : State) (x : Nat) (rest : List Nat) : State := leaveBuffer s 17 (bitsOf x 4 2) (rest.length + 1)

/-- A message from endpoint 16 that R295 does not permit. [11_fabric.md R295, Table 11.11] -/
def custProto (s : State) (x : Nat) (rest : List Nat) : State :=
  postEvent (bump (custLeave s x rest) FAB_LINK_PROTO_COUNT 8) evtFabricProtocol 8

/-- A response of the customer die: it answers the oldest request of its endpoint with its TXN. [11_fabric.md R295, R296] -/
def custResponse (s : State) (typ : MsgType) (x : Nat) (rest : List Nat) : State :=
  let pay := x / 2 ^ 128
  let hit := s.msgs.find? fun m =>
    m.dst = .cust && m.route.isEmpty && (m.typ = .vrd || m.typ = .vwr) && m.txn % 4096 = bitsOf x 64 12 && endNo m.src = bitsOf x 8 5
  match hit with
  | none => custProto s x rest
  | some m =>
    let secs := if typ = .rdata then sectorsFrom (maskSectors (bitsOf pay 32 64)) pay rest else []
    if (typ = .noep ∧ bitsOf pay 224 4 ≠ 7) ∨ rest.length + 1 ≠ dataFlits secs.length then custProto s x rest
    else
      let f := fresh { s with msgs := s.msgs.filter fun y => y.id ≠ m.id }
      let r := routeOf f.1 .cust m.src
      if (r.drop 1).any fun l => linkDown f.1 l then custLeave f.1 x rest
      else pushMsg f.1 { blankMsg f.2 typ 1 .cust m.src (custClass s) none m.txn with
        mask := sectorsMask (secs.map fun y => y.s)
        sectors := secs
        cause := bitsOf pay 224 4
        held := some 17
        route := r.drop 1 }

/-- A request of the customer die. [11_fabric.md R295] -/
def custReq (s : State) (typ : MsgType) (x : Nat) (rest : List Nat) : State :=
  let pay := x / 2 ^ 128
  let f := fresh s
  let mask := bitsOf pay 32 64
  let secs := if typ = .vwr then sectorsFrom (maskSectors mask) pay rest else []
  if rest.length + 1 ≠ dataFlits secs.length then custProto s x rest
  else pushMsg f.1 { blankMsg f.2 typ 0 .cust .hub (custClass s) (flitDeadline x) (bitsOf x 64 12) with
    mask := mask
    va := bitsOf pay 232 48
    held := some 17
    sectors := secs }

/-- A Spinel write of the customer die. [11_fabric.md R295] -/
def custSpw (s : State) (x : Nat) (rest : List Nat) : State :=
  let pay := x / 2 ^ 128
  let g := bitsOf x 8 5
  let f := fresh s
  let r := (routeMc f.1 .cust g).drop 1
  let m : Msg :=
    { blankMsg f.2 .spw 0 .cust (.region g) (custClass s) (flitDeadline x) (bitsOf x 64 12) with
      sectors := sectorsFrom (List.range (min 64 (bitsOf pay 322 12 / 32))) pay rest
      lmask := bitsOf pay 280 18
      dstSpa := bitsOf pay 299 16
      dstSlot := if bitOf pay 321 then some (bitsOf pay 315 6) else none
      held := some 17
      last := bitOf pay 334 }
  let cause := sendCause f.1 m.dst r
  if rest.length + 1 ≠ flitCount m then custProto s x rest
  else if cause ≠ 0 then noepTo (custLeave f.1 x rest) m cause
  else pushMsg f.1 { m with route := r }

/-- A whole message of the customer die: its flits stay in the hub's input buffer until they have left by the next output, or are
discarded. A message whose flits are not those of its type is not permitted (log 32). [11_fabric.md R276, R295, Table 11.3] -/
def custMessage (s : State) (x : Nat) (rest : List Nat) : State :=
  let ty := bitsOf x 0 4
  let vc := bitsOf x 4 2
  let dst := bitsOf x 8 5
  if ty = 7 ∧ vc = 0 ∧ dst = 17 then custReq s .vrd x rest
  else if ty = 8 ∧ vc = 0 ∧ dst = 17 then custReq s .vwr x rest
  else if ty = 6 ∧ vc = 0 ∧ dst < 16 ∧ popcount 18 (bitsOf x (128 + 280) 18) = 1 then custSpw s x rest
  else if ty = 3 ∧ vc = 1 then custResponse s .rdata x rest
  else if ty = 4 ∧ vc = 1 then custResponse s .wack x rest
  else if ty = 5 ∧ vc = 1 then custResponse s .noep x rest
  else custProto s x rest

/-- A sequenced flit of the customer die with passing CRC. [11_fabric.md R271, R276, R279] -/
def custFlit (s : State) (x : Nat) : State :=
  let k := linkOf s 17
  let vc := bitsOf x 4 2
  if bitsOf x 38 12 = k.expect then
    let held := smGet k.partial_ vc []
    let old := if bitOf x 6 then [] else held
    let all := old ++ [x]
    let s := leaveBuffer s 17 vc (held.length - old.length)
    let s := onLink s 17 fun k => { k with
      expect := (k.expect + 1) % 4096
      accepted := true
      nakSent := false
      nakDue := false
      used := smSet k.used vc (smGet k.used vc 0 + 1)
      partial_ := if bitOf x 7 then smDel k.partial_ vc else smSet k.partial_ vc all }
    match all with
    | h :: rest => if bitOf x 7 then custMessage s h rest else s
    | [] => s
  else discardFlit s 17

/-- One flit slot of link `l`. On the link from the customer die `x` is the flit it sends; elsewhere `x` is what the line inverts
of the flit that the sender puts on it. [11_fabric.md R272 to R280, R295] -/
def flitStep (s : State) (l x : Nat) : State :=
  if !linkUp s l then s
  else if l = 17 then
    if !crcOk x || (bitsOf x 0 4 ≠ 0 && bufFull s 17 (bitsOf x 4 2)) then discardFlit s 17
    else
      let s := takeFields s 17 x
      if bitsOf x 0 4 = 0 then s else custFlit s x
  else
    let r := sendFlit (tickSpan s l) l
    if l = 16 then
      match r.2.2 with
      | some f => leaveDevice r.1 f
      | none => r.1
    else
      let y := Nat.xor r.2.1 x
      if !crcOk y || r.2.2.any (fun f => bufFull r.1 l f.vc) then discardFlit r.1 l
      else
        let s := takeFields r.1 l y
        match r.2.2 with
        | some f => takeFlit s l y f
        | none => s

/-- FLIT_RECEIVE. [11_fabric.md R279] -/
def execFlitReceive (l : Fin 1794) (x : BitVec 512) (s : State) : Host.Outcome State Fault Refusal :=
  .next (flitStep s l x.toNat)

/-! ### Retry -/

/-- RETRY_LIMIT of a link; an Onyx link has the reset value of the register. [11_fabric.md R281, Table 11.9] -/
def retryLimit (s : State) (l : Nat) : Nat := if l < 18 then fget s FAB_LINK_CTRL__RETRY_LIMIT (l / 2) else 8

/-- RETRY_TIMEOUT of a link in FCLK. [11_fabric.md R280, Table 11.9] -/
def retryTimeout (s : State) (l : Nat) : Nat := if l < 18 then fget s FAB_LINK_CTRL__RETRY_TIMEOUT (l / 2) else 256

/-- The link begins to retrain. [11_fabric.md R281] -/
def beginRetrain (s : State) (l : Nat) : State :=
  if l < 18 then
    let s := bump (fset s FAB_LINK_STATUS__STATE 3 (l / 2)) FAB_LINK_RETRAIN_COUNT (l / 2)
    postEvent s evtFabricRetrain (l / 2)
  else onLink (onLink s l fun k => { k with retrain := true }) (revLink l) fun k => { k with retrain := true }

/-- A replay of every unacknowledged flit begins, or after RETRY_LIMIT of them without progress the link retrains.
[11_fabric.md R280, R281] -/
def beginReplay (s : State) (l : Nat) : State :=
  if retryLimit s l ≤ (linkOf s l).replays then beginRetrain s l
  else
    let t := now s
    let s := onLink s l fun k => { k with cursor := 0, nakSeen := false, replays := k.replays + 1, ackAt := t }
    if l < 18 then bump s FAB_LINK_REPLAY_COUNT (l / 2) else bump s REGION_ONYX_RETRY_COUNT (onyxRegion l)

/-- LINK_REPLAY. [11_fabric.md R280] -/
def execLinkReplay (l : Fin 1794) (s : State) : Host.Outcome State Fault Refusal :=
  .next (if linkUp s l && (linkOf s l).nakSeen then beginReplay s l else s)

/-- RETRY_TIMEOUT. [11_fabric.md R280] -/
def execRetryTimeout (l : Fin 1794) (s : State) : Host.Outcome State Fault Refusal :=
  let k := linkOf s l
  .next (if linkUp s l && !k.replay.isEmpty && decide (2 * k.ackAt + retryTimeout s l ≤ 2 * now s) then beginReplay s l else s)

/-! ### Retraining and loss -/

/-- The link is retraining. [11_fabric.md R281, Table 11.10] -/
def retraining (s : State) (l : Nat) : Bool :=
  if l < 18 then linkState s (l / 2) = 3 else !(linkOf s l).down && (linkOf s l).retrain

/-- A retrain has succeeded: replay resumes in both directions. On the customer site the rate stays at or below the one in force,
and the width and the lanes repaired are those of the new training, free values here (log 7). [11_fabric.md R281, R293, R294] -/
def retrained (s : State) (l rate : Nat) : State :=
  let t := now s
  let again := fun (k : Link) => { k with cursor := 0, nakSeen := false, replays := 0, retrain := false, ackAt := t }
  let s := onLink (onLink s l again) (revLink l) again
  if l < 18 then
    let s := fset s FAB_LINK_STATUS__STATE 2 (l / 2)
    if l / 2 = 8 then
      let s := fset s FAB_LINK_STATUS__RATE (min rate (fget s FAB_LINK_STATUS__RATE 8)) 8
      fset (fset s FAB_LINK_STATUS__HALF (flag (Config.siteHalf t)) 8) FAB_LINK_STATUS__REPAIRED (Config.siteLanes t).toNat 8
    else s
  else s

/-- A message that asks for a response. [11_fabric.md Table 11.3] -/
def isRequest (t : MsgType) : Bool := t = .rd || t = .wr || t = .vrd || t = .vwr || t = .spw

/-- A message that has not entered a link that is gone: a request is answered by NOEP, anything else is lost.
[11_fabric.md R281, R282] -/
def refuseMsg (s : State) (m : Msg) (cause : Nat) : State :=
  let s := takeMsg s m
  match m.typ with
  | .rd | .wr | .vrd | .vwr => noepTo s m cause
  | .spw => noepTo s (if m.phys then m else { m with subs := (maskTiles m.lmask).zipIdx.map fun x => (x.1, m.txn + x.2) }) cause
  | _ => s

/-- The path through the hub that replaces a crossing of a ring bridge. [11_fabric.md R270] -/
def viaHub (l : Nat) : List Nat :=
  let d := (l - 8) / 2
  if l % 2 = 0 then [2 * d + 1, 2 * ((d + 1) % 4)] else [2 * ((d + 1) % 4) + 1, 2 * d]

/-- A message is lost with link `l`. Where that is a hub bridge, whose loss is the loss of a die, a request of the customer die that
is lost with its message or with its response meets NOEP cause 5. [11_fabric.md R281; 15_fault_tolerance.md R379] -/
def loseMsg (s : State) (l : Nat) (m : Msg) : State :=
  let s := takeMsg s m
  if 8 ≤ l then s
  else match m.typ with
    | .rd | .wr | .spw => if m.src = .cust then noepTo s m 5 else s
    | .rdata | .wack | .noep => if m.dst = .cust then noepTo s { m with src := .cust } 5 else s
    | _ => s

/-- One message when a link (both directions `a` and `b`) is DOWN: lost where its first flit has entered the link, whether it has
been acknowledged or not. [11_fabric.md R270, R281] -/
def downMsg (a b : Nat) (ring : Bool) (x : Msg) (s : State) : State :=
  match s.msgs.find? fun m => m.id = x.id with
  | none => s
  | some m =>
    let hit := fun l => l = a || l = b
    match m.route.find? hit with
    | none => if m.dst = .cust ∧ m.route = [] ∧ a / 2 = 8 ∧ a < 18 then { s with msgs := s.msgs.filter fun y => y.id ≠ m.id } else s
    | some l =>
      if m.route.head? = some l ∧ 0 < m.sent then loseMsg s l m
      else
        let via := viaHub l
        if ring && !via.any (fun k => linkDown s k) then
          onMsg s m.id fun y => { y with route := y.route.flatMap fun k => if hit k then via else [k] }
        else if isRequest m.typ then refuseMsg s m 5 else loseMsg s l m

/-- A link is DOWN in both directions: its replay buffers are discarded, its messages lost, refused or sent round; those that had
crossed it go on.
[11_fabric.md R270, R281] -/
def linkGone (s : State) (l : Nat) : State :=
  let r := revLink l
  let s := if l < 18 then fset s FAB_LINK_STATUS__STATE 0 (l / 2) else s
  let s := forS s.msgs (downMsg l r (8 ≤ l && decide (l < 16))) s
  let s := { s with msgs := mapIf (fun m => m.held = some l || m.held = some r) (fun m => { m with held := none }) s.msgs }
  let gone : Link := { Link.reset with down := decide (18 ≤ l) }
  onLink (onLink s l fun _ => gone) r fun _ => gone

/-- Router port of an Onyx link, as (slot, port). [18_host_firmware.md Table 18.15] -/
def onyxPort (l : Nat) : Nat × Nat :=
  let l := if l < 1458 then l else revLink l
  ((l - 18) / 5 % 18, (l - 18) % 5)

/-- The retrain has failed. [11_fabric.md R281] -/
def retrainFailed (s : State) (l : Nat) : State :=
  let s := linkGone s l
  if l < 18 then postEvent s evtFabricLinkDown (l / 2)
  else
    let x := onyxPort l
    postEvent s evtOnyxLinkDown (onyxRegion l + x.1 * 2 ^ 4 + x.2 * 2 ^ 9)

end Sys2Proof.Machine
end

