-- ==== Sys2Proof/Machine/Kelpie.lean ====
section
/-! DEFINITION. Kelpie, the network engine: ports, connection contexts, the WCT sender, the end of work queue entries and
the sending side of collectives (13_network.md R314 to R335). -/

namespace Sys2Proof.Machine

/-! ### Ports -/

/-- Mode in force on the quad of port `n`. [13_network.md R314, Table 13.9] -/
def portMode (s : State) (n : Nat) : Nat := fget s KELPIE_PORT_STATUS__MODE n

/-- Port rate of a mode, in Mb/s. [13_network.md Table 13.1] -/
def modeRate : Nat → Nat
  | 1 => 1600000
  | 2 => 800000
  | 3 => 400000
  | 4 => 800000
  | 5 => 400000
  | 6 => 400000
  | 7 => 100000
  | _ => 0

/-- A quad in a mode has port `n`. [13_network.md R314, Table 13.1] -/
def portExists (mode n : Nat) : Bool :=
  match mode with
  | 0 => false
  | 1 => n % 4 = 0
  | 2 => n % 2 = 0
  | 4 => n % 4 = 0
  | 5 => n % 2 = 0
  | 6 => n % 4 = 0
  | _ => true

/-- Port `n` carries frames: it is UP and its quad and its half are powered. [13_network.md R314, R317; 01_architecture.md Table 1.5] -/
def portUp (s : State) (n : Nat) : Bool :=
  fbit s KELPIE_PORT_STATUS__UP n && domOn s (308 + n / 4) && domOn s (312 + n / 8)

/-- The network engine's state changed by `f`. -/
def onKelpie (s : State) (f : Kelpie → Kelpie) : State := { s with kelpie := f s.kelpie }

/-- Priority `pri` of port `n` is paused. [13_network.md R318] -/
def portPaused (s : State) (n pri : Nat) : Bool := (smFind s.kelpie.pause (n * 8 + pri)).isSome

/-- A frame is sent: lost where the port is DOWN, kept while its priority is paused. [13_network.md R317, R318] -/
def emit (s : State) (n pri : Nat) (o : NetOut) : State :=
  if !portUp s n then s
  else if portPaused s n pri then onKelpie s fun k => { k with held := k.held ++ [(n, pri, o)] }
  else onKelpie s fun k => { k with out := k.out ++ [o] }

/-! ### Contexts (Table 13.4) -/

/-- Context `x`. [13_network.md R321] -/
def ctxOf (s : State) (x : Nat) : Ctx := smGet s.kelpie.ctx x Ctx.reset

/-- `s` with context `x` changed by `f`. -/
def onCtx (s : State) (x : Nat) (f : Ctx → Ctx) : State := onKelpie s fun k => { k with ctx := smSet k.ctx x (f (ctxOf s x)) }

/-- A context with bits [lo, lo + w) set to `v`. -/
def ctxSet (c : Ctx) (lo w v : Nat) : Ctx := { c with bits := setBits c.bits lo w v }

def ctxValid (c : Ctx) : Bool := bitOf c.bits 0
def ctxV6 (c : Ctx) : Bool := bitOf c.bits 1
def ctxRoce (c : Ctx) : Bool := bitOf c.bits 2
def ctxFailed (c : Ctx) : Bool := bitOf c.bits 3
def ctxPort (c : Ctx) : Nat := bitsOf c.bits 4 4
def ctxClass (c : Ctx) : Nat := bitsOf c.bits 8 3
def ctxPcp (c : Ctx) : Nat := bitsOf c.bits 11 3
def ctxNpsn (c : Ctx) : Nat := bitsOf c.bits 416 32
def ctxEpsn (c : Ctx) : Nat := bitsOf c.bits 448 32

/-- Payload bytes of a full packet. [13_network.md Table 13.4] -/
def ctxMtu (c : Ctx) : Nat :=
  let m := 1024 * 2 ^ bitsOf c.bits 20 2
  if ctxRoce c then min m 4096 else m

/-- An IP address of the context, IPv4 in its low 32 bits. [13_network.md Table 13.4] -/
def ctxIp (c : Ctx) (lo : Nat) : Nat := if ctxV6 c then bitsOf c.bits lo 128 else bitsOf c.bits lo 32

/-- The context may send WCT packets. [13_network.md R321, R325] -/
def ctxReady (c : Ctx) : Bool := ctxValid c && !ctxFailed c && !ctxRoce c

/-- MAC address of port `n`. [13_network.md R315, Table 13.9] -/
def portMac (s : State) (n : Nat) : Nat := (fget s KELPIE_CTRL__MAC_BASE * 2 + n) % 2 ^ 48

/-- The headers that a context puts around what it sends, with ECN codepoint ECT(0), before the UDP checksum.
[13_network.md R319, R320, R336] -/
def ctxHdr (s : State) (c : Ctx) (dport : Nat) : NetHdr where
  port := ctxPort c
  smac := portMac s (ctxPort c)
  dmac := bitsOf c.bits 64 48
  vlans := if bitOf c.bits 124 then [(bitsOf c.bits 112 12, ctxPcp c)] else []
  etherType := if ctxV6 c then 0x86DD else 0x0800
  proto := 17
  ttl := 64
  df := !ctxV6 c
  srcIp := ctxIp c 256
  dstIp := ctxIp c 128
  sport := bitsOf c.bits 384 16
  dport := dport
  dscp := bitsOf c.bits 14 6
  ce := false
  csum := 0
  ipOk := true
  fecCorr := 0
  fecBad := 0

/-- Sum of bytes as 16-bit words, the first byte of each the high one. [13_network.md R320] -/
def wordSum : List Byte → Nat
  | a :: b :: l => a.toNat * 256 + b.toNat + wordSum l
  | [a] => a.toNat * 256
  | [] => 0

/-- Sum of the 16-bit words of a number of `n` words. -/
def numSum (n x : Nat) : Nat := (List.range n).foldl (fun a i => a + bitsOf x (16 * i) 16) 0

/-- One's complement of a sum of 16-bit words, 0 sent as all ones. [13_network.md R320] -/
def onesComp (x : Nat) : Nat := 65535 - x % 65535

/-- Sum that the UDP checksum covers: the pseudo-header, the UDP header without its checksum, and `body`. [13_network.md R320] -/
def udpSum (net : NetHdr) (body : List Byte) : Nat :=
  let n := 8 + body.length
  numSum 8 net.srcIp + numSum 8 net.dstIp + n + 17 + net.sport + net.dport + n + wordSum body

/-- The headers around `body` with the UDP checksum that the sender gives: 0 over IPv4, computed over IPv6. [13_network.md R320] -/
def withCsum (net : NetHdr) (body : List Byte) : NetHdr :=
  { net with csum := if net.v6 then onesComp (udpSum net body) else 0 }

/-- The UDP checksum is right, or is 0 and not checked. [13_network.md R320] -/
def csumGood (net : NetHdr) (body : List Byte) : Bool := net.csum = 0 || (udpSum net body + net.csum) % 65535 = 0

/-! ### WCT packets (Table 13.3) -/

/-- What the sender chooses in a WCT header. -/
structure WctH where
  op : Nat
  first : Bool := false
  last : Bool := false
  abort : Bool := false
  ece : Bool := false
  rtrigEn : Bool := false
  psn : Nat
  msn : Nat := 0
  len : Nat := 0
  rtrig : Nat := 0
  hi : Nat := 0

/-- A WCT header to peer context `dctx`. [13_network.md Table 13.3] -/
def wctHdr (dctx : Nat) (h : WctH) : Nat :=
  1 + h.op * 2 ^ 4 + flag h.first * 2 ^ 8 + flag h.last * 2 ^ 9 + flag h.abort * 2 ^ 10 + flag h.ece * 2 ^ 12
    + flag h.rtrigEn * 2 ^ 13 + dctx * 2 ^ 16 + h.psn * 2 ^ 32 + h.msn * 2 ^ 64 + h.len * 2 ^ 96 + h.rtrig * 2 ^ 112
    + h.hi * 2 ^ 128

/-- End-to-end CRC of a WCT packet. [13_network.md R320; 11_fabric.md R273] -/
def wctCrc (hdr : Nat) (payload : List Byte) : Nat := crc32 (leBytes 32 hdr ++ payload)

/-- What follows the UDP header: WCT header, payload and CRC. [13_network.md R320] -/
def wctBody (hdr : Nat) (payload : List Byte) (crc : Nat) : List Byte := leBytes 32 hdr ++ payload ++ leBytes 4 crc

/-- The WCT packet that context `c` sends. [13_network.md R320] -/
def wctPkt (s : State) (c : Ctx) (hdr : Nat) (payload : List Byte) : WctPkt :=
  let crc := wctCrc hdr payload
  ⟨withCsum (ctxHdr s c (fget s KELPIE_CTRL__WCT_PORT)) (wctBody hdr payload crc), hdr, payload, crc⟩

/-- Context `x` sends a WCT packet. [13_network.md R320] -/
def sendWct (s : State) (x hdr : Nat) (payload : List Byte) : State :=
  let c := ctxOf s x
  emit s (ctxPort c) (ctxPcp c) (.wct (wctPkt s c hdr payload))

/-- Peer context of a WCT context. [13_network.md Table 13.4] -/
def ctxPeer (c : Ctx) : Nat := bitsOf c.bits 32 16

/-! ### The sender (R324) -/

/-- Distance from PSN `a` to PSN `b`. [13_network.md R322] -/
def psnDist (a b : Nat) : Nat := (b + 2 ^ 32 - a % 2 ^ 32) % 2 ^ 32

/-- Packets sent and not acknowledged. [13_network.md R324] -/
def outstanding (c : Ctx) : List TxPkt := c.tx.filter fun t => t.sentAt.isSome

/-- The first packet that becomes outstanding sets UNA and starts the timers. [13_network.md R324, R325] -/
def startTimers (s : State) (c : Ctx) (psn : Nat) : Ctx :=
  if (outstanding c).isEmpty then { ctxSet c 480 32 psn with rtoAt := now s, holdAt := now s } else c

/-- A waiting packet of context `x` is sent for the first time. [13_network.md R324, Table 13.4] -/
def sendFirst (s : State) (x : Nat) (t : TxPkt) : State :=
  let c := startTimers s (ctxOf s x) t.psn
  let c := { ctxSet c 416 32 (t.psn + 1) with tx := mapIf (fun y => y.psn = t.psn) (fun y => { y with sentAt := some (now s) }) c.tx }
  sendWct (onCtx s x fun _ => c) x t.hdr t.payload

/-- The device has failed. [15_fault_tolerance.md R379] -/
def devFailed (s : State) : Bool := fbit s BH_STATUS__DEV_FAILED

/-- The context can send at this moment. [13_network.md R317, R318, R325; 15_fault_tolerance.md R379] -/
def canSend (s : State) (c : Ctx) : Bool := ctxReady c && !devFailed s && portUp s (ctxPort c) && !portPaused s (ctxPort c) (ctxPcp c)

/-- Waiting packets of context `x` within the receiver's window of 128 PSNs, in order. [13_network.md R322, R324] -/
def pumpable (c : Ctx) : List TxPkt :=
  match c.tx with
  | [] => []
  | h :: _ => c.tx.filter fun t => t.sentAt.isNone && decide (psnDist h.psn t.psn < 128)

/-- Context `x` sends what it may send. [13_network.md R322, R324] -/
def pumpCtx (s : State) (x : Nat) : State :=
  if canSend s (ctxOf s x) then forS (pumpable (ctxOf s x)) (fun t st => sendFirst st x t) s else s

/-- A packet joins those that context `x` holds, with the next PSN. [13_network.md R324, Table 13.3] -/
def holdPacket (s : State) (x queue idx : Nat) (h : Nat → WctH) (payload : List Byte) : State :=
  let c := ctxOf s x
  let psn := (ctxNpsn c + (c.tx.filter fun t => t.sentAt.isNone).length) % 2 ^ 32
  let w := h psn
  onCtx s x fun c => { c with tx := c.tx ++ [⟨psn, w.msn, wctHdr (ctxPeer c) w, payload, none, false, queue, idx⟩] }

/-- The next MSN of context `x` is taken. [13_network.md Table 13.3] -/
def takeMsn (s : State) (x : Nat) : State × Nat :=
  let m := (ctxOf s x).nextMsn
  (onCtx s x fun c => { c with nextMsn := (m + 1) % 2 ^ 32 }, m)

/-- The message's retransmissions are held. [13_network.md R325] -/
def rnrHeld (c : Ctx) (msn : Nat) : Bool :=
  match c.rnrHold with
  | some h => h.1 = msn
  | none => false

/-- Outstanding packets that `p` selects are sent again, but for those of a held message. [13_network.md R324, R325] -/
def resend (s : State) (x : Nat) (p : TxPkt → Bool) : State :=
  let c := ctxOf s x
  let l := (outstanding c).filter fun t => p t && !rnrHeld c t.msn
  if canSend s c then
    forS l (fun t st =>
      let st := onCtx st x fun c => { c with
        tx := mapIf (fun y => y.psn = t.psn) (fun y => { y with sentAt := some (now s), gap := false }) c.tx }
      sendWct (bump st KELPIE_RETX_COUNT) x t.hdr t.payload) s
  else s

/-- RETX_GAP has passed since a packet that an ACK showed missing was last sent. [13_network.md R324] -/
def gapDue (s : State) (t : TxPkt) : Bool :=
  match t.sentAt with
  | some a => t.gap && decide (a + fget s KELPIE_WCT_TIMERS__RETX_GAP * 1000 ≤ now s)
  | none => false

/-! ### The end of a work queue entry -/

/-- The WQE of a queue and index has ended with a cause. [13_network.md R328, Table 13.6] -/
def endWqe (s : State) (q i cause : Nat) : State :=
  onKelpie s fun k => { k with
    wqes := mapIf (fun w => w.queue = q && w.idx = i && !w.ended) (fun w => { w with ended := true, cause := cause }) k.wqes }

/-! ### Collectives: descriptor and sending (R331 to R335) -/

def clType (c : Coll) : Nat := bitsOf c.desc 0 4
def clFmt (c : Coll) : Nat := bitsOf c.desc 4 3
def clDirect (c : Coll) : Bool := bitOf c.desc 7
def clRank (c : Coll) : Nat := bitsOf c.desc 8 10
def clP (c : Coll) : Nat := bitsOf c.desc 18 11
def clSrc (c : Coll) : Nat := bitsOf c.desc 64 48
def clDst (c : Coll) : Nat := bitsOf c.desc 128 48
def clBytes (c : Coll) : Nat := bitsOf c.desc 192 32

/-- The collective that has started under an identifier. [13_network.md R331] -/
def collOf (s : State) (id : Nat) : Option Coll := s.kelpie.colls.find? fun c => c.id = id

/-- `s` with collective `id` changed by `f`. -/
def onColl (s : State) (id : Nat) (f : Coll → Coll) : State :=
  onKelpie s fun k => { k with colls := mapIf (fun c => c.id = id) f k.colls }

/-- The rank after a rank in ring order. [13_network.md R333] -/
def nextRank (c : Coll) (r : Nat) : Nat := (r + 1) % clP c

/-- Messages go from rank to rank around the ring. An all-to-all sends straight to each rank. [13_network.md R331, R333, R334] -/
def clRing (c : Coll) : Bool := !clDirect c && clType c ≠ 4

/-- Every rank but one's own. -/
def otherRanks (c : Coll) : List Nat := (List.range (clP c)).filter fun r => r ≠ clRank c

/-- Ranks that this rank sends to. [13_network.md R333, R334] -/
def sendRanks (c : Coll) : List Nat := if clRing c then [nextRank c (clRank c)] else otherRanks c

/-- Context to a rank. [13_network.md Table 13.7] -/
def ctxTo (c : Coll) (r : Nat) : Nat := c.ctxs.getD r 0

/-- Bytes on the wire for each byte in memory: BF16 partials travel as FP32. [13_network.md R333] -/
def wireRatio (c : Coll) (phase : Nat) : Nat := if clFmt c = 2 && phase = 0 then 2 else 1

/-- Key of a message of a collective. -/
def msgKey (phase chunk rank : Nat) : Nat := phase * 2 ^ 20 + chunk * 2 ^ 10 + rank

/-- The MSN of a collective's message to a rank, given at its first packet. [13_network.md Table 13.3] -/
def collMsn (s : State) (c : Coll) (key x : Nat) : State × Nat :=
  match (collOf s c.id).bind fun c => smFind c.msns key with
  | some m => (s, m)
  | none =>
    let m := takeMsn s x
    (onColl m.1 c.id fun c => { c with msns := smSet c.msns key m.2 }, m.2)

/-- Bits [255:128] of a COLL header. [13_network.md Table 13.3] -/
def collHi (c : Coll) (phase chunk off : Nat) : Nat := chunk + phase * 2 ^ 10 + off * 2 ^ 12 + c.id * 2 ^ 48

/-- Messages that this rank sends, as (phase, chunk, to rank). [13_network.md R331, R333, R334] -/
def collMsgs (c : Coll) : List (Nat × Nat × Nat) :=
  let own := clRank c
  let next := nextRank c own
  let chunksBut := fun (k : Nat) => (List.range (clP c)).filter fun i => i ≠ k
  let reduce := if clDirect c then (otherRanks c).map fun j => (0, j, j) else (chunksBut own).map fun k => (0, k, next)
  let gather := if clDirect c then (otherRanks c).map fun j => (1, own, j) else (chunksBut next).map fun k => (1, k, next)
  match clType c with
  | 1 => reduce
  | 2 => gather
  | 3 => reduce ++ gather
  | _ => (otherRanks c).map fun j => (2, j, j)

/-- A failing rank ends one of its messages with an empty packet that has LAST and ABORT, and FIRST where the message had not
begun. [13_network.md R324, R335] -/
def sendAbort (s : State) (c : Coll) (y : Nat × Nat × Nat) : State :=
  let x := ctxTo c y.2.2
  if ctxReady (ctxOf s x) then
    let key := msgKey y.1 y.2.1 y.2.2
    let m := collMsn s c key x
    pumpCtx (holdPacket m.1 x c.queue c.idx (fun psn => {
      op := 4
      first := (smFind c.msns key).isNone
      last := true
      abort := true
      psn := psn
      msn := m.2
      hi := collHi c y.1 y.2.1 0 }) []) x
  else s

/-- A collective fails: its WQE ends with the cause and every outgoing message that was not sent whole is abandoned.
[13_network.md R335] -/
def collFail (s : State) (id cause : Nat) : State :=
  match collOf s id with
  | none => s
  | some c =>
    if c.cause ≠ 0 then s
    else
      let s := endWqe (onColl s id fun c => { c with cause := cause }) c.queue c.idx cause
      forS ((collMsgs c).filter fun y => !c.sent.contains (msgKey y.1 y.2.1 y.2.2)) (fun y st => sendAbort st c y) s

/-- Cause of Table 13.6 with which work on a context fails before it starts, 0 for none. [13_network.md Table 13.6] -/
def ctxCause (c : Ctx) : Nat := if !ctxValid c || ctxRoce c then 7 else if ctxFailed c then 3 else 0

/-- Bytes of a chunk from byte `off` (in memory bytes) go to a rank in packets of at most the context's payload. The parts of a
message may come in any order (R322): FIRST is in the first packet sent and LAST in the one that completes the message.
[13_network.md R331, R333, R335, Table 13.3] -/
def sendChunk (s : State) (id phase chunk r off : Nat) (bs : List Byte) : State :=
  match collOf s id with
  | none => s
  | some c =>
    let x := ctxTo c r
    let bad := ctxCause (ctxOf s x)
    if c.cause ≠ 0 then s
    else if bad ≠ 0 then collFail s id bad
    else
      let ratio := wireRatio c phase
      let mtu := ctxMtu (ctxOf s x)
      let key := msgKey phase chunk r
      let m := collMsn s c key x
      let before := smGet c.sentBytes key 0
      let total := clBytes c * ratio
      let parts := if bs.isEmpty then [[]] else chunks mtu (ceilDiv bs.length mtu) bs
      let s := forS parts.zipIdx (fun p st =>
        let o := off + p.2 * mtu / ratio
        holdPacket st x c.queue c.idx (fun psn => {
          op := 4
          first := decide (before + p.2 * mtu = 0)
          last := decide (before + p.2 * mtu + p.1.length = total)
          psn := psn
          msn := m.2
          len := p.1.length
          hi := collHi c phase chunk o }) p.1) m.1
      let s := onColl s id fun c => { c with
        sentBytes := smSet c.sentBytes key (before + bs.length)
        sent := if before + bs.length = total then key :: c.sent else c.sent }
      pumpCtx s x

/-- Messages that the collective must receive. [13_network.md R333] -/
def collNeeds (c : Coll) : Nat := if clType c = 3 then 2 * (clP c - 1) else clP c - 1

/-- Packets of a WQE are still held by some context. [13_network.md R324] -/
def workHeld (s : State) (q i : Nat) : Bool := s.kelpie.ctx.any fun x => x.2.tx.any fun t => t.queue = q && t.idx = i

/-- A collective that has received everything and had everything acknowledged ends. [13_network.md R331] -/
def collCheck (s : State) (id : Nat) : State :=
  match collOf s id with
  | none => s
  | some c =>
    if c.cause = 0 && decide (collNeeds c ≤ c.got.length) && !workHeld s c.queue c.idx then
      endWqe (onKelpie s fun k => { k with colls := k.colls.filter fun y => y.id ≠ id }) c.queue c.idx 0
    else s

/-- Every collective in progress is looked at again. -/
def collCheckAll (s : State) : State := forS (s.kelpie.colls.map fun c => c.id) (fun id st => collCheck st id) s

/-- The collective sends to or receives from context `x`. [13_network.md R331, R333] -/
def collUses (c : Coll) (x : Nat) : Bool :=
  if clRing c then ctxTo c (nextRank c (clRank c)) = x || ctxTo c ((clRank c + clP c - 1) % clP c) = x
  else (otherRanks c).any fun r => ctxTo c r = x

/-- The work of a queue and index fails: a collective as a whole, a WRITE alone. [13_network.md R335, Table 13.6] -/
def failWork (s : State) (q i cause : Nat) : State :=
  match s.kelpie.colls.find? fun c => c.queue = q && c.idx = i && c.cause = 0 with
  | some c => collFail s c.id cause
  | none => endWqe s q i cause

/-- Every WQE pending on context `x` fails. [13_network.md R321, R325] -/
def failPending (s : State) (x cause : Nat) : State :=
  let l := ((ctxOf s x).tx.map fun t => (t.queue, t.idx)).eraseDups
  let ids := (s.kelpie.colls.filter fun c => c.cause = 0 && collUses c x).map fun c => c.id
  let s := onCtx s x fun c => { c with tx := [] }
  let s := forS l (fun y st => failWork st y.1 y.2 cause) s
  forS ids (fun id st => collFail st id cause) s

/-! ### Context commands (R321) -/

/-- Context commands act on contexts 0 to 40,959. [13_network.md R321] -/
def ctxCount : Nat := 40960

/-- RESET of a context. [13_network.md R321] -/
def resetCtx (s : State) (x : Nat) : State :=
  if ctxValid (ctxOf s x) then failPending (onCtx s x fun c => ctxSet c 0 1 0) x 7 else s

/-- Half `h` is powered off: each of its contexts is reset. [13_network.md R321] -/
def halfOff (s : State) (h : Nat) : State :=
  forS ((s.kelpie.ctx.map fun x => x.1).filter fun x => x / 20480 = h) (fun x st => resetCtx st x) s

/-- The staging words. [13_network.md R344] -/
def ctxWords (s : State) : Nat :=
  (List.range 16).foldl (fun a w => a + fget s KELPIE_CTX_WORD__DATA w * 2 ^ (64 * w)) 0

/-- Reserved and read-only fields of a context that LOAD looks at: reserved ones must be zero. [13_network.md Table 13.4] -/
def ctxReserved : List (Nat × Nat) := [(22, 10), (125, 3), (400, 16), (592, 432)]

/-- LOAD is refused. [13_network.md R321] -/
def loadRefused (s : State) (x w : Nat) : Bool :=
  let port := bitsOf w 4 4
  let roces := (s.kelpie.ctx.filter fun y => y.1 ≠ x && ctxValid y.2 && ctxRoce y.2).length
  ctxValid (ctxOf s x) || port / 8 ≠ x / 20480 || portMode s port = 0 || (bitOf w 2 && bitOf w 0 && decide (1024 ≤ roces))
    || ctxReserved.any fun f => bitsOf w f.1 f.2 ≠ 0

/-- A context as LOAD leaves it: every state field clear, RATE at the port rate, RTO at its setting. [13_network.md R321, R324, R327] -/
def loadedCtx (s : State) (w : Nat) : Ctx :=
  let b := setBits (setBits (setBits w 3 1 0) 480 112 0) 512 32 (modeRate (portMode s (bitsOf w 4 4)))
  { Ctx.reset with
    bits := b
    rto := fget s KELPIE_WCT_TIMERS__RTO
    rtoAt := now s
    holdAt := now s
    ccAt := now s
    pausedAt := if portPaused s (bitsOf w 4 4) (bitsOf w 11 3) then some (now s) else none }

/-- A half of Kelpie is on, so that the registers that both halves share answer (log 64). [21_register_index.md R493] -/
def kelpieAny (s : State) : Bool := domOn s 312 || domOn s 313

/-- The half that holds context `x` is on. [21_register_index.md R493] -/
def ctxOn (s : State) (x : Nat) : Bool := domOn s (312 + x / 20480)

/-- A row that is an access to a Kelpie register: without effect while the register does not answer. [01_architecture.md R34] -/
def kelpieDo (s : State) (f : State → State) : State := if kelpieAny s then f s else s

/-- LOAD: INDEX is stored, and a context whose half is off takes no command (log 64). [13_network.md R321; 21_register_index.md R493] -/
def loadCtx (s : State) (x : Nat) : State :=
  let s := fset s KELPIE_CTX_CMD__INDEX x
  let w := ctxWords s
  if !ctxOn s x then s
  else if loadRefused s x w then fset s KELPIE_CTX_CMD__ERR 1 else onCtx s x fun _ => loadedCtx s w

/-- READ. [13_network.md R321] -/
def readCtx (s : State) (x : Nat) : State :=
  let s := fset s KELPIE_CTX_CMD__INDEX x
  let b := (ctxOf s x).bits
  if !ctxOn s x then s else forS (List.range 16) (fun w st => fset st KELPIE_CTX_WORD__DATA (bitsOf b (64 * w) 64) w) s

/-- RESET of a context. [13_network.md R321; 21_register_index.md R493] -/
def ctxResetCmd (s : State) (x : Nat) : State :=
  let s := fset s KELPIE_CTX_CMD__INDEX x
  if ctxOn s x then resetCtx s x else s

/-- KELPIE_CTX_LOAD. [13_network.md R321] -/
def execKelpieCtxLoad (x : Fin 40960) (s : State) : Host.Outcome State Fault Refusal := .next (kelpieDo s fun s => loadCtx s x)

/-- KELPIE_CTX_READ. [13_network.md R321] -/
def execKelpieCtxRead (x : Fin 40960) (s : State) : Host.Outcome State Fault Refusal := .next (kelpieDo s fun s => readCtx s x)

/-- KELPIE_CTX_RESET. [13_network.md R321] -/
def execKelpieCtxReset (x : Fin 40960) (s : State) : Host.Outcome State Fault Refusal :=
  .next (kelpieDo s fun s => ctxResetCmd s x)

end Sys2Proof.Machine
end

