-- ==== Sys2Proof/Machine/KelpieWct.lean ====
section
/-! DEFINITION. The WCT receiver, acknowledgement, the timers of a context, congestion control, the receiving side of
collectives, and work queues (13_network.md R318 to R335). -/

namespace Sys2Proof.Machine

/-! ### The receive buffer and priority flow control (R318) -/

/-- Half `h` sends a pause frame for a priority on each of its ports. [13_network.md R318] -/
def sendPause (s : State) (h pri quanta : Nat) : State :=
  forS (List.range 8) (fun i st =>
    let n := h * 8 + i
    if portUp st n then onKelpie st fun k => { k with out := k.out ++ [.pause n pri quanta] } else st) s

/-- Occupancy of a priority in the receive buffer of a half, in bytes. [13_network.md R318] -/
def rxOccOf (s : State) (h pri : Nat) : Nat := smGet s.kelpie.rxOcc (h * 8 + pri) 0

/-- XOFF is in force for a priority of a half. [13_network.md R318] -/
def xoffOn (s : State) (h pri : Nat) : Bool := s.kelpie.xoff.contains (h * 8 + pri)

/-- A packet of `n` bytes enters the receive buffer. [13_network.md R318] -/
def rxEnter (s : State) (h pri n : Nat) : State :=
  let o := rxOccOf s h pri + n
  let s := onKelpie s fun k => { k with rxOcc := smSet k.rxOcc (h * 8 + pri) o }
  if o > fget s KELPIE_PFC_CTRL__XOFF_KIB * 1024 && !xoffOn s h pri then
    let s1 := onKelpie { s with draws := s.draws + 1 } fun k => { k with xoff := (h * 8 + pri) :: k.xoff }
    sendPause s1 h pri (Config.xoffQuanta s.draws % 65536)
  else s

/-- A packet of `n` bytes leaves the receive buffer. [13_network.md R318] -/
def rxLeave (s : State) (h pri n : Nat) : State :=
  let o := rxOccOf s h pri - n
  let s := onKelpie s fun k => { k with rxOcc := if o = 0 then smDel k.rxOcc (h * 8 + pri) else smSet k.rxOcc (h * 8 + pri) o }
  if o < fget s KELPIE_PFC_CTRL__XON_KIB * 1024 && xoffOn s h pri then
    sendPause (onKelpie s fun k => { k with xoff := k.xoff.filter fun y => y ≠ h * 8 + pri }) h pri 0
  else s

/-- A packet passes through the receive buffer while `f` acts on it. [13_network.md R318] -/
def throughRx (s : State) (port pri n : Nat) (f : State → State) : State :=
  rxLeave (f (rxEnter s (port / 8) pri n)) (port / 8) pri n

/-! ### Checks on what arrives (R320, R321) -/

def hOp (h : Nat) : Nat := bitsOf h 4 4
def hFirst (h : Nat) : Bool := bitOf h 8
def hLast (h : Nat) : Bool := bitOf h 9
def hAbort (h : Nat) : Bool := bitOf h 10
def hSolicit (h : Nat) : Bool := bitOf h 11
def hEce (h : Nat) : Bool := bitOf h 12
def hRtrigEn (h : Nat) : Bool := bitOf h 13
def hDctx (h : Nat) : Nat := bitsOf h 16 16
def hPsn (h : Nat) : Nat := bitsOf h 32 32
def hMsn (h : Nat) : Nat := bitsOf h 64 32
def hLen (h : Nat) : Nat := bitsOf h 96 16
def hRtrig (h : Nat) : Nat := bitsOf h 112 10
def hRva (h : Nat) : Nat := bitsOf h 128 48
def hChunk (h : Nat) : Nat := bitsOf h 128 10
def hPhase (h : Nat) : Nat := bitsOf h 138 2
def hOff (h : Nat) : Nat := bitsOf h 140 36
def hCollId (h : Nat) : Nat := bitsOf h 176 16
def hImm (h : Nat) : Nat := bitsOf h 192 32
def hSack (h : Nat) : Nat := bitsOf h 128 128
def hCause (h : Nat) : Nat := bitsOf h 64 4

/-- Fields that a packet type uses. [13_network.md Table 13.3] -/
def wctFields (h : Nat) : List (Nat × Nat) :=
  let common := [(0, 8), (16, 16), (32, 32)]
  match hOp h with
  | 1 => common ++ [(8, 2), (11, 1), (13, 1), (64, 48), (112, 10), (128, 48)] ++ (if hLast h then [(10, 1), (192, 32)] else [])
  | 2 => common ++ [(12, 1), (128, 128)]
  | 3 => common ++ [(64, 4)]
  | 4 => common ++ [(8, 2), (11, 1), (64, 48), (128, 64)] ++ (if hLast h then [(10, 1)] else [])
  | _ => []

/-- Version, type, reserved fields, length, checksum and CRC of a packet are right. [13_network.md R320, Table 13.3] -/
def wctGood (pk : WctPkt) : Bool :=
  bitsOf pk.hdr 0 4 = 1 && decide (1 ≤ hOp pk.hdr) && decide (hOp pk.hdr ≤ 4) && decide (pk.hdr < 2 ^ 256)
    && onlyFields (wctFields pk.hdr) pk.hdr
    && pk.payload.length = hLen pk.hdr && hLen pk.hdr % 32 = 0 && decide (hLen pk.hdr ≤ 8192)
    && pk.net.ipOk && csumGood pk.net (wctBody pk.hdr pk.payload pk.crc) && pk.crc = wctCrc pk.hdr pk.payload

/-- A packet from `net` belongs to the connection of a context. [13_network.md R317, R321] -/
def ctxMatches (c : Ctx) (net : NetHdr) : Bool :=
  ctxValid c && net.v6 = ctxV6 c && net.srcIp = ctxIp c 128 && net.dstIp = ctxIp c 256 && net.port = ctxPort c

/-- A packet is discarded and counted at its port. [13_network.md R320, R321] -/
def dropNet (s : State) (port : Nat) : State := bump s KELPIE_PORT_DROP_COUNT port

/-- Bytes of a frame that carries `n` bytes behind its UDP header, with the frame check sequence. [13_network.md R315, R320] -/
def frameLen (net : NetHdr) (n : Nat) : Nat := 26 + 4 * net.vlans.length + (if net.v6 then 40 else 20) + n

/-- EtherTypes that a port takes: IPv4, IPv6, PTP and MAC control, and ARP for the control compartment (log 75).
[13_network.md R315] -/
def etherTypes : List Nat := [0x0800, 0x86DD, 0x88F7, 0x8808, 0x0806]

/-- No uncorrectable codeword touches a frame, and its length, VLAN tags and EtherType are such as a port takes.
[13_network.md R315] -/
def frameOk (net : NetHdr) (n : Nat) : Bool :=
  net.fecBad = 0 && decide (frameLen net n ≤ 9216) && decide (net.vlans.length ≤ 1) && etherTypes.contains net.etherType

/-- The FEC counts of a port as a frame comes in. [13_network.md R315, Table 13.10] -/
def countFec (s : State) (net : NetHdr) : State :=
  let s := if net.fecCorr = 0 then s else bumpN s KELPIE_PORT_FEC_CORR_COUNT net.port net.fecCorr
  if net.fecBad = 0 then s else bumpN s KELPIE_PORT_FEC_UNCORR_COUNT net.port net.fecBad

/-- A frame is for the control compartment: ARP, or IP that is neither WCT, RoCE v2 nor PTP. [13_network.md R315] -/
def forCtrl (s : State) (net : NetHdr) : Bool :=
  net.etherType = 0x0806
    || (net.isIp && !(net.isUdp && [fget s KELPIE_CTRL__WCT_PORT, 4791, 319, 320].contains net.dport))

/-- A frame goes to the control compartment, up to 4,096 in a second of device time; the excess is discarded and counted.
[13_network.md R315, Table 13.10] -/
def ctrlFrame (s : State) (net : NetHdr) : State :=
  let sec := now s / 1000000000
  let n := if s.kelpie.ctrlRate.1 = sec then s.kelpie.ctrlRate.2 else 0
  if n < 4096 then onKelpie s fun k => { k with ctrlRate := (sec, n + 1), out := k.out ++ [.ctrl net] }
  else dropNet s net.port

/-- A frame with `n` bytes behind its UDP header arrives at a port: counted, discarded, handed to the control compartment, or
handled by `f`. [13_network.md R315, R317] -/
def rxFrame (s : State) (net : NetHdr) (n : Nat) (f : State → State) : State :=
  if !portUp s net.port then s
  else
    let s := countFec s net
    if !frameOk net n then dropNet s net.port
    else if forCtrl s net then ctrlFrame s net
    else f s

/-- A WCT packet of type `op` arrives: discarded, or handled by `f` on its context while it is in the receive buffer.
[13_network.md R318, R320, R321, R325] -/
def rxWct (s : State) (pk : WctPkt) (op : Nat) (f : State → Nat → State) : State :=
  let n := pk.net.port
  let o := hOp pk.hdr
  rxFrame s pk.net (36 + pk.payload.length) fun s =>
  if !pk.net.isUdp || pk.net.dport ≠ fget s KELPIE_CTRL__WCT_PORT || (1 ≤ o && o ≤ 4 && o ≠ op) then s
  else
    let x := hDctx pk.hdr
    let c := ctxOf s x
    if !wctGood pk || x ≥ ctxCount || ctxRoce c || !ctxMatches c pk.net then dropNet s n
    else if ctxFailed c then s
    else throughRx s n (ctxPcp c) (32 + pk.payload.length) fun s => f s x

/-! ### Acknowledgement (R323) -/

/-- SACK for the PSNs received from EPSN + 1 onwards. [13_network.md R323, Table 13.3] -/
def sackOf (c : Ctx) : Nat :=
  (List.range 128).foldl (fun a i => if c.got.contains ((ctxEpsn c + 1 + i) % 2 ^ 32) then a + 2 ^ i else a) 0

/-- ACK_PSN of a context. [13_network.md R323] -/
def ackPsn (c : Ctx) : Nat := (ctxEpsn c + 2 ^ 32 - 1) % 2 ^ 32

/-- The receiver sends an ACK. [13_network.md R323, Table 13.3] -/
def sendAck (s : State) (x : Nat) : State :=
  let c := ctxOf s x
  let h := wctHdr (ctxPeer c) { op := 2, ece := c.ceSeen, psn := ackPsn c, hi := sackOf c }
  sendWct (onCtx s x fun c => { c with unacked := 0, unackedAt := none, ceSeen := false }) x h []

/-- The receiver sends a NAK with a cause. [13_network.md R325, Table 13.3] -/
def sendNak (s : State) (x cause : Nat) : State :=
  let c := ctxOf s x
  sendWct s x (wctHdr (ctxPeer c) { op := 3, psn := ackPsn c, msn := cause }) []

/-- NAK RNR may be sent: at most once per RNR_WAIT for each context. [13_network.md R325] -/
def rnrDue (s : State) (c : Ctx) : Bool :=
  match c.rnrAt with
  | some t => decide (t + fget s KELPIE_WCT_TIMERS__RNR_WAIT * 1000 ≤ now s)
  | none => true

/-- NAK RNR. [13_network.md R325, Table 13.10] -/
def sendRnr (s : State) (x : Nat) : State :=
  if rnrDue s (ctxOf s x) then
    sendNak (onCtx (bump s KELPIE_RNR_COUNT) x fun c => { c with rnrAt := some (now s) }) x 1
  else s

/-! ### Messages being received (R322, R326, R329) -/

/-- What becomes of a packet in the window. -/
inductive RxOut where
  | ok | rnr | remoteErr | aborted
  deriving DecidableEq, Repr

/-- A placement's NOEP cause. [13_network.md R325] -/
def placed (cause : Nat) : RxOut := if cause = 0 then .ok else if cause = 3 then .rnr else .remoteErr

/-- A message of context `x` is completed as failed, and the event posted once. [13_network.md R326] -/
def failRx (s : State) (x msn cause : Nat) : State :=
  let c := ctxOf s x
  if c.rx.any fun m => m.msn = msn && m.cause ≠ 0 then s
  else
    let rx := if c.rx.any fun m => m.msn = msn then mapIf (fun m => m.msn = msn) (fun m => { m with cause := cause }) c.rx
      else c.rx ++ [⟨msn, none, none, 0, cause⟩]
    postEvent (onCtx s x fun c => { c with rx := rx }) evtWctRxError (x + msn * 2 ^ 32 + cause * 2 ^ 64)

/-- The packet is noted with its message. [13_network.md R322, Table 13.3] -/
def noteRx (c : Ctx) (h : Nat) : Ctx :=
  let f := fun (m : RxMsg) => { m with
    lastPsn := if hLast h then some (hPsn h) else m.lastPsn
    rtrig := if hRtrigEn h && hOp h = 1 then some (hRtrig h) else m.rtrig
    imm := if hLast h then hImm h else m.imm }
  if c.rx.any fun m => m.msn = hMsn h then { c with rx := mapIf (fun m => m.msn = hMsn h) f c.rx }
  else { c with rx := c.rx ++ [f ⟨hMsn h, none, none, 0, 0⟩] }

/-- EPSN passes the last packet of a message: the message ends, and triggers its queue unless it failed. [13_network.md R329] -/
def endRx (s : State) (x psn : Nat) : State :=
  match (ctxOf s x).rx.find? fun m => m.lastPsn = some psn with
  | none => s
  | some m =>
    let s := onCtx s x fun c => { c with rx := c.rx.filter fun y => y.msn ≠ m.msn }
    match m.rtrig with
    | some q =>
      if m.cause = 0 then kelpieTrigger (onKelpie s fun k => { k with imm := smSet k.imm q m.imm }) q true else s
    | none => s

/-- EPSN advances past every contiguous PSN received. [13_network.md R322] -/
def advanceEpsn (s : State) (x : Nat) : Nat → State
  | 0 => s
  | k + 1 =>
    let c := ctxOf s x
    let e := ctxEpsn c
    if c.got.contains e then
      let s := onCtx s x fun c => ctxSet { c with got := c.got.filter fun y => y ≠ e } 448 32 (e + 1)
      advanceEpsn (endRx s x e) x k
    else s

/-- The packet opens a gap that was not there before. [13_network.md R323] -/
def newGap (c : Ctx) (psn : Nat) : Bool :=
  let d := psnDist (ctxEpsn c) psn
  let top := c.got.foldl (fun a g => max a (psnDist (ctxEpsn c) g + 1)) 0
  decide (top < d)

/-- A packet in the window is marked received, and acknowledged where an ACK is due. [13_network.md R322, R323] -/
def acceptPkt (s : State) (x : Nat) (pk : WctPkt) : State :=
  let h := pk.hdr
  let c := ctxOf s x
  let gap := newGap c (hPsn h)
  let c := noteRx { c with
    got := hPsn h :: c.got
    unacked := c.unacked + 1
    unackedAt := some (c.unackedAt.getD (now s)) } h
  let s := advanceEpsn (onCtx s x fun _ => c) x 129
  let many := decide (fget s KELPIE_WCT_TIMERS__ACK_COALESCE ≤ c.unacked)
  if hSolicit h || hLast h || gap || pk.net.ce || many then sendAck s x else s

/-- A DATA or COLL packet reaches its context. A failed device answers NAK REMOTE_ERR and nothing else.
[13_network.md R322, R323, R325; 15_fault_tolerance.md R379] -/
def rxPacket (s : State) (x : Nat) (pk : WctPkt) (place : State → State × RxOut) : State :=
  let h := pk.hdr
  if devFailed s then sendNak s x 2 else
  let s := if pk.net.ce then onCtx s x fun c => { c with ceSeen := true } else s
  let c := ctxOf s x
  let d := psnDist (ctxEpsn c) (hPsn h)
  if d ≥ 2 ^ 31 || c.got.contains (hPsn h) then sendAck s x
  else if d ≥ 128 then s
  else if c.rx.any fun m => m.msn = hMsn h && m.cause ≠ 0 then acceptPkt s x pk
  else
    let r := place s
    match r.2 with
    | .ok => acceptPkt r.1 x pk
    | .rnr =>
      let s := sendRnr r.1 x
      if pk.net.ce then sendAck s x else s
    | .remoteErr => acceptPkt (failRx (sendNak r.1 x 2) x (hMsn h) 2) x pk
    | .aborted => acceptPkt (failRx r.1 x (hMsn h) 5) x pk

/-- Placement of a DATA packet. [13_network.md R322, R324] -/
def placeData (s : State) (x : Nat) (pk : WctPkt) : State × RxOut :=
  if hAbort pk.hdr then (s, .aborted)
  else
    let r := hubWrite s (hRva pk.hdr) pk.payload 0 (ctxClass (ctxOf s x))
    (r.1, placed r.2)

/-- DATA. [13_network.md R322] -/
def execWctData (pk : WctPkt) (s : State) : Host.Outcome State Fault Refusal :=
  .next (rxWct s pk 1 fun s x => rxPacket s x pk fun s => placeData s x pk)

/-- ACK_TIMER. [13_network.md R323] -/
def execAckTimer (x : Fin 40960) (s : State) : Host.Outcome State Fault Refusal :=
  let c := ctxOf s x
  .next (match c.unackedAt with
    | some t => if ctxReady c && !devFailed s && decide (t + 1000 ≤ now s) then sendAck s x else s
    | none => s)

/-! ### The sender's side (R324, R325) -/

/-- Packets up to ACK_PSN are released, and an advance restarts the timers. [13_network.md R324] -/
def coverPsn (s : State) (x ack : Nat) : State :=
  let c := ctxOf s x
  match outstanding c with
  | [] => s
  | h :: _ =>
    let n := (psnDist h.psn ack + 1) % 2 ^ 32
    if n = 0 || n > (outstanding c).length then s
    else onCtx s x fun c => { ctxSet c 480 32 (ack + 1) with
      tx := c.tx.filter fun t => decide (n ≤ psnDist h.psn t.psn)
      rto := fget s KELPIE_WCT_TIMERS__RTO
      rtoAt := now s
      holdAt := now s }

/-- WRITEs whose packets have all been acknowledged end. [13_network.md R324, R328] -/
def endWrites (s : State) : State :=
  let l := s.kelpie.wqes.filter fun w => !w.ended && bitsOf w.bits 0 8 = 1 && !workHeld s w.queue w.idx
  forS l (fun w st => endWqe st w.queue w.idx 0) s

/-- What follows a release of packets. -/
def afterCover (s : State) (x : Nat) : State := collCheckAll (endWrites (pumpCtx s x))

/-- PSNs that an ACK shows missing: held, sent, below the highest SACK bit and without one. [13_network.md R324, Table 13.3] -/
def markGaps (c : Ctx) (ack sack : Nat) : Ctx :=
  let has := fun (p : Nat) =>
    let d := psnDist ((ack + 2) % 2 ^ 32) p
    decide (d < 128) && bitOf sack d
  let top := (List.range 128).foldl (fun a i => if bitOf sack i then i + 1 else a) 0
  let low := fun (p : Nat) => decide (psnDist ((ack + 1) % 2 ^ 32) p < top)
  { c with tx := mapIf (fun t => t.sentAt.isSome && low t.psn && !has t.psn) (fun t => { t with gap := true }) c.tx }

/-- ACK. [13_network.md R324, R327] -/
def rxAck (s : State) (x : Nat) (pk : WctPkt) : State :=
  let h := pk.hdr
  let s := if hEce h then onCtx (bump s KELPIE_ECE_COUNT) x fun c => { c with ece := true } else s
  let s := onCtx (coverPsn s x (hPsn h)) x fun c => markGaps c (hPsn h) (hSack h)
  afterCover (resend s x (gapDue s)) x

/-- ACK. [13_network.md R324] -/
def execWctAck (pk : WctPkt) (s : State) : Host.Outcome State Fault Refusal := .next (rxWct s pk 2 fun s x => rxAck s x pk)

/-- NAK: RNR holds the retransmissions of the message that follows ACK_PSN, REMOTE_ERR fails its WQE. [13_network.md R325] -/
def rxNak (s : State) (x : Nat) (pk : WctPkt) : State :=
  let s := coverPsn s x (hPsn pk.hdr)
  let s := match outstanding (ctxOf s x) with
    | [] => s
    | t :: _ =>
      if hCause pk.hdr = 1 then
        onCtx s x fun c => { c with rnrHold := some (t.msn, now s + fget s KELPIE_WCT_TIMERS__RNR_WAIT * 1000) }
      else if hCause pk.hdr = 2 then failWork s t.queue t.idx 2
      else s
  afterCover s x

/-- NAK. [13_network.md R325] -/
def execWctNak (pk : WctPkt) (s : State) : Host.Outcome State Fault Refusal := .next (rxWct s pk 3 fun s x => rxNak s x pk)

/-- Timers of a context run: it is in use, has packets outstanding and its priority is not paused. [13_network.md R318, R324] -/
def timersRun (c : Ctx) : Bool := ctxReady c && !(outstanding c).isEmpty && c.pausedAt.isNone

/-- RTO. [13_network.md R324] -/
def rtoStep (s : State) (x : Nat) : State :=
  let c := ctxOf s x
  if timersRun c && decide (c.rtoAt + c.rto * 1000 ≤ now s) then
    onCtx (resend s x fun _ => true) x fun c => { c with
      rto := min (2 * c.rto) (fget s KELPIE_WCT_TIMERS__RTO_MAX)
      rtoAt := now s }
  else s

/-- RTO. [13_network.md R324] -/
def execWctRto (x : Fin 40960) (s : State) : Host.Outcome State Fault Refusal := .next (rtoStep s x)

/-- RETX_GAP. [13_network.md R324] -/
def execRetxGap (x : Fin 40960) (s : State) : Host.Outcome State Fault Refusal :=
  .next (if timersRun (ctxOf s x) then resend s x (gapDue s) else s)

/-- RNR_WAIT: the held message's retransmissions resume. [13_network.md R325] -/
def execRnrWait (x : Fin 40960) (s : State) : Host.Outcome State Fault Refusal :=
  .next (match (ctxOf s x).rnrHold with
    | some h =>
      if h.2 ≤ now s then resend (onCtx s x fun c => { c with rnrHold := none }) x fun t => t.msn = h.1 else s
    | none => s)

/-- HOLD: the context becomes FAILED. [13_network.md R325] -/
def holdStep (s : State) (x : Nat) : State :=
  let c := ctxOf s x
  if timersRun c && decide (c.holdAt + fget s KELPIE_WCT_TIMERS__HOLD * 1000000000 ≤ now s) then
    let s := failPending (onCtx s x fun c => ctxSet c 3 1 1) x 3
    postEvent s evtWctConnFailed x
  else s

/-- HOLD. [13_network.md R325] -/
def execWctHold (x : Fin 40960) (s : State) : Host.Outcome State Fault Refusal := .next (holdStep s x)

/-- One update of RATE, TARGET and ALPHA, in the units of Table 13.4. [13_network.md R327] -/
def ccUpdate (s : State) (c : Ctx) : Ctx :=
  let g := 2 ^ fget s KELPIE_CC_CTRL__G_SHIFT
  let rate := bitsOf c.bits 512 32
  let target := bitsOf c.bits 544 32
  let alpha := min 65535 ((bitsOf c.bits 576 16 * (g - 1) + 65536 * flag c.ece) / g)
  let quiet := if c.ece then 0 else c.quiet + 1
  let top := modeRate (portMode s (ctxPort c))
  let target := if c.ece then rate else if quiet > 5 then min (target + fget s KELPIE_CC_CTRL__AI_MBPS) top else target
  let rate := if c.ece then rate * (131072 - alpha) / 131072 else (rate + target) / 2
  let c := ctxSet (ctxSet (ctxSet c 512 32 (max rate 1000)) 544 32 target) 576 16 alpha
  { c with quiet := quiet, ece := false, ccAt := now s }

/-- CC_PERIOD. [13_network.md R327] -/
def execCcPeriod (x : Fin 40960) (s : State) : Host.Outcome State Fault Refusal :=
  let c := ctxOf s x
  .next (if ctxReady c && decide (c.ccAt + fget s KELPIE_CC_CTRL__CC_PERIOD * 1000 ≤ now s) then onCtx s x (ccUpdate s) else s)

/-! ### Collectives: receiving (R333, R334) -/

/-- Two LA80 records combined. [02_arithmetic.md R56] -/
def addLa (a b : Nat) : Nat := encodeLa (combineLa (decodeLa a) (decodeLa b))

/-- One roundTiesToEven FP32 addition of two encodings. [05_beryl_vector.md R124] -/
def addF32 (a b : Nat) : Nat := encodeF .fp32 (fAdd .fp32 (decodeF .fp32 a) (decodeF .fp32 b)).v

/-- FP32 encodings rounded once to BF16. [13_network.md R333] -/
def toBf16 (a : Nat) : Nat := encodeF .bf16 (fKeep .bf16 (decodeF .fp32 a)).v

/-- Elements of `w` bytes, as numbers. -/
def elems (w : Nat) (bs : List Byte) : List Nat := (chunks w (ceilDiv bs.length w) bs).map leNat

/-- Numbers laid out as elements of `w` bytes. -/
def unelems (w : Nat) (l : List Nat) : List Byte := l.flatMap (leBytes w)

/-- One's own elements as they travel: BF16 widened to FP32. [13_network.md R333] -/
def toWire (fmt : Nat) (bs : List Byte) : List Byte := if fmt = 2 then unelems 4 ((elems 2 bs).map fun v => v * 65536) else bs

/-- The partial as the last rank writes it: BF16 rounded once. [13_network.md R333] -/
def fromWire (fmt : Nat) (bs : List Byte) : List Byte := if fmt = 2 then unelems 2 ((elems 4 bs).map toBf16) else bs

/-- partial ⊕ own, on the wire's elements. [13_network.md R333] -/
def combineWire (fmt : Nat) (part own : List Byte) : List Byte :=
  let w := if fmt = 0 then 16 else 4
  let f := if fmt = 0 then addLa else addF32
  unelems w ((elems w part).zipWith f (elems w own))

/-- Address at which this rank leaves a finished chunk. [13_network.md R331] -/
def dstOf (c : Coll) (chunk : Nat) : Nat := if clType c = 1 then clDst c else clDst c + chunk * clBytes c

/-- Bytes of a received message are counted; a chunk complete is noted. -/
def noteBytes (c : Coll) (key : Nat × Nat × Nat) (n : Nat) : Coll :=
  let k := msgKey key.1 key.2.1 key.2.2
  let b := smGet c.bytes k 0 + n
  { c with
    bytes := smSet c.bytes k b
    got := if clBytes c ≤ b && !c.got.contains key then key :: c.got else c.got }

/-- Rank on the far side of context `x`. [13_network.md Table 13.7] -/
def rankOf (c : Coll) (x : Nat) : Option Nat := (otherRanks c).find? fun r => ctxTo c r = x

/-- A COLL packet fits the collective that it names. [13_network.md R331, R333, R334] -/
def collPktOk (c : Coll) (x h : Nat) : Bool :=
  let n := hLen h / wireRatio c (hPhase h)
  decide (hChunk h < clP c) && decide (hOff h + n ≤ clBytes c) && (rankOf c x).isSome
    && (match hPhase h with
      | 0 => (clType c = 1 || clType c = 3) && (!clDirect c || hChunk h = clRank c)
      | 1 => clType c = 2 || clType c = 3
      | 2 => clType c = 4 && hChunk h = clRank c
      | _ => false)

/-- A finished part of a chunk is written and, in an all-gather phase, sent on. [13_network.md R331, R333] -/
def gatherPart (s : State) (c : Coll) (cls chunk off : Nat) (bs : List Byte) (key : Nat × Nat × Nat) : State × RxOut :=
  let r := hubWrite s (dstOf c chunk + off) bs 0 cls
  match placed r.2 with
  | .ok =>
    let s := onColl r.1 c.id fun c => noteBytes c key bs.length
    let next := nextRank c (clRank c)
    let own := key.1 = 0
    let s := if clRing c && (if own then clType c = 3 else next ≠ chunk) then sendChunk s c.id 1 chunk next off bs else s
    (collCheck s c.id, .ok)
  | .rnr => (r.1, .rnr)
  | _ => (collFail r.1 c.id 1, .remoteErr)

/-- The chunk that rank `RANK` has reduced by ALGO DIRECT is written once every contribution is in. [13_network.md R334] -/
def directDone (s : State) (c : Coll) (cls : Nat) : State × RxOut :=
  let bs := unelems 16 ((List.range (clBytes c / 16)).map fun i => smGet c.part i 0)
  let r := hubWrite s (dstOf c (clRank c)) bs 0 cls
  match placed r.2 with
  | .ok =>
    let s := onColl r.1 c.id fun _ => c
    let s := if clType c = 3 then forS (otherRanks c) (fun j st => sendChunk st c.id 1 (clRank c) j 0 bs) s else s
    (collCheck s c.id, .ok)
  | .rnr => (r.1, .rnr)
  | _ => (collFail r.1 c.id 1, .remoteErr)

/-- A contribution to the reduction at its last rank by ALGO DIRECT, combined in arrival order. [13_network.md R334] -/
def directPart (s : State) (c : Coll) (cls off from_ : Nat) (bs own : List Byte) : State × RxOut :=
  let i0 := off / 16
  let xs := ((elems 16 bs).zip (elems 16 own)).zipIdx
  let part := xs.foldl (fun m y => smSet m (i0 + y.2) (addLa (smGet m (i0 + y.2) y.1.2) y.1.1)) c.part
  let c := noteBytes { c with part := part } (0, clRank c, from_) bs.length
  if (c.got.filter fun k => k.1 = 0).length = clP c - 1 then directDone s c cls else (onColl s c.id fun _ => c, .ok)

/-- A partial of the reduction: combined with one's own element, then forwarded or written. [13_network.md R333] -/
def reducePart (s : State) (c : Coll) (x : Nat) (pk : WctPkt) : State × RxOut :=
  let h := pk.hdr
  let n := pk.payload.length / wireRatio c 0
  let cls := ctxClass (ctxOf s x)
  let own := hubRead s cls (clSrc c + hChunk h * clBytes c + hOff h) n
  if own.2.cause ≠ 0 then (collFail own.1 c.id 1, .ok)
  else if own.2.tag ≠ 0 then (collFail own.1 c.id 4, .ok)
  else if clDirect c then directPart own.1 c cls (hOff h) ((rankOf c x).getD 0) pk.payload own.2.bytes
  else
    let res := combineWire (clFmt c) pk.payload (toWire (clFmt c) own.2.bytes)
    if hChunk h = clRank c then gatherPart own.1 c cls (hChunk h) (hOff h) (fromWire (clFmt c) res) (0, hChunk h, 0)
    else
      let s := onColl own.1 c.id fun c => noteBytes c (0, hChunk h, 0) n
      (collCheck (sendChunk s c.id 0 (hChunk h) (nextRank c (clRank c)) (hOff h) res) c.id, .ok)

/-- A COLL packet in the window at its collective. [13_network.md R331 to R335] -/
def placeColl (s : State) (x : Nat) (pk : WctPkt) : State × RxOut :=
  let h := pk.hdr
  match collOf s (hCollId h) with
  | none => (s, .rnr)
  | some c =>
    if hAbort h then (collFail s c.id 5, .aborted)
    else if c.cause ≠ 0 then (s, .ok)
    else if !collPktOk c x h then (collFail s c.id 10, .remoteErr)
    else
      let cls := ctxClass (ctxOf s x)
      match hPhase h with
      | 0 => reducePart s c x pk
      | 1 => gatherPart s c cls (hChunk h) (hOff h) pk.payload (1, hChunk h, 0)
      | _ =>
        let i := (rankOf c x).getD 0
        gatherPart s c cls i (hOff h) pk.payload (2, i, 0)

/-- COLL_PACKET. [13_network.md R333] -/
def execCollPacket (pk : WctPkt) (s : State) : Host.Outcome State Fault Refusal :=
  .next (rxWct s pk 4 fun s x => rxPacket s x pk fun s => placeColl s x pk)

end Sys2Proof.Machine
end

