-- ==== Sys2Proof/Machine/KelpieQueue.lean ====
section
/-! DEFINITION. Kelpie's work queues: TAIL and CLEAR, the three kinds of work queue entry, and completion with its notice
(13_network.md R328 to R335). -/

namespace Sys2Proof.Machine

/-! ### Rings -/

/-- Ring size of a queue. [13_network.md R328] -/
def kqSize (s : State) (q : Nat) : Nat := 2 ^ fget s KELPIE_KQ_CFG__LOG2SIZE q

/-- WQEs of a queue started and not completed, in ring order. [13_network.md R328] -/
def kqStarted (s : State) (q : Nat) : List Wqe := s.kelpie.wqes.filter fun w => w.queue = q

/-- Ring index of the next WQE to start: HEAD, as R95 has it with queue in place of stream. [13_network.md R328; 04_tile_commands.md R95] -/
def kqNext (s : State) (q : Nat) : Nat := fget s KELPIE_KQ_PTR__HEAD q % kqSize s q

/-- STATE of a queue: 0 IDLE, 1 RUN, 2 ERROR. [13_network.md Table 13.9] -/
def kqState (s : State) (q : Nat) : Nat := fget s KELPIE_KQ_PTR__STATE q

/-- A queue that is not in ERROR runs while its ring is not empty. [13_network.md R328] -/
def kqWake (s : State) (q : Nat) : State :=
  let empty := fget s KELPIE_KQ_PTR__HEAD q % kqSize s q = fget s KELPIE_KQ_PTR__TAIL q % kqSize s q
  if kqState s q = 2 then s
  else fset s KELPIE_KQ_PTR__STATE (if empty && (kqStarted s q).isEmpty then 0 else 1) q

/-- A write of TAIL. [13_network.md R328] -/
def kqTail (s : State) (q v : Nat) : State := kqWake (fset s KELPIE_KQ_PTR__TAIL v q) q

/-- A write of HEAD: discarded while the queue runs. [13_network.md R330, Table 13.9] -/
def kqHead (s : State) (q v : Nat) : State :=
  if kqState s q = 1 then s else kqWake (fset s KELPIE_KQ_PTR__HEAD v q) q

/-- A write of CLEAR. [13_network.md R330] -/
def kqClearWrite (s : State) (q : Nat) : State := if kqState s q = 2 then fset s KELPIE_KQ_PTR__STATE 0 q else s

/-- KQ_TAIL_WRITE. [13_network.md R328] -/
def execKqTailWrite (q : Fin 1024) (v : BitVec 16) (s : State) : Host.Outcome State Fault Refusal :=
  .next (kelpieDo s fun s => kqTail s q v.toNat)

/-- CLEAR. [13_network.md R330] -/
def execKqClear (q : Fin 1024) (s : State) : Host.Outcome State Fault Refusal :=
  .next (kelpieDo s fun s => kqClearWrite s q)

/-! ### Starting an entry (R328, R329) -/

/-- Fields of a WQE that are not reserved. [13_network.md Table 13.5] -/
def wqeFields : List (Nat × Nat) := [(0, 12), (16, 42), (64, 48), (128, 48), (192, 64), (256, 31)]

/-- A WQE has a known OP, reserved fields of zero, and the values its OP needs. [13_network.md Table 13.5, Table 13.6] -/
def wqeOk (w : Nat) : Bool :=
  let op := bitsOf w 0 8
  decide (1 ≤ op) && decide (op ≤ 3) && onlyFields wqeFields w
    && (!bitOf w 10 || bitsOf w 32 16 ≠ 0) && (op ≠ 1 || bitsOf w 192 32 % 32 = 0)
    && (!bitOf w 8 || decide (bitsOf w 256 9 < 288))

/-- The next WQE of a queue may be looked at: fewer than eight are started and none has failed. [13_network.md R328, R330] -/
def kqMayStart (s : State) (q : Nat) : Bool :=
  let l := kqStarted s q
  kqState s q = 1 && !s.kelpie.stopping.contains q && !(l.any fun w => w.ended && w.cause ≠ 0) && decide (l.length < 8)
    && kqNext s q ≠ fget s KELPIE_KQ_PTR__TAIL q % kqSize s q

/-- A WQE joins those started, and HEAD moves past it. [13_network.md R328; 04_tile_commands.md R95] -/
def addWqe (s : State) (q w : Nat) : State :=
  fset (onKelpie s fun k => { k with wqes := k.wqes ++ [⟨q, kqNext s q, w, false, 0⟩] })
    KELPIE_KQ_PTR__HEAD ((kqNext s q + 1) % kqSize s q) q

/-- A WQE starts and ends at once with a cause. [13_network.md Table 13.6] -/
def addEnded (s : State) (q w cause : Nat) : State := endWqe (addWqe s q w) q (kqNext s q) cause

/-- The triggers that have come and are not used up. [13_network.md R328] -/
def trigLeft (s : State) (q : Nat) : Nat :=
  (fget s KELPIE_KQ_TRIG__TRIG_CNT q + 2 ^ 32 - fget s KELPIE_KQ_TRIG__TRIG_USED q) % 2 ^ 32

/-- Class of the reads of queues, descriptors and rank lists, which no context covers (log 73). [12_regulation.md Table 12.1] -/
def kqCls : Nat := 7

/-- The next WQE of a queue is read; an unusable one ends at once; one of type `op` starts when its fence and triggers let it,
and `run` does its work. [13_network.md R328, R329, Table 13.6] -/
def startWqe (s : State) (q op : Nat) (run : State → Nat → Nat → State) : State :=
  if !kqMayStart s q then s
  else
    let i := kqNext s q
    let r := hubRead s kqCls (fget s KELPIE_KQ_CFG__BASE q + i * 64) 64
    let w := leNat r.2.bytes
    let n := bitsOf w 32 16
    if r.2.cause ≠ 0 then addEnded r.1 q 0 1
    else if r.2.tag ≠ 0 then addEnded r.1 q 0 8
    else if !wqeOk w then addEnded r.1 q w 8
    else if bitsOf w 0 8 ≠ op then s
    else if bitOf w 11 && !(kqStarted s q).isEmpty then s
    else if bitOf w 10 && fbit s KELPIE_KQ_PTR__TRIG_FAIL q then addEnded r.1 q w 9
    else if bitOf w 10 && decide (trigLeft s q < n) then s
    else
      let s := r.1
      let s := if bitOf w 10 then
        fset s KELPIE_KQ_TRIG__TRIG_USED ((fget s KELPIE_KQ_TRIG__TRIG_USED q + n) % 2 ^ 32) q else s
      run (addWqe s q w) i w

/-! ### WRITE (R324, R328) -/

/-- One packet of a WRITE: its data is read and held for sending. Data that is tagged or cannot be read ends the message with
ABORT; the cause is 4 or 1. [13_network.md R324, Table 13.6] -/
def writePacket (s : State) (q i w msn o n : Nat) : State × Nat :=
  let x := bitsOf w 16 16
  let total := bitsOf w 192 32
  let r := hubRead s (ctxClass (ctxOf s x)) (bitsOf w 64 48 + o) n
  let cause := if r.2.cause ≠ 0 then 1 else if r.2.tag ≠ 0 then 4 else 0
  if cause ≠ 0 then
    (holdPacket r.1 x q i (fun psn => {
      op := 1
      first := decide (o = 0)
      last := true
      abort := true
      psn := psn
      msn := msn
      hi := bitsOf w 128 48 + o }) [], cause)
  else
    let last := decide (o + n = total)
    (holdPacket r.1 x q i (fun psn => {
      op := 1
      first := decide (o = 0)
      last := last
      rtrigEn := bitOf w 9
      psn := psn
      msn := msn
      len := n
      rtrig := bitsOf w 48 10
      hi := (bitsOf w 128 48 + o) % 2 ^ 48 + (if last then bitsOf w 224 32 else 0) * 2 ^ 64 }) r.2.bytes, 0)

/-- The packets of a WRITE in order, up to the first that cannot be sent. [13_network.md R324] -/
def writePackets (s : State) (q i w msn mtu : Nat) : Nat → Nat → State × Nat
  | 0, _ => (s, 0)
  | k + 1, o =>
    let total := bitsOf w 192 32
    let n := min mtu (total - o)
    let r := writePacket s q i w msn o n
    if r.2 ≠ 0 || o + n ≥ total then r else writePackets r.1 q i w msn mtu k (o + n)

/-- The work of a WRITE. [13_network.md R324, R328] -/
def workWrite (q : Nat) (s : State) (i w : Nat) : State :=
  let x := bitsOf w 16 16
  let c := ctxOf s x
  let bad := ctxCause c
  if bad ≠ 0 then endWqe s q i bad
  else
    let m := takeMsn s x
    let r := writePackets m.1 q i w m.2 (ctxMtu c) (bitsOf w 192 32 / ctxMtu c + 1) 0
    let s := pumpCtx r.1 x
    if r.2 ≠ 0 then endWqe s q i r.2 else s

/-- WRITE. [13_network.md R328] -/
def execWqeWrite (q : Fin 1024) (s : State) : Host.Outcome State Fault Refusal := .next (startWqe s q 1 (workWrite q))

/-! ### COLL (R331 to R335) -/

/-- Fields of a collective descriptor that are not reserved. [13_network.md Table 13.7] -/
def collFields : List (Nat × Nat) := [(0, 29), (32, 16), (64, 48), (128, 48), (192, 32), (256, 48)]

/-- Cause of Table 13.6 with which a collective fails before it starts, 0 for none. [13_network.md R331, R332, Table 13.7] -/
def collCause (s : State) (d : Nat) : Nat :=
  let c : Coll := ⟨0, 0, 0, d, [], [], [], [], [], [], [], 0⟩
  let t := clType c
  let f := clFmt c
  if !onlyFields collFields d then 8
  else if t = 0 || t > 4 || f > 3 || clP c < 2 || clP c > 1024 || clRank c ≥ clP c || clBytes c % 32 ≠ 0 then 10
  else if (f = 3 && (t = 1 || t = 3)) || (f ≠ 3 && t = 4) || ((f = 1 || f = 2) && clDirect c) then 10
  else if fbit s HUB_MODE__STRICT && clDirect c then 6
  else if s.kelpie.colls.any fun y => y.id = bitsOf d 32 16 && y.cause = 0 then 10
  else 0

/-- This rank's chunk at SRC_VA is read and sent to a rank. [13_network.md R331, R333] -/
def sendOwn (s : State) (c : Coll) (phase srcChunk chunk r : Nat) : State :=
  let x := hubRead s (ctxClass (ctxOf s (ctxTo c r))) (clSrc c + srcChunk * clBytes c) (clBytes c)
  if x.2.cause ≠ 0 then collFail x.1 c.id 1
  else if x.2.tag ≠ 0 then collFail x.1 c.id 4
  else sendChunk x.1 c.id phase chunk r 0 (if phase = 0 then toWire (clFmt c) x.2.bytes else x.2.bytes)

/-- This rank's own chunk is copied to its place in DST_VA. [13_network.md R331] -/
def copyOwn (s : State) (c : Coll) (srcChunk : Nat) : State :=
  let cls := ctxClass (ctxOf s (ctxTo c (nextRank c (clRank c))))
  let x := hubRead s cls (clSrc c + srcChunk * clBytes c) (clBytes c)
  if x.2.cause ≠ 0 then collFail x.1 c.id 1
  else if x.2.tag ≠ 0 then collFail x.1 c.id 4
  else
    let w := hubWrite x.1 (dstOf c (clRank c)) x.2.bytes 0 cls
    if w.2 ≠ 0 then collFail w.1 c.id 1 else w.1

/-- What a rank does when its collective starts. [13_network.md R331, R333, R334] -/
def collStart (s : State) (c : Coll) : State :=
  let r := clRank c
  let s :=
    if clType c = 4 then forS (otherRanks c) (fun j st => sendOwn st c 2 j j j) (copyOwn s c r)
    else if clType c = 2 then forS (sendRanks c) (fun j st => sendOwn st c 1 0 r j) (copyOwn s c 0)
    else if clDirect c then forS (otherRanks c) (fun j st => sendOwn st c 0 j j j) s
    else
      let chunk := (r + clP c - 1) % clP c
      sendOwn s c 0 chunk chunk (nextRank c r)
  collCheck s c.id

/-- The work of a COLL: descriptor and contexts are read, and the collective starts. [13_network.md R331, R332] -/
def workColl (q : Nat) (s : State) (i w : Nat) : State :=
  let d := hubRead s kqCls (bitsOf w 64 48) 64
  let desc := leNat d.2.bytes
  if d.2.cause ≠ 0 then endWqe d.1 q i 1
  else if d.2.tag ≠ 0 then endWqe d.1 q i 8
  else if collCause s desc ≠ 0 then endWqe d.1 q i (collCause s desc)
  else
    let p := bitsOf desc 18 11
    let l := hubRead d.1 kqCls (bitsOf desc 256 48) (2 * p)
    if l.2.cause ≠ 0 then endWqe l.1 q i 1
    else if l.2.tag ≠ 0 then endWqe l.1 q i 8
    else
      let c : Coll := ⟨bitsOf desc 32 16, q, i, desc, elems 2 l.2.bytes, [], [], [], [], [], [], 0⟩
      collStart (onKelpie l.1 fun k => { k with colls := (k.colls.filter fun y => y.id ≠ c.id) ++ [c] }) c

/-- COLL. [13_network.md R331] -/
def execWqeColl (q : Fin 1024) (s : State) : Host.Outcome State Fault Refusal := .next (startWqe s q 2 (workColl q))

/-- WAIT. [13_network.md R330] -/
def execWqeWait (q : Fin 1024) (s : State) : Host.Outcome State Fault Refusal :=
  .next (startWqe s q 3 fun s i _ => endWqe s q i 0)

/-! ### Completion (R330) -/

/-- The notice record of a WQE. [13_network.md R330] -/
def noticeBytes (s : State) (w : Wqe) : List Byte :=
  let imm := if bitsOf w.bits 0 8 = 3 then smGet s.kelpie.imm w.queue 0 else bitsOf w.bits 224 32
  leBytes 32 (w.queue + w.cause * 2 ^ 16 + imm * 2 ^ 32 + w.idx * 2 ^ 64)

/-- The notice record goes to its logical tile and slot. [13_network.md R330; 11_fabric.md R285] -/
def sendNotice (s : State) (w : Wqe) : State :=
  let f := fresh s
  let t := bitsOf w.bits 256 9
  let m := { blankMsg f.2 .spw 2 .hub (.region (t / 18)) (ctxClass (ctxOf s (bitsOf w.bits 16 16))) none f.2 with
    win := f.2
    mask := 1
    sectors := [⟨0, noticeBytes s w, 0⟩]
    lmask := 2 ^ (t % 18)
    dstSpa := bitsOf w.bits 271 16
    dstSlot := some (bitsOf w.bits 265 6)
    last := true }
  sendNow f.1 m (routeMc f.1 .hub (t / 18))

/-- The oldest WQE of a queue completes once its work has ended. [13_network.md R328, R330] -/
def completeWqe (s : State) (q : Nat) : State :=
  match kqStarted s q with
  | [] => s
  | w :: rest =>
    if !w.ended then s
    else
      let s := onKelpie s fun k => { k with wqes := k.wqes.filter fun y => !(y.queue = q && y.idx = w.idx) }
      let s := if bitOf w.bits 8 then sendNotice s w else s
      let s := if w.cause ≠ 0 then
        postEvent (onKelpie s fun k => { k with stopping := if k.stopping.contains q then k.stopping else q :: k.stopping })
          evtKqError (q + w.idx * 2 ^ 16 + w.cause * 2 ^ 32) else s
      if s.kelpie.stopping.contains q && rest.isEmpty then
        fset (onKelpie s fun k => { k with stopping := k.stopping.filter fun y => y ≠ q }) KELPIE_KQ_PTR__STATE 2 q
      else kqWake s q

/-- WQE_COMPLETE. [13_network.md R328, R330] -/
def execWqeComplete (q : Fin 1024) (s : State) : Host.Outcome State Fault Refusal := .next (completeWqe s q)

end Sys2Proof.Machine
end

