-- ==== Sys2Proof/Machine/KelpieNet.lean ====
section
/-! DEFINITION. Kelpie's RoCE v2 responder, received priority flow control, ports that go down and come up, and the PTP clock
(13_network.md R317, R318, R336 to R340). -/

namespace Sys2Proof.Machine

/-! ### RoCE v2 (R336 to R338) -/

/-- PSN that the responder expects, 24 bits. [13_network.md R336, R337] -/
def rocePsn (c : Ctx) : Nat := ctxEpsn c % 2 ^ 24

/-- A response of context `x`. [13_network.md R336] -/
def sendRoce (s : State) (x op psn syn : Nat) (payload : List Byte) : State :=
  let c := ctxOf s x
  emit s (ctxPort c) (ctxPcp c) (.roce ⟨ctxHdr s c 4791, true, op, bitsOf c.bits 32 24, psn % 2 ^ 24, false, 0, 0, 0, syn, payload⟩)

/-- Opcode of Acknowledge. [13_network.md R336] -/
def roceAckOp : Nat := 0x11

/-- Opcode of CNP. [13_network.md R336, R338] -/
def roceCnpOp : Nat := 0x81

/-- AETH syndrome of a NAK: 0 PSN Sequence Error, 1 Invalid Request, 2 Remote Access Error, 3 Remote Operational Error.
[13_network.md R337] -/
def nakSyn (code : Nat) : Nat := 0x60 + code

/-- AETH syndrome of an ACK without end-to-end credits. [13_network.md R336] -/
def ackSyn : Nat := 0x1F

/-- RNR timer values of codes 1 to 18, in µs. [13_network.md R337] -/
def rnrTimers : List Nat := [10, 20, 30, 40, 60, 80, 120, 160, 240, 320, 480, 640, 960, 1280, 1920, 2560, 3840, 5120]

/-- Timer code nearest above RNR_WAIT. [13_network.md R337] -/
def rnrCode (wait : Nat) : Nat :=
  match rnrTimers.zipIdx.find? fun x => wait ≤ x.1 with
  | some x => x.2 + 1
  | none => 19

/-- ACK of the packets before EPSN. [13_network.md R336] -/
def roceAck (s : State) (x : Nat) : State :=
  sendRoce s x roceAckOp (rocePsn (ctxOf s x) + 2 ^ 24 - 1) ackSyn []

/-- A NAK for the packet expected. [13_network.md R337] -/
def roceNak (s : State) (x code : Nat) : State := sendRoce s x roceAckOp (rocePsn (ctxOf s x)) (nakSyn code) []

/-- RNR NAK, at most once per RNR_WAIT for each context. [13_network.md R325, R337] -/
def roceRnr (s : State) (x : Nat) : State :=
  if rnrDue s (ctxOf s x) then
    let s := onCtx (bump s KELPIE_RNR_COUNT) x fun c => { c with rnrAt := some (now s) }
    sendRoce s x roceAckOp (rocePsn (ctxOf s x)) (0x20 + rnrCode (fget s KELPIE_WCT_TIMERS__RNR_WAIT)) []
  else s

/-- A CE mark answers with a CNP, at most one per context per 50 µs. [13_network.md R338] -/
def roceCe (s : State) (x : Nat) (ce : Bool) : State :=
  let c := ctxOf s x
  let due := match c.cnpAt with
    | some t => decide (t + 50000 ≤ now s)
    | none => true
  if ce && due then
    sendRoce (onCtx (bump s KELPIE_CNP_COUNT) x fun c => { c with cnpAt := some (now s) }) x roceCnpOp 0 0 []
  else s

/-- Opcodes whose packets carry a RETH: RDMA WRITE First and Only, RDMA READ Request. [13_network.md R336] -/
def roceReth (op : Nat) : Bool := [0x06, 0x0A, 0x0C].contains op

/-- A RoCE v2 packet arrives and `f` acts on its context. [13_network.md R318, R321, R336] -/
def rxRoce (s : State) (pk : RocePkt) (f : State → Nat → State) : State :=
  let n := pk.net.port
  rxFrame s pk.net (16 + (if roceReth pk.opcode then 16 else 0) + pk.payload.length) fun s =>
  if !pk.net.isUdp || pk.net.dport ≠ 4791 then s
  else if !pk.icrcOk then s
  else if !pk.net.ipOk then dropNet s n
  else
    let x := pk.qpn
    let c := ctxOf s x
    if x ≥ ctxCount || !ctxRoce c || !ctxMatches c pk.net then dropNet s n
    else throughRx s n (ctxPcp c) pk.payload.length fun s => f (roceCe s x pk.net.ce) x

/-- A sequence error is answered once for each gap. [13_network.md R337] -/
def roceGap (s : State) (x : Nat) : State :=
  if (ctxOf s x).seqNak then s else onCtx (roceNak s x 0) x fun c => { c with seqNak := true }

/-- EPSN advances by `n` packets. [13_network.md R336] -/
def roceNext (s : State) (x n : Nat) : State :=
  onCtx s x fun c => { ctxSet c 448 32 ((ctxEpsn c + n) % 2 ^ 24) with seqNak := false }

/-- An R_Key entry grants a whole access. [13_network.md R337] -/
def rkeyOk (s : State) (rkey va len : Nat) (write : Bool) : Bool :=
  decide (va < 2 ^ 48) && (List.range 64).any fun i =>
    let lo := fget s KELPIE_RKEY_RANGE__BASE i * 2 ^ 21
    let hi := lo + fget s KELPIE_RKEY_RANGE__PAGES i * 2 ^ 21
    fbit s KELPIE_RKEY__VALID i && fget s KELPIE_RKEY__KEY i = rkey
      && (if write then fbit s KELPIE_RKEY__WR i else fbit s KELPIE_RKEY__RD i) && decide (lo ≤ va) && decide (va + len ≤ hi)

/-- First and Only packets of an RDMA WRITE carry the RETH. [13_network.md R336] -/
def roceStarts (op : Nat) : Bool := op = 0x06 || op = 0x0A

/-- Last and Only packets end an RDMA WRITE. [13_network.md R336] -/
def roceEnds (op : Nat) : Bool := op = 0x08 || op = 0x0A

/-- Address and bytes left for an expected write packet, or the NAK code. [13_network.md R336, R337] -/
def roceWrite (s : State) (c : Ctx) (pk : RocePkt) : Except Nat (Nat × Nat × Nat) :=
  if roceStarts pk.opcode then
    if c.roceWr.isSome then .error 1
    else if !rkeyOk s pk.rkey pk.va pk.len true then .error 2
    else .ok (pk.va, pk.len, pk.rkey)
  else match c.roceWr with
    | some w => .ok w
    | none => .error 1

/-- An expected RDMA WRITE packet is placed. [13_network.md R336, R337] -/
def rocePlace (s : State) (x : Nat) (pk : RocePkt) : State :=
  let c := ctxOf s x
  match roceWrite s c pk with
  | .error code => onCtx (roceNak s x code) x fun c => { c with roceWr := none }
  | .ok w =>
    let n := pk.payload.length
    let fits := if roceEnds pk.opcode then decide (n = w.2.1) else decide (n = ctxMtu c) && decide (n < w.2.1)
    if !fits then onCtx (roceNak s x 1) x fun c => { c with roceWr := none }
    else
      let r := hubWrite s w.1 pk.payload 0 (ctxClass c)
      if r.2 = 3 then roceRnr r.1 x
      else if r.2 ≠ 0 then onCtx (roceNak r.1 x 2) x fun c => { c with roceWr := none }
      else
        let next := if roceEnds pk.opcode then none else some (w.1 + n, w.2.1 - n, w.2.2)
        let s := roceNext (onCtx r.1 x fun c => { c with roceWr := next }) x 1
        if pk.ackReq then roceAck s x else s

/-- A RoCE v2 packet other than a READ Request at its context. [13_network.md R336, R337] -/
def roceWriteAt (s : State) (x : Nat) (pk : RocePkt) : State :=
  let d := (pk.psn + 2 ^ 24 - rocePsn (ctxOf s x)) % 2 ^ 24
  if pk.opcode < 0x06 || pk.opcode = 0x09 || pk.opcode > 0x0A then roceNak s x 1
  else if d ≥ 2 ^ 23 then roceAck s x
  else if d ≠ 0 then roceGap s x
  else rocePlace s x pk

/-- RDMA_WRITE, and every opcode that is not supported. [13_network.md R336, R337] -/
def execRdmaWrite (pk : RocePkt) (s : State) : Host.Outcome State Fault Refusal :=
  .next (if pk.opcode = 0x0C then s else rxRoce s pk fun s x => roceWriteAt s x pk)

/-- The opcode of response `i` of `n`. [13_network.md R336] -/
def readOp (i n : Nat) : Nat := if n = 1 then 0x10 else if i = 0 then 0x0D else if i + 1 = n then 0x0F else 0x0E

/-- A READ Request is executed: responses from its own PSN onwards. [13_network.md R336, R337] -/
def roceRead (s : State) (x : Nat) (pk : RocePkt) (again : Bool) : State :=
  let c := ctxOf s x
  let mtu := ctxMtu c
  if !rkeyOk s pk.rkey pk.va pk.len false then roceNak s x 2
  else
    let r := hubRead s (ctxClass c) pk.va pk.len
    if r.2.cause = 3 then roceRnr r.1 x
    else if r.2.cause ≠ 0 then roceNak r.1 x 2
    else if r.2.tag ≠ 0 then roceNak r.1 x 3
    else
      let n := max 1 (ceilDiv pk.len mtu)
      let s := if again then r.1 else roceNext r.1 x n
      forS (List.range n) (fun i st =>
        sendRoce st x (readOp i n) (pk.psn + i) ackSyn ((r.2.bytes.drop (i * mtu)).take mtu)) s

/-- A READ Request at its context. [13_network.md R337] -/
def roceReadAt (s : State) (x : Nat) (pk : RocePkt) : State :=
  let d := (pk.psn + 2 ^ 24 - rocePsn (ctxOf s x)) % 2 ^ 24
  if d ≥ 2 ^ 23 then roceRead s x pk true
  else if d ≠ 0 then roceGap s x
  else roceRead s x pk false

/-- RDMA_READ_REQUEST. [13_network.md R336, R337] -/
def execRdmaReadRequest (pk : RocePkt) (s : State) : Host.Outcome State Fault Refusal :=
  .next (if pk.opcode = 0x0C then rxRoce s pk fun s x => roceReadAt s x pk else s)

/-! ### Pauses received (R318) -/

/-- Contexts that use a priority of a port. [13_network.md R318] -/
def ctxsOn (s : State) (n pri : Nat) : List Nat :=
  (s.kelpie.ctx.filter fun x => ctxValid x.2 && ctxPort x.2 = n && ctxPcp x.2 = pri).map fun x => x.1

/-- Nanoseconds of a number of pause quanta at a port's rate. [13_network.md R318] -/
def quantaNs (s : State) (n q : Nat) : Nat := ceilDiv (q * 512000) (max 1 (modeRate (portMode s n)))

/-- A moment `t` moved on by a pause that began at `p` and ends now. [13_network.md R318] -/
def movedOn (s : State) (p t : Nat) : Nat := if t ≤ p then t + (now s - p) else now s

/-- A context's timers resume. [13_network.md R318] -/
def resumeCtx (s : State) (x : Nat) : State :=
  match (ctxOf s x).pausedAt with
  | none => s
  | some p => pumpCtx (onCtx s x fun c => { c with
      pausedAt := none
      rtoAt := movedOn s p c.rtoAt
      holdAt := movedOn s p c.holdAt
      tx := c.tx.map fun t => { t with sentAt := t.sentAt.map (movedOn s p) } }) x

/-- The pause of a priority on a port ends: the frames kept are sent, in order, and the contexts resume. [13_network.md R318] -/
def endPause (s : State) (n pri : Nat) : State :=
  let mine := s.kelpie.held.filter fun h => h.1 = n && h.2.1 = pri
  let s := onKelpie s fun k => { k with
    pause := smDel k.pause (n * 8 + pri)
    held := k.held.filter fun h => !(h.1 = n && h.2.1 = pri) }
  let s := forS mine (fun h st => emit st n pri h.2.2) s
  forS (ctxsOn s n pri) (fun x st => resumeCtx st x) s

/-- A pause frame. [13_network.md R318] -/
def pauseStep (s : State) (n pri q : Nat) : State :=
  if !portUp s n then s
  else
    let s := bump s KELPIE_PORT_PAUSE_COUNT n
    if q = 0 then endPause s n pri
    else
      let s := onKelpie s fun k => { k with pause := smSet k.pause (n * 8 + pri) (now s + quantaNs s n q) }
      forS (ctxsOn s n pri) (fun x st => onCtx st x fun c => { c with pausedAt := some (c.pausedAt.getD (now s)) }) s

/-- PAUSE. [13_network.md R318] -/
def execPause (i : Fin 16) (pri : Fin 8) (q : BitVec 16) (s : State) : Host.Outcome State Fault Refusal :=
  .next (pauseStep s i pri q.toNat)

/-- PAUSE_END. [13_network.md R318] -/
def execPauseEnd (i : Fin 16) (pri : Fin 8) (s : State) : Host.Outcome State Fault Refusal :=
  .next (match smFind s.kelpie.pause (i * 8 + pri) with
    | some t => if t ≤ now s then endPause s i pri else s
    | none => s)

/-! ### Ports (R317) -/

/-- A port loses lock or alignment. [13_network.md R317] -/
def portLost (s : State) (n : Nat) : State :=
  if fbit s KELPIE_PORT_STATUS__UP n then
    let s := fset s KELPIE_PORT_STATUS__UP 0 n
    postEvent (onKelpie s fun k => { k with retrainAt := smSet k.retrainAt n (now s + 1000000000) }) evtNetLinkDown n
  else s

/-- NET_LINK_DOWN. [13_network.md R317] -/
def execNetLinkDown (i : Fin 16) (s : State) : Host.Outcome State Fault Refusal := .next (portLost s i)

/-- A port comes up: its contexts send what waits. [13_network.md R317] -/
def portCameUp (s : State) (n : Nat) : State :=
  let s := postEvent (fset s KELPIE_PORT_STATUS__UP 1 n) evtNetLinkUp n
  forS ((s.kelpie.ctx.filter fun x => ctxPort x.2 = n).map fun x => x.1) (fun x st => pumpCtx st x) s

/-- The port is one that Kelpie keeps trying: DOWN, present in its quad's mode, powered. [13_network.md R314, R317] -/
def portTrainable (s : State) (n : Nat) : Bool :=
  !fbit s KELPIE_PORT_STATUS__UP n && portExists (portMode s n) n && domOn s (308 + n / 4) && domOn s (312 + n / 8)

/-- A DOWN port is retrained, once per second. [13_network.md R317] -/
def retrainPort (s : State) (n : Nat) (up : Bool) : State :=
  if portTrainable s n && decide (smGet s.kelpie.retrainAt n 0 ≤ now s) then
    if up then portCameUp s n
    else onKelpie s fun k => { k with retrainAt := smSet k.retrainAt n (now s + 1000000000) }
  else s

/-- PORT_RETRAIN. [13_network.md R317] -/
def execPortRetrain (i : Fin 16) (up : Bool) (s : State) : Host.Outcome State Fault Refusal := .next (retrainPort s i up)

/-! ### The PTP clock (R339, R340) -/

/-- Units of 2^-44 ns in the seconds that the clock holds. [13_network.md R339] -/
def ptpModulus : Nat := 2 ^ 48 * 1000000000 * 2 ^ 44

/-- The PTP clock in units of 2^-44 ns. [13_network.md R339] -/
def ptpNow (s : State) : Nat :=
  (fget s KELPIE_PTP_SEC__SEC * 1000000000 + fget s KELPIE_PTP_NS__NS) * 2 ^ 44 + fget s KELPIE_PTP_NS__FRAC * 2 ^ 28
    + s.kelpie.ptpLow

/-- The PTP clock set, in units of 2^-44 ns. [13_network.md R339] -/
def ptpSet (s : State) (t : Nat) : State :=
  let t := t % ptpModulus
  let ns := t / 2 ^ 44
  let s := fset s KELPIE_PTP_SEC__SEC (ns / 1000000000)
  let s := fset s KELPIE_PTP_NS__NS (ns % 1000000000)
  let s := fset s KELPIE_PTP_NS__FRAC (t / 2 ^ 28)
  onKelpie s fun k => { k with ptpLow := t % 2 ^ 28 }

/-- The clock moved by a signed number of 2^-44 ns. [13_network.md R339] -/
def ptpMove (s : State) (d : Int) : State := ptpSet s (((ptpNow s : Int) + d) % (ptpModulus : Int)).toNat

/-- PTP_STEP. [13_network.md R339] -/
def execPtpStep (v : BitVec 64) (s : State) : Host.Outcome State Fault Refusal :=
  .next (kelpieDo s fun s => ptpMove s (sext 64 v.toNat * (2 ^ 44 : Nat)))

/-- PTP_SEC_READ: the read latches KELPIE_PTP_NS. [13_network.md R339] -/
def execPtpSecRead (s : State) : Host.Outcome State Fault Refusal :=
  .next (kelpieDo s fun s => onKelpie s fun k => { k with ptpLatch := some (rget s KELPIE_PTP_NS) })

/-- A timestamp: seconds, nanoseconds and fraction. [13_network.md R340] -/
def ptpStamp (s : State) : Nat := fget s KELPIE_PTP_SEC__SEC * 2 ^ 46 + rget s KELPIE_PTP_NS % 2 ^ 46

/-- The newest `n` entries of a ring that `mine` selects, and every other entry. -/
def keepNewest (n : Nat) (mine : Nat × Nat × Nat → Bool) : List (Nat × Nat × Nat) → List (Nat × Nat × Nat)
  | [] => []
  | x :: xs => if mine x then if n = 0 then keepNewest 0 mine xs else x :: keepNewest (n - 1) mine xs
    else x :: keepNewest n mine xs

/-- A UDP checksum updated for a change of the correctionField. [13_network.md R340] -/
def csumUpdate (csum old new : Nat) : Nat := onesComp (65535 - csum + (4 * 65535 - numSum 4 old) + numSum 4 new)

/-- An event message is timestamped; where it goes over UDP on IPv6, a one-step Sync has its checksum updated.
[13_network.md R340] -/
def ptpStep (s : State) (n : Nat) (rx : Bool) (ty sq corr : Nat) : State :=
  if !portUp s n || ty > 3 then s
  else
    let e := (n, sq, ptpStamp s)
    let csum := (Config.ptpCsum s.draws).map fun v => v.toNat
    if rx then onKelpie s fun k => { k with rxTs := keepNewest 64 (fun y => y.1 = n) (e :: k.rxTs) }
    else if fbit s KELPIE_CTRL__ONESTEP && ty = 0 then
      let c := (corr + Config.residence s.draws) % 2 ^ 64
      let s := { s with draws := s.draws + 1 }
      onKelpie s fun k => { k with out := k.out ++ [.ptp n sq (ptpStamp s) c (csum.map fun v => csumUpdate v corr c)] }
    else onKelpie { s with draws := s.draws + 1 } fun k => { k with
      txTs := keepNewest 256 (fun y => y.1 / 8 = n / 8) (e :: k.txTs)
      out := k.out ++ [.ptp n sq (ptpStamp s) corr csum] }

/-- PTP_EVENT. [13_network.md R340] -/
def execPtpEvent (i : Fin 16) (rx : Bool) (ty : BitVec 4) (sq : BitVec 16) (corr : BitVec 64) (s : State) :
    Host.Outcome State Fault Refusal :=
  .next (ptpStep s i rx ty.toNat sq.toNat corr.toNat)

/-! ### SYNC_OUT (R341) -/

/-- DRIVE. [13_network.md R341] -/
def driveSync (s : State) : State := onKelpie s fun k => { k with syncOut := some (now s) }

/-- DRIVE. [13_network.md R341] -/
def execSyncDrive (s : State) : Host.Outcome State Fault Refusal := .next (kelpieDo s driveSync)

/-- SYNC_OUT_PULSE_END: 64 NCLK are 40 ns. [13_network.md R341] -/
def execSyncOutPulseEnd (s : State) : Host.Outcome State Fault Refusal :=
  .next (match s.kelpie.syncOut with
    | some t => if t + 40 ≤ now s then onKelpie s fun k => { k with syncOut := none } else s
    | none => s)

end Sys2Proof.Machine
end

