-- ==== Sys2Proof/Machine/Start.lean ====
section
/-! DEFINITION. The device start and the barrier before it, the strict-mode bit and Opal (13_network.md R341,
14_determinism.md R346 to R361). -/

namespace Sys2Proof.Machine

/-! ### The device start (R353, R354) -/

/-- A device start from a source that fires now: refused while one is pending. [14_determinism.md R353] -/
def deviceStart (s : State) : State :=
  if fbit s HUB_START__PENDING then bump (fset s HUB_START__DOUBLE 1) HUB_START_IGNORED_COUNT
  else
    let c := aclkCount s + 64
    let s := bump s HUB_START_COUNT
    let s := fset (fset s HUB_START__PENDING 1) HUB_START__LATE_MASK 0
    let s := { s with start := { s.start with s := some c, left := 2 ^ 16 - 1 } }
    forS (List.range 16) (fun g st => sendMgmt st .hub (.region g) (.start c)) s

/-- HUB_START_GO. [14_determinism.md R353] -/
def execHubStartGo (s : State) : Host.Outcome State Fault Refusal := .next (deviceStart s)

/-- The armed tiles of a region; a fenced one too, which goes on by itself (log 76). [14_determinism.md R352, R355; 15_fault_tolerance.md R363] -/
def armedTiles (s : State) (g : Nat) : List Nat :=
  ((List.range 18).map fun k => g * 18 + k).filter fun p => tileRuns s p && fbit s TILE_COLLIE_CTRL__ARM p

/-- Region `g` starts, `late` ACLK after its start count. [14_determinism.md R354, R355] -/
def startRegion (s : State) (g late : Nat) : State :=
  let s := onRegion s g fun r => { r with startS := none }
  let s := if late = 0 then s else
    let m := setBits (fget s HUB_START__LATE_MASK) g 1 1
    let s := bump (fset (fset s HUB_START__LATE 1) HUB_START__LATE_MASK m) HUB_START_LATE_COUNT
    postEvent s evtRegionStartLate (g + late % 2 ^ 32 * 2 ^ 32)
  let s := forS (armedTiles s g) (fun p st => armedStart st p) s
  let left := setBits s.start.left g 1 0
  let s := { s with start := { s.start with left := left, s := if left = 0 then none else s.start.s } }
  if left = 0 then fset s HUB_START__PENDING 0 else s

/-- The region's count has reached the start count, or the ACLK after a late arrival has come. [14_determinism.md R354] -/
def regionStartStep (s : State) (g : Nat) : State :=
  match (regionOf s g).startS with
  | none => s
  | some x =>
    if !domOn s (288 + g) then s
    else if x.2 < x.1 then if x.1 ≤ aclkCount s then startRegion s g 0 else s
    else if x.2 + 1 ≤ aclkCount s then startRegion s g (x.2 + 1 - x.1) else s

/-- REGION_START. [14_determinism.md R354, R355] -/
def execRegionStart (g : Fin 16) (s : State) : Host.Outcome State Fault Refusal := .next (regionStartStep s g)

/-! ### The barrier (R341) -/

/-- The PTP clock is at or past START_TIME. [13_network.md R341] -/
def pastStart (s : State) : Bool :=
  let t := fget s KELPIE_PTP_SEC__SEC % 2 ^ 34 * 2 ^ 30 + fget s KELPIE_PTP_NS__NS
  decide ((t + 2 ^ 64 - fget s KELPIE_SYNC_TIME__START_TIME) % 2 ^ 64 < 2 ^ 63)

/-- A write of ARM = 1. [13_network.md R341] -/
def armSync (s : State) : State :=
  if fbit s KELPIE_SYNC_CTRL__ARM then s
  else onKelpie (fset s KELPIE_SYNC_CTRL__ARM 1) fun k => { k with armAt := aclkCount s, armLate := pastStart s }

/-- SYNC_ARM. [13_network.md R341] -/
def execSyncArm (s : State) : Host.Outcome State Fault Refusal := .next (kelpieDo s armSync)

/-- DISARM. [13_network.md R341] -/
def execSyncDisarm (s : State) : Host.Outcome State Fault Refusal :=
  .next (kelpieDo s fun s => fset s KELPIE_SYNC_CTRL__ARM 0)

/-- The barrier fires. [13_network.md R341] -/
def fireSync (s : State) : State :=
  let src := fget s KELPIE_SYNC_CTRL__SRC
  let late := src = 1 && s.kelpie.armLate
  let s := fset s KELPIE_SYNC_CTRL__ARM 0
  let s := if late then fset s KELPIE_SYNC_CTRL__LATE 1 else s
  deviceStart (postEvent (bump s KELPIE_SYNC_FIRED_COUNT) evtSyncFired (src + flag late * 2))

/-- A rising SYNC_IN sample: both samples of the edge must have been taken while armed. [13_network.md R341] -/
def syncEdge (s : State) : State :=
  let armed := fbit s KELPIE_SYNC_CTRL__ARM && decide (s.kelpie.armAt + 2 ≤ aclkCount s)
  if !armed then bump s KELPIE_SYNC_IGNORED_COUNT
  else if fget s KELPIE_SYNC_CTRL__SRC = 0 then fireSync s
  else s

/-- SYNC_IN_EDGE. [13_network.md R341] -/
def execSyncInEdge (s : State) : Host.Outcome State Fault Refusal := .next (syncEdge s)

/-- PTP_START_TIME. [13_network.md R341] -/
def execPtpStartTime (s : State) : Host.Outcome State Fault Refusal :=
  .next (if fbit s KELPIE_SYNC_CTRL__ARM && fget s KELPIE_SYNC_CTRL__SRC = 1 && decide (s.kelpie.armAt < aclkCount s)
      && pastStart s then fireSync s else s)

/-! ### The strict-mode bit (R347) -/

/-- STRICT may not change now. [14_determinism.md R347] -/
def strictBusy (s : State) : Bool :=
  ((List.range 288).any fun p => tileState s p = 1 || tileState s p = 2 || fbit s TILE_COLLIE_CTRL__ARM p)
    || fbit s HUB_START__PENDING || (s.kelpie.wqes.any fun w => bitsOf w.bits 0 8 = 2) || fbit s OPAL_STATUS__RUN_OPEN

/-- A write of HUB_MODE. [14_determinism.md R346, R347] -/
def modeWrite (s : State) (v : Nat) : State :=
  let s := if bitOf v 1 then fset s HUB_MODE__MODE_ERR 0 else s
  if bitOf v 0 = fbit s HUB_MODE__STRICT then s
  else if strictBusy s || (bitOf v 0 && s.host.planFeat % 16 ≠ 0) then fset s HUB_MODE__MODE_ERR 1
  else fset s HUB_MODE__STRICT (flag (bitOf v 0))

/-- HUB_MODE_WRITE. [14_determinism.md R347] -/
def execHubModeWrite (v : BitVec 64) (s : State) : Host.Outcome State Fault Refusal := .next (modeWrite s v.toNat)

/-! ### Opal (R356 to R358) -/

/-- A run of `n` words of one register as bytes. -/
def regBytes (s : State) (r : Reg) (n : Nat) : List Byte := (List.range n).flatMap fun w => leBytes 8 (rget s r w)

/-- The Opal input block. [14_determinism.md R356, Table 14.7] -/
def opalBlock (s : State) : List Byte :=
  regBytes s OPAL_PLAN_HASH 8 ++ regBytes s OPAL_WEIGHT_HASH 8 ++ regBytes s OPAL_INPUT_HASH 8 ++ regBytes s OPAL_SEED 1
    ++ regBytes s OPAL_P_FORMAT_MODE 1 ++ List.replicate 48 0

/-- 64 bytes into eight words of a register. -/
def putWords (s : State) (r : Reg) (bs : List Byte) : State :=
  forS (List.range (bs.length / 8)) (fun w st => rset st r (leNat ((bs.drop (8 * w)).take 8)) w) s

/-- An OPEN is accepted. [14_determinism.md R357] -/
def opalMayOpen (s : State) : Bool :=
  let p := fget s OPAL_P_FORMAT_MODE__P
  fbit s OPAL_STATUS__PLAN_VALID && decide (1 ≤ p) && decide (p ≤ 1024)
    && !fbit s OPAL_STATUS__RUN_OPEN && !fbit s OPAL_STATUS__SIG_BUSY

/-- A write of OPEN = 1. [14_determinism.md R357, R358] -/
def opalOpenWrite (s : State) : State :=
  if !opalMayOpen s then fset s OPAL_STATUS__ERR 1
  else
    let s := fset s OPAL_P_FORMAT_MODE__MODE (rget s HUB_MODE % 2 ^ 32)
    let d := sha3_512 (opalBlock s)
    let s := bump (putWords s OPAL_DIGEST d) OPAL_DIGEST_COUNT
    let s := fset (fset (fset s OPAL_STATUS__RUN_OPEN 1) OPAL_STATUS__DIGEST_VALID 1) OPAL_STATUS__SIG_DONE 0
    if fbit s OPAL_CTRL__SIGN then
      let s := fset s OPAL_STATUS__SIG_BUSY 1
      { s with mastiff := { s.mastiff with jobs := s.mastiff.jobs ++ [.digest d (fget s OPAL_SIG_VA__VA * 32)] } }
    else s

/-- OPAL_OPEN. [14_determinism.md R357] -/
def execOpalOpen (s : State) : Host.Outcome State Fault Refusal := .next (opalOpenWrite s)

/-- A write of CLOSE = 1. [14_determinism.md R357] -/
def opalCloseWrite (s : State) : State := fset s OPAL_STATUS__RUN_OPEN 0

/-- OPAL_CLOSE. [14_determinism.md R357] -/
def execOpalClose (s : State) : Host.Outcome State Fault Refusal := .next (opalCloseWrite s)

/-- A context string as bytes. -/
def ctxString (t : String) : List Byte := t.toList.map fun c => BitVec.ofNat 8 c.toNat

/-- A device signature of 4,627 bytes. [19_security.md R463] -/
def deviceSign (s : State) (ctx : String) (msg : List Byte) : List Byte := MlDsa.sign s.mastiff.priv (ctxString ctx) msg

/-- A request to Mastiff fails or is refused. [19_security.md R462, R466, R469, Table 19.3] -/
def mbxErr (s : State) (cause : Nat) : State := fset (fset s MBX_STATUS__ERR 1) MBX_STATUS__CAUSE cause

/-- The signature of a digest is written. Without a valid key the signing fails with cause 10. [14_determinism.md R358; 19_security.md R462] -/
def signDigest (s : State) (d : List Byte) (va : Nat) : State :=
  let s := { s with mastiff := { s.mastiff with jobs := s.mastiff.jobs.drop 1 } }
  let s := fset s OPAL_STATUS__SIG_BUSY 0
  if !fbit s MBX_STATUS__KEY_OK then mbxErr (fset s OPAL_STATUS__SIG_ERR 1) 10
  else
    let w := hubWrite s va (deviceSign s "OPALDG01" d ++ List.replicate 13 0) 0 7
    if w.2 ≠ 0 then fset w.1 OPAL_STATUS__SIG_ERR 1
    else bump (fset w.1 OPAL_STATUS__SIG_DONE 1) OPAL_SIGN_COUNT

/-- OPAL_SIGN_DONE: the oldest request is served. [14_determinism.md R358; 19_security.md R463] -/
def execOpalSignDone (s : State) : Host.Outcome State Fault Refusal :=
  .next (match s.mastiff.jobs with
    | .digest d va :: _ => if compUp s 0 then signDigest s d va else s
    | _ => s)

end Sys2Proof.Machine
end

