-- ==== Sys2Proof/Machine/Power.lean ====
section
/-! DEFINITION. Power domains: parents and children, what a domain loses when it goes off and what happens when it comes on
(01_architecture.md R32, R33; 07_vaults.md R185; 16_thermal_power.md R408 to R410). -/

namespace Sys2Proof.Machine

/-! ### The tree of domains (Table 1.5, Table 16.4) -/

/-- Domain of the PCIe core, which cannot be switched. [16_thermal_power.md Table 16.4] -/
def pcieDomain : Nat := 314

/-- The output CLKREQ_N is driven low: while the PCIe domain is on, whatever the link does. [20_signals_package.md R472] -/
def clkreqLow (s : State) : Bool := domOn s pcieDomain

/-- Parents of a domain. [01_architecture.md Table 1.5; 16_thermal_power.md Table 16.4] -/
def parentsOf (n : Nat) : List Nat :=
  if n < 288 then [288 + n / 18]
  else if n < 304 then [304 + (n - 288) / 4, 316]
  else if 308 ≤ n ∧ n < 312 then [312 + (n - 308) / 2]
  else if 317 ≤ n then [n - 21]
  else []

/-- Children of a domain. [01_architecture.md Table 1.5] -/
def childrenOf (n : Nat) : List Nat := (List.range 325).filter fun m => (parentsOf m).contains n

/-- STATE of a domain: 0 OFF, 1 ON, 2 ABSENT, 3 FAULT. [16_thermal_power.md Table 16.6] -/
def pdState (s : State) (n : Nat) : Nat := fget s HUSKY_PD_STATE__STATE n

/-- STATE of a domain changes. -/
def setPd (s : State) (n st : Nat) : State := fset s HUSKY_PD_STATE__STATE st n

/-! ### Vaults -/

/-- A channel finishes the bursts that it has accepted, oldest first, and those whose row is being restored.
[07_vaults.md R185] -/
def drainChan (s : State) (p c : Nat) : State :=
  let ch := chanOf s p c
  let s := onChan s p c fun ch => { ch with queue := [], flight := [] }
  let s := forS (ch.flight ++ ch.queue) (fun b st => settleBurst st p c b) s
  let l := (chanOf s p c).recov
  let s := onChan s p c fun ch => { ch with recov := l.map fun r => { r with fetched := true } }
  forS l (fun _ st => recoveryStep st p c) s

/-- Channels of a vault that hold anything. -/
def liveChans (s : State) (p : Nat) : List Nat := (List.range 8).filter fun c => (smFind s.chans (p * 8 + c)).isSome

/-- A vault enters self-refresh: accepted bursts complete and each channel issues one refresh. [07_vaults.md R185] -/
def enterSelfRefresh (s : State) (p : Nat) : State :=
  if fbit s TILE_VAULT_STATUS__SELF_REFRESH p then s
  else
    let s := forS (liveChans s p) (fun c st => drainChan st p c) s
    let s := forS (liveChans s p) (fun c st => if chanActive st p c then refreshStep st p c else st) s
    fset s TILE_VAULT_STATUS__SELF_REFRESH 1 p

/-- A vault leaves self-refresh: its refresh interval counts from a refresh issued at once. [07_vaults.md R185] -/
def leaveSelfRefresh (s : State) (p : Nat) : State :=
  let s := fset s TILE_VAULT_STATUS__SELF_REFRESH 0 p
  forS (liveChans s p) (fun c st => if chanActive st p c then refreshAtOnce st p c else st) s

/-- The contents of a vault are lost. [01_architecture.md R33] -/
def loseVault (s : State) (p : Nat) : State := { s with
  vaultData := memLose s.vaultData (p * 2 ^ 32) (2 ^ 32)
  vaultChk := memLose s.vaultChk (p * 2 ^ 29) (2 ^ 29)
  vaultPage := memLose s.vaultPage (p * 2 ^ 28) (2 ^ 28)
  vaultTag := memLose s.vaultTag (p * 2 ^ 27) (2 ^ 27)
  unsealed := memLose s.unsealed (p * 2 ^ 21) (2 ^ 21) }

/-! ### Tiles -/

/-- Registers of a tile that hold what training and repair found, and those whose access is RWS; they outlive its domain (log 46).
[00_scope.md Table 0.5; 07_vaults.md R184; 08_ecc_repair.md R202] -/
def keptTileRegs : List (Reg × List Nat) :=
  [(TILE_VAULT_STATUS, [0]), (TILE_VAULT_CH_STATUS, List.range 8), (TILE_ECC_SPARE_STATUS, [0]),
   (TILE_GARNET_COLBAD, [0, 1]), (TILE_GARNET_PARITY_LOG, [0]), (TILE_SPINEL_ECC_LOG, [0]), (TILE_ECC_LOG, [0])]

/-- The registers of a tile lose power: what training found stays. [16_thermal_power.md R410] -/
def resetTileRegs (s : State) (p : Nat) : State :=
  let kept := keptTileRegs.flatMap fun x => x.2.map fun j => (x.1, j, rget s x.1 p j)
  let s := { s with regs := smDelRange s.regs (0x02000000 + p * 0x10000) 0x10000 }
  forS kept (fun x st => rset st x.1 x.2.2 p x.2.1) s

/-- What a channel keeps of itself without power: repairs and training results. [07_vaults.md R184; 08_ecc_repair.md R201] -/
def coldChan (ch : Chan) : Chan :=
  { Chan.reset with
    remap := ch.remap
    spareUsed := ch.spareUsed
    colUsed := ch.colUsed
    colMap := ch.colMap
    conns := ch.conns
    refRow := ch.refRow }

/-- What a tile keeps of itself without power: Husky's figures about it. [16_thermal_power.md R393, R398] -/
def coldTile (t : Tile) : Tile :=
  { Tile.reset with
    dutyThermal := t.dutyThermal
    dutyModel := t.dutyModel
    dutyCap := t.dutyCap
    dutyRamp := t.dutyRamp
    coolSince := t.coolSince }

/-- Everything held in a tile domain is lost. [16_thermal_power.md R410] -/
def loseTile (s : State) (p : Nat) : State :=
  let s := if (tileOf s p).jprog.isSome then dropProg s p else s
  let s := resetTileRegs s p
  let s := { s with
    spData := memLose s.spData (p * 393216) 393216
    spChk := memLose s.spChk (p * 49152) 49152
    spTag := memLose s.spTag (p * 12288) 12288 }
  let s := forS (liveChans s p) (fun c st => onChan st p c coldChan) s
  if (smFind s.tiles p).isSome then onTile s p coldTile else s

/-! ### Domains going off and coming on -/

/-- The commands at the bank-edge unit of tile `p`, running or waiting, fail because the unit is gone, with STEP 0x3FF in INFO; one
that the first fault discards raises none. [09_jasper.md R213, R236, Table 9.6; 16_thermal_power.md R410] -/
def jasperGone (s : State) (p : Nat) : State :=
  forS (tileOf s p).qJasper (fun c st =>
    if (cmdBy (tileOf st p) .jasper c.serial).any fun x => x.phase ≠ .done then jFail st p c 0x80 noStep else st) s

/-- The bank-edge unit of region `g` is gone. [09_jasper.md R213; 16_thermal_power.md R410] -/
def bankEdgeGone (s : State) (g : Nat) : State := forS ((List.range 18).map fun k => g * 18 + k) (fun p st => jasperGone st p) s

/-- Registers and contents of a region controller. The fences (R364), the binding table (R27) and the mode that the active
set selects (R224) are kept; of the other registers the spec says nothing, and the model resets them (DESIGN CHOICE, log 65).
Its vaults follow the band of the region back to B0 (R171).
[15_fault_tolerance.md R364; 01_architecture.md R27; 09_jasper.md R224] -/
def resetRegion (s : State) (g : Nat) : State :=
  let f := rget s REGION_FENCE g % 2 ^ 18 + fget s REGION_FENCE__REGION_FENCED g * 2 ^ 36
  let mode := fget s REGION_JASPER_STATUS__MODE g
  let bind := (List.range 18).map fun k => (k, rget s REGION_BIND g k)
  let s := { s with regs := smDelRange s.regs (0x01000000 + g * 0x100000) 0x100000 }
  let s := rset { s with regions := smDel s.regions g } REGION_FENCE f g
  let s := fset (forS bind (fun x st => rset st REGION_BIND x.2 g x.1) s) REGION_JASPER_STATUS__MODE mode g
  forS (List.range 18) (fun k st => fset st TILE_VAULT_STATUS__BAND 0 (g * 18 + k)) s

/-- A region loses power: its registers, its routers with what they hold, and the contents of its vaults.
[01_architecture.md R33, Table 1.5] -/
def loseRegion (s : State) (g : Nat) : State :=
  let s := resetRegion s g
  let mine := fun (l : Nat) => decide (18 ≤ l) && onyxRegion l = g
  let s := { s with
    msgs := s.msgs.filter fun m => match m.held with
      | some l => !mine l
      | none => true
    links := s.links.filter fun x => !mine x.1 }
  forS ((List.range 18).map fun k => g * 18 + k) (fun p st => loseVault st p) s

/-- Sensors that are read through the spine of die `d`. [16_thermal_power.md R384] -/
def dieSensors (d : Nat) : List Nat := ((List.range 216).map fun i => d * 216 + i) ++ ((List.range 32).map fun i => 864 + d * 32 + i)

/-- The ports of a quad lose power. [13_network.md R317] -/
def quadOff (s : State) (q : Nat) : State := forS (List.range 4) (fun i st => portLost st (4 * q + i)) s

/-- The contexts whose port lies on a faulted quad are reset. [13_network.md R321; 16_thermal_power.md R410] -/
def quadContexts (s : State) (q : Nat) : State :=
  forS ((s.kelpie.ctx.filter fun x => ctxPort x.2 / 4 = q).map fun x => x.1) (fun x st => resetCtx st x) s

/-- What domain `n` loses as it goes off; its vault is in self-refresh first when the switching is orderly.
[01_architecture.md R33; 16_thermal_power.md R410] -/
def domainLost (s : State) (n : Nat) : State :=
  if n < 288 then loseTile s n
  else if n < 304 then loseRegion s (n - 288)
  else if n < 308 then forS (dieSensors (n - 304)) (fun i st => fset st HUSKY_SENSOR__VALID 0 i) s
  else if n < 312 then quadOff s (n - 308)
  else if n < 314 then halfOff s (n - 312)
  else if n = 315 then linkGone s 16
  else if n = 316 then
    { s with agate := Agate.reset, regs := smDelRange s.regs 0x00400000 0xA8 }
  else if 317 ≤ n then bankEdgeGone s (n - 309)
  else s

/-- A domain goes off in order. [01_architecture.md R33; 07_vaults.md R185] -/
def domainOff (s : State) (n : Nat) : State :=
  let s := if n < 288 then enterSelfRefresh s n else s
  domainLost (setPd s n 0) n

/-- A domain has reached ON; while RESET_N is low none does. [07_vaults.md R185; 20_signals_package.md R478] -/
def domainUp (s : State) (n : Nat) : State :=
  if s.boot.resetLow.isSome then s
  else
  let s := setPd s n 1
  if n < 288 then leaveSelfRefresh s n
  else if 304 ≤ n ∧ n < 308 then
    forS ((dieSensors (n - 304)).filter fun i => !s.boot.deadSensors.contains i) (fun i st => fset st HUSKY_SENSOR__VALID 1 i) s
  else s

/-! ### Requests (R409) -/

/-- The orderly stop is in progress or in force. [16_thermal_power.md R405] -/
def stopHeld (s : State) : Bool := s.husky.stopAt.isSome || fget s HUSKY_STATUS__STATE ≠ 0

/-- Cause of Table 16.5 with which a request is refused, 0 for none; ON of an excluded tile is refused with cause 3 (DESIGN
CHOICE, log 78). [16_thermal_power.md R409, Table 16.5; 17_bringup.md R428] -/
def pdRefuse (s : State) (n : Nat) (on : Bool) : Nat :=
  if !s.husky.requests.isEmpty || n > 324 then 7
  else if n = pcieDomain then 4
  else if pdState s n = 2 || pdState s n = 3 || (on && s.boot.excluded.contains n) then 3
  else if on then
    if stopHeld s then 6
    else if (parentsOf n).any fun m => !domOn s m then 1
    else 0
  else if n < 288 && (tileState s n = 1 || tileState s n = 2 || fbit s TILE_COLLIE_CTRL__ARM n) then 5
  else if (childrenOf n).any fun m => domOn s m then 2
  else 0

/-- A request is refused with a cause. [16_thermal_power.md R409] -/
def pdErr (s : State) (c : Nat) : State := fset (fset s HUSKY_PD_CMD__ERR 1) HUSKY_PD_CMD__CAUSE c

/-- A write of HUSKY_PD_CMD with an ON or OFF request. [16_thermal_power.md R409; 20_signals_package.md R478] -/
def pdRequest (s : State) (n : Nat) (on : Bool) : State :=
  if s.boot.resetLow.isSome then s
  else
  let s := fset s HUSKY_PD_CMD__DOMAIN n
  let c := pdRefuse s n on
  if c ≠ 0 then pdErr s c
  else if on then
    if domOn s n then s
    else
      let s := fset (fset s HUSKY_PD_CMD__BUSY 1) HUSKY_PD_STATE__CHANGING 1 n
      { s with husky := { s.husky with requests := [⟨n, 1, true⟩] } }
  else
    let s := { s with husky := { s.husky with resumeOn := s.husky.resumeOn.filter fun m => m ≠ n } }
    if domOn s n then domainOff s n else s

/-- POWER_ON. [16_thermal_power.md R409] -/
def execPowerOn (n : Fin 325) (s : State) : Host.Outcome State Fault Refusal := .next (pdRequest s n true)

/-- POWER_OFF. [16_thermal_power.md R409] -/
def execPowerOff (n : Fin 325) (s : State) : Host.Outcome State Fault Refusal := .next (pdRequest s n false)

/-- The pending request ends. [16_thermal_power.md R409] -/
def pdDone (s : State) (n : Nat) : State :=
  let s := fset (fset s HUSKY_PD_CMD__BUSY 0) HUSKY_PD_STATE__CHANGING 0 n
  { s with husky := { s.husky with requests := [] } }

/-- A quad whose mode in force is 0 is held off. [13_network.md R314, Table 13.1] -/
def quadHeldOff (s : State) (n : Nat) : Bool :=
  decide (308 ≤ n) && decide (n < 312) && fget s KELPIE_PORT_STATUS__MODE (4 * (n - 308)) = 0

/-- A domain may be on: its parents are, an excluded tile never is, and a quad whose mode is 0 is held off (log 75).
[01_architecture.md R32; 13_network.md R314; 17_bringup.md R428] -/
def mayBeOn (s : State) (n : Nat) : Bool :=
  !quadHeldOff s n && !s.boot.excluded.contains n && (parentsOf n).all fun m => domOn s m

/-- The switching of a pending ON ends: the domain is up, or stays off where it may not be on any more; an orderly stop refuses it.
[01_architecture.md R32; 16_thermal_power.md R406, R409] -/
def pdArrive (s : State) (n : Nat) : State :=
  let s := pdDone s n
  if stopHeld s then pdErr s 6 else if mayBeOn s n && !domOn s n then domainUp s n else s

/-- The requests that came before what follows are applied first: all share one order. [16_thermal_power.md R409] -/
def settleRequests (s : State) : State := forS (s.husky.requests.filter fun r => r.op = 1) (fun r st => pdArrive st r.domain) s

/-- A domain is powered on by the device itself, after the requests that came before, where R32 lets it.
[01_architecture.md R32; 16_thermal_power.md R406, R409] -/
def stepPower (s : State) (n : Nat) : State :=
  let s := settleRequests s
  if pdState s n = 0 && !stopHeld s && mayBeOn s n then domainUp s n else s

/-- A domain is powered off by the device itself, after the requests that came before. [16_thermal_power.md R409] -/
def stepOff (s : State) (n : Nat) : State :=
  let s := settleRequests s
  if domOn s n then domainOff s n else s

/-- The static power of domain `n` fits the rise that RAMP still allows in these 100 µs. [16_thermal_power.md R397] -/
def powerFits (s : State) (n : Nat) : Bool := decide (Config.staticMw n ≤ s.husky.rampUp)

/-- A rise of power of `mw` is taken from what RAMP allows in these 100 µs. [16_thermal_power.md R397] -/
def takeUp (s : State) (mw : Nat) : State := { s with husky := { s.husky with rampUp := s.husky.rampUp - mw } }

/-- DOMAIN_ON: it waits while the rise of power does not fit RAMP. [16_thermal_power.md R397, R409] -/
def execDomainOn (n : Fin 325) (s : State) : Host.Outcome State Fault Refusal :=
  .next (match s.husky.requests with
    | r :: _ => if r.domain = n ∧ r.op = 1 ∧ powerFits s n then pdArrive (takeUp s (Config.staticMw n)) n else s
    | [] => s)

end Sys2Proof.Machine
end

