-- ==== Sys2Proof/Machine/Blood.lean ====
section
/-! DEFINITION. Bloodhound: fences, the recovery of a tile, weight parity, binding, region faults and draining a die
(15_fault_tolerance.md R363 to R380). -/

namespace Sys2Proof.Machine

/-! ### Fencing (R363, R364) -/

/-- A TILE_BAD record of a runtime fault. [15_fault_tolerance.md R364; 08_ecc_repair.md Table 8.6] -/
def tileBadRec (p : Nat) : Nat := repairRec 1 p 0 0 0 0 0 5

/-- Messages of a fenced tile that have not entered its router are not admitted. [15_fault_tolerance.md R363] -/
def stopPort (s : State) (p : Nat) : State :=
  let s := { s with msgs := s.msgs.filter fun m => !(m.src = .tile p && m.route.head? = some (tileIn p) && m.held.isNone) }
  if (tileOf s p).waiting.isEmpty then s else onTile s p fun t => { t with waiting := [] }

/-- The multicasts that wait at a fenced tile prune it. [15_fault_tolerance.md R363; 11_fabric.md R286] -/
def pruneFenced (s : State) (p : Nat) : State :=
  forS (s.msgs.filter fun m => m.dst = .tile p && m.typ = .spw && m.route.isEmpty) (fun m st => pruneCmd st p m) s

/-- A tile is fenced with a fault record: logged, posted, reported to Bloodhound; a fenced tile's report changes nothing.
[15_fault_tolerance.md R363, R364] -/
def fenceTile (s : State) (p code word info : Nat) : State :=
  if fenced s p then s
  else
    let g := p / 18
    let k := p % 18
    let s := rset (rset s REGION_FENCE_LOG word g) REGION_FENCE_INFO info g
    let s := fset (fset s REGION_FENCE__LAST_SLOT k g) REGION_FENCE__FENCED (setBits (fget s REGION_FENCE__FENCED g) k 1 1) g
    let s := pruneFenced (stopPort (bump s BH_FENCE_COUNT) p) p
    let s := postEvent s evtTileFenced (g + k * 2 ^ 4 + code * 2 ^ 16 + 2 ^ 24)
    let s := if code = 0x4D then s else logRecord s (tileBadRec p)
    sendMgmt s (.region g) .hub (.report k code 1)

/-- The region controller takes the oldest class H report of a tile. [04_tile_commands.md R116; 15_fault_tolerance.md R363] -/
def fenceStep (s : State) (p : Nat) : State :=
  match (tileOf s p).reports with
  | [] => s
  | r :: rest =>
    if !domOn s (288 + p / 18) then s
    else
      let s := onTile s p fun t => { t with reports := rest }
      fenceTile s p r.code (rget s TILE_FAULT p) (rget s TILE_FAULT_INFO p)

/-- FENCE. [15_fault_tolerance.md R363] -/
def execFence (p : Fin 288) (s : State) : Host.Outcome State Fault Refusal := .next (fenceStep s p)

/-! ### Recovery: QUIESCE and BIND (R370, R366, R374) -/

/-- STATE of Bloodhound. [15_fault_tolerance.md Table 15.8] -/
def bhState (s : State) : Nat := fget s BH_STATUS__STATE

/-- STATE of Bloodhound changes. -/
def setBh (s : State) (st : Nat) : State := fset s BH_STATUS__STATE st

/-- Every tile in RUN is aborted and ARM clears in every armed tile. [15_fault_tolerance.md R370] -/
def quiesceAll (s : State) : State :=
  forS (List.range 288) (fun p st =>
    let st := if tileState st p = 1 then abortWrite st p else st
    if fbit st TILE_COLLIE_CTRL__ARM p then fset st TILE_COLLIE_CTRL__ARM 0 p else st) s

/-- Bloodhound takes the oldest fence report, none while a stop holds. A report about a tile that no logical tile is bound to needs
no recovery. [15_fault_tolerance.md R370, R375; 16_thermal_power.md R406] -/
def quiesceStep (s : State) : State :=
  match s.blood.reports with
  | [] => s
  | r :: rest =>
    if bhState s ≠ 0 || !fbit s BH_CTRL__RECOVER_EN || devFailed s || stopHeld s then s
    else
      let p := r.region * 18 + r.slot
      let s := updQueued { s with blood := { s.blood with reports := rest } }
      let start := fun (lt : Nat) (sb : Option Nat) (src : Nat) =>
        let s := { s with blood := { s.blood with recov := some ⟨{ r with again := none }, some lt, sb, src, false, 0, 0, 0⟩ } }
        quiesceAll (setBh (fset s BH_STATUS__LOST p) 1)
      match r.again with
      | some x => start x.1 x.2.1 x.2.2
      | none =>
        match logOf s p with
        | none => s
        | some lt => start lt none p

/-- QUIESCE. [15_fault_tolerance.md R370] -/
def execQuiesce (s : State) : Host.Outcome State Fault Refusal := .next (if compUp s 2 then quiesceStep s else s)

/-- Every powered tile is QUIET, fenced or not. [15_fault_tolerance.md R370] -/
def allQuiet (s : State) : Bool := (List.range 288).all fun p => !tileRuns s p || fbit s TILE_COLLIE_STATUS__QUIET p

/-- The lowest standby slot of a region whose tile is not fenced. [15_fault_tolerance.md R366] -/
def standbySlot (s : State) (g : Nat) : Option Nat :=
  (List.range 18).find? fun k => bitOf (fget s REGION_STANDBY__MASK g) k && !fenced s (g * 18 + k)

/-- The recovery ends. [15_fault_tolerance.md R370, R374] -/
def endRecovery (s : State) : State := setBh { s with blood := { s.blood with recov := none } } 0

/-- The standby is bound and the rebuild of Agate starts. [15_fault_tolerance.md R366, R370] -/
def bindTo (s : State) (lt g k : Nat) : State :=
  let s := fset s REGION_STANDBY__MASK (setBits (fget s REGION_STANDBY__MASK g) k 1 0) g
  let s := fset s REGION_BIND__SLOT k g (lt % 18)
  let s := fset s REGION_FENCE__REBUILDING (setBits (fget s REGION_FENCE__REBUILDING g) k 1 1) g
  let s := { s with blood := { s.blood with recov := s.blood.recov.map fun r => { r with standby := some (g * 18 + k) } } }
  rebuildWrite (setBh (fset s BH_STATUS__STANDBY (g * 18 + k)) 3)

/-- BIND, once every tile is QUIET and Agate is free. A recovery that starts again keeps the standby it had bound. [15_fault_tolerance.md R366, R370, R374, R375] -/
def bindStep (s : State) : State :=
  match s.blood.recov with
  | none => s
  | some r =>
    if !(bhState s = 1 || bhState s = 2) || !allQuiet s || agateState s ≠ 0 then s
    else
      let lt := r.ltile.getD 0
      let kept := r.standby.filter fun b => !fenced s b
      match (kept.map fun b => b % 18).or (standbySlot s (lt / 18)) with
      | some k => bindTo s lt (lt / 18) k
      | none => endRecovery (capReduced s r.rep.region r.rep.slot)

/-- BIND. [15_fault_tolerance.md R366] -/
def execBhBind (s : State) : Host.Outcome State Fault Refusal := .next (if compUp s 2 then bindStep s else s)

/-! ### Parity groups (R367 to R369) -/

/-- An Agate entry as a master reads it, or one that is not VALID. [10_attention_kv.md R241] -/
def entryAt (s : State) (i : Nat) : Nat := (entDecode (bankGet s false i)).getD 0

/-- The 16 entries of a group. [15_fault_tolerance.md R367] -/
def groupOf (s : State) (n : Nat) : List (Nat × Nat) := (List.range 16).map fun k => (16 * n + k, entryAt s (16 * n + k))

/-- The group is not one of parity: every entry is of KIND 0 or 3. [15_fault_tolerance.md R367] -/
def noGroup (l : List (Nat × Nat)) : Bool := l.all fun x => entKind x.2 = 0 || entKind x.2 = 3

/-- The group is well formed. [15_fault_tolerance.md R367] -/
def goodGroup (l : List (Nat × Nat)) : Bool :=
  (l.all fun x => entValid x.2 && entWp x.2) && (l.filter fun x => entKind x.2 = 1).length = 15
    && (l.filter fun x => entKind x.2 = 2).length = 1 && (l.map fun x => entTile x.2 / 18).eraseDups.length = 16

/-- A read of a whole window by the sequencer of tile `t` and its answer, in flits of the die links (log 9). [11_fabric.md R274;
15_fault_tolerance.md R369] -/
def seqFlits (s : State) (t q n : Nat) : State :=
  crossLinks (crossLinks s (routeOf s (.tile t) (.tile q)) 7 1 true) (routeOf s (.tile q) (.tile t)) 7 n false

/-- Window `i` of an entry's page read by the sequencer of tile `t`: cause 2 where the read fails, 3 where a sector is tagged.
[15_fault_tolerance.md R368, R369; 11_fabric.md R282] -/
def memberWin (s : State) (t e i : Nat) : State × Nat × List Sector :=
  let q := entTile e
  let cause := hubCause s q (entChan e)
  if !entValid e then (s, 2, [])
  else if cause ≠ 0 then (countNoep (if cause = 5 then s else seqFlits s t q 1), 2, [])
  else
    let r := hubReadWin (seqFlits s t q (dataFlits 64)) q (entChan e) 7 (entPage e * 1024 + i) (2 ^ 64 - 1)
    (r.1, if firstTag r.2 ≠ 0 then 3 else 0, r.2)

/-- Two windows merged, sector by sector. [15_fault_tolerance.md R369] -/
def xorWin (a b : List Sector) : List Sector := a.zipWith mergeSec b

/-- A window of zeros with one tag. -/
def zeroWin (tag : Nat) : List Sector := (List.range 64).map fun i => ⟨i, List.replicate 32 0, tag⟩

/-- One window of some entries, or the first cause met. [15_fault_tolerance.md R367, R368] -/
def readMembers (q i : Nat) : List Nat → State → State × Nat × List (List Sector)
  | [], s => (s, 0, [])
  | e :: es, s =>
    let r := memberWin s q e i
    if r.2.1 ≠ 0 then (r.1, r.2.1, [])
    else
      let t := readMembers q i es r.1
      (t.1, t.2.1, r.2.2 :: t.2.2)

/-- Every window of some entries, window by window, or the first cause met. [15_fault_tolerance.md R368] -/
def readPages (q : Nat) (es : List Nat) : List Nat → State → State × Nat × List (List (List Sector))
  | [], s => (s, 0, [])
  | i :: is, s =>
    let r := readMembers q i es s
    if r.2.1 ≠ 0 then (r.1, r.2.1, [])
    else
      let t := readPages q es is r.1
      (t.1, t.2.1, r.2.2 :: t.2.2)

/-- The XOR of some windows. [15_fault_tolerance.md R367] -/
def xorAll (l : List (List Sector)) : List Sector := l.foldl xorWin (zeroWin 0)

/-- A burst of the sequencer of the vault of entry `e` to window `i` of its page: a remote write of class 7 that the channel
accepts, plain or merging; a channel that is mapped out takes none (log 76).
[15_fault_tolerance.md R369; 07_vaults.md R170, R175, R184] -/
def seqBurst (merge : Bool) (s : State) (e i : Nat) (secs : List Sector) : State :=
  let f := fresh s
  if chanOut s (entTile e) (entChan e) then s
  else acceptBurst f.1 (entTile e) (entChan e)
    ⟨f.2, true, 2, 7, entPage e * 1024 + i, 2 ^ 64 - 1, secs, .none, none, false, 0, 0, 0, false, merge⟩

/-- A window of an entry's page written by the sequencer of its vault; the row is sealed. [15_fault_tolerance.md R369] -/
def putWin (s : State) (e i : Nat) (secs : List Sector) : State := seqBurst false s e i secs

/-- A window written from the first of some windows and merged with the others in order. [15_fault_tolerance.md R369, R370] -/
def mergeAll (s : State) (e i : Nat) : List (List Sector) → State
  | [] => s
  | m :: ms => forS ms (fun x st => seqBurst true st e i x) (putWin s e i m)

/-- A parity command stops at a group. [15_fault_tolerance.md R368] -/
def parityErr (s : State) (n cause : Nat) : State :=
  fset (fset (fset s BH_PARITY_STATUS__ERR 1) BH_PARITY_STATUS__CAUSE cause) BH_PARITY_STATUS__BAD_GROUP n

/-- The vault of a group's parity page, whose sequencer does the work, answers nobody. [15_fault_tolerance.md R363, R368] -/
def parityShut (s : State) (l : List (Nat × Nat)) : Bool :=
  l.any fun x => entKind x.2 = 2 && hubCause s (entTile x.2) (entChan x.2) ≠ 0

/-- The tile of a group's parity page. [15_fault_tolerance.md R369] -/
def parityTile (l : List (Nat × Nat)) : Nat := ((l.find? fun x => entKind x.2 = 2).map fun x => entTile x.2).getD 0

/-- BUILD or VERIFY of one group; false where the command stops. A page of parity that cannot be reached stops BUILD as a member
read that fails (log 42). [15_fault_tolerance.md R368] -/
def parityGroup (build : Bool) (s : State) (n : Nat) : State × Bool :=
  let l := groupOf s n
  if 32768 ≤ n then (parityErr s n 1, false)
  else if noGroup l then (s, true)
  else if !goodGroup l then (parityErr s n 1, false)
  else if parityShut s l then (parityErr s n 2, false)
  else
    let es := (l.filter fun x => !build || entKind x.2 = 1).map fun x => x.2
    let r := readPages (parityTile l) es (List.range 1024) s
    if r.2.1 ≠ 0 then (parityErr r.1 n r.2.1, false)
    else if build then
      match l.find? fun x => entKind x.2 = 2 with
      | some x => (forS r.2.2.zipIdx (fun w st => mergeAll st x.2 w.2 w.1) r.1, true)
      | none => (r.1, true)
    else if r.2.2.any fun w => (xorAll w).any fun z => z.data.any fun b => b ≠ 0 then
      (fset r.1 BH_PARITY_STATUS__MISMATCH (fget r.1 BH_PARITY_STATUS__MISMATCH + 1), true)
    else (r.1, true)

/-- The groups of a parity command in order. [15_fault_tolerance.md R368] -/
def parityGroups (build : Bool) : List Nat → State → State
  | [], s => s
  | n :: ns, s =>
    let r := parityGroup build s n
    if r.2 then parityGroups build ns r.1 else r.1

/-- A parity command over its range of groups. [15_fault_tolerance.md R368] -/
def parityCmd (build : Bool) (s : State) : State :=
  let s := fset s BH_PARITY_STATUS__MISMATCH 0
  let first := fget s BH_PARITY_CMD__FIRST_GROUP
  parityGroups build ((List.range (fget s BH_PARITY_CMD__COUNT)).map fun i => first + i) s

/-- PARITY_BUILD. [15_fault_tolerance.md R368] -/
def execParityBuild (s : State) : Host.Outcome State Fault Refusal := .next (parityCmd true s)

/-- PARITY_VERIFY. [15_fault_tolerance.md R368] -/
def execParityVerify (s : State) : Host.Outcome State Fault Refusal := .next (parityCmd false s)

/-! ### The KV scan (R372) -/

/-- The page of an address lies on tile `b`. [15_fault_tolerance.md R372] -/
def pageOn (s : State) (b va : Nat) : Bool :=
  let e := entryAt s (vaIndex va)
  entValid e && entTile e = b

/-- Some page of [va, va + n) lies on tile `b`. [15_fault_tolerance.md R372] -/
def rangeOn (s : State) (b va n : Nat) : Bool :=
  n ≠ 0 && (List.range ((va + n - 1) / 2 ^ 21 - va / 2 ^ 21 + 1)).any fun i => pageOn s b ((va / 2 ^ 21 + i) * 2 ^ 21)

/-- A replay record is written, or OVF is set. [15_fault_tolerance.md R372, Table 15.3] -/
def addReplay (s : State) (w : Nat) : State :=
  let n := fget s BH_REPLAY_STATUS__COUNT
  let s := { s with blood := { s.blood with recov := s.blood.recov.map fun r => { r with records := r.records + 1 } } }
  if n < fget s BH_REPLAY_CFG__CAP then
    fset (hubWrite s (fget s BH_REPLAY_CFG__VA * 16 + 16 * n) (leBytes 16 w) 0 7).1 BH_REPLAY_STATUS__COUNT (n + 1)
  else fset s BH_REPLAY_STATUS__OVF 1

/-- The tails of a head are lowered to `len` and its pages beyond are returned to their pool, as TRUNCATE does; it changes
nothing while Topaz is not enabled or where a page entry is tagged. [10_attention_kv.md R253, R254, Table 10.11;
15_fault_tolerance.md R372] -/
def truncateHead (s : State) (seq va h len : Nat) : State :=
  let z := pagesFrom h 4096 (ceilDiv len 256) s
  match z.2 with
  | none => seqPoison z.1 seq
  | some l =>
    let s := topazWrite z.1 va 32 (setBits (setBits h 0 21 len) 32 21 len)
    forS l (fun y st => poolPush (topazWrite st (pentVa h y.1) 8 (setBits y.2 9 1 0)) (bitsOf h 64 9) (bitsOf y.2 16 32)) s

/-- One head of a sequence: truncated at its lowest page on the standby. [15_fault_tolerance.md R372; 10_attention_kv.md R254] -/
def scanHead (s : State) (b seq : Nat) (x : Nat × Nat × Nat × Nat) : State :=
  let h := x.2.2.2
  let z := pagesFrom h 4096 0 s
  match z.2 with
  | none => seqPoison z.1 seq
  | some l => match l.find? fun y => pageOn z.1 b (bitsOf y.2 16 32 * 65536) with
    | none => z.1
    | some y =>
      let len := min (256 * y.1) (min (tailOf h 0) (tailOf h 1))
      let s := if fbit z.1 TOPAZ_CTRL__ENABLE then truncateHead z.1 seq x.2.2.1 h len else z.1
      addReplay s (seq + x.1 * 2 ^ 24 + x.2.1 * 2 ^ 32 + len * 2 ^ 36)

/-- The head records of sequence `seq` that can be read, as (LAYER, KVHEAD, address, record). [10_attention_kv.md R254] -/
def readHeads (seq d : Nat) : List (Nat × Nat) → State → State × List (Nat × Nat × Nat × Nat)
  | [], s => (s, [])
  | x :: xs, s =>
    let va := headVa d x.1 x.2
    let r := topazRead s va 32
    match r.2 with
    | some h =>
      let t := readHeads seq d xs r.1
      (t.1, (x.1, x.2, va, h) :: t.2)
    | none => readHeads seq d xs (seqPoison r.1 seq)

/-- One descriptor of the walk. [15_fault_tolerance.md R372; 10_attention_kv.md R254] -/
def scanSeq (b seq : Nat) (s : State) : State :=
  let r := readDesc s seq
  match r.2 with
  | none => seqPoison r.1 seq
  | some d =>
    if dState d ≠ 1 then r.1
    else
      let n := 32 * dLayers d * dHeads d
      let lost := addReplay r.1 (seq + 2 ^ 20)
      if rangeOn r.1 b (bitsOf d 64 48) n || rangeOn r.1 b (bitsOf d 128 48) (4 * bitsOf d 192 32) then lost
      else
        let hs := (List.range (dLayers d)).flatMap fun l => (List.range (dHeads d)).map fun k => (l, k)
        let z := readHeads seq d hs r.1
        if z.2.any fun x => rangeOn z.1 b (pentVa x.2.2.2 0) (8 * bitsOf x.2.2.2 128 13) then addReplay z.1 (seq + 2 ^ 20)
        else forS z.2 (fun x st => scanHead st b seq x) z.1

/-- The walk over the sequence table, page by page. [15_fault_tolerance.md R372] -/
def kvScan (s : State) (b : Nat) : State :=
  forS (List.range 32) (fun t st =>
    if pageOn st b (descVa st (t * 32768)) then addReplay st (t * 32768 + 2 * 2 ^ 20)
    else forS (List.range 32768) (fun i u => scanSeq b (t * 32768 + i) u) st) s

/-! ### REBUILD and RELEASE (R370) -/

/-- Indices of the Agate entries that name tile `b`, from index `i` on. [15_fault_tolerance.md R370] -/
def entriesOn (s : State) (b i : Nat) : List Nat :=
  let bank := if activeBank s then s.agate.bank1 else s.agate.bank0
  (bank.filter fun x => i ≤ x.1 && entValid (entryAt s x.1) && entTile (entryAt s x.1) = b).map fun x => x.1

/-- A window that cannot be recovered: zeros with tag X, counted. [15_fault_tolerance.md R370] -/
def loseWin (s : State) (e i : Nat) : State :=
  let s := bump (putWin s e i (zeroWin 3)) BH_PARITY_LOST_COUNT
  { s with blood := { s.blood with recov := s.blood.recov.map fun r => { r with lost := r.lost + 1 } } }

/-- One window of a page being rebuilt. [15_fault_tolerance.md R369, R370] -/
def rebuildWin (s : State) (e : Nat) (others : List Nat) (i : Nat) : State :=
  let s := bump s BH_REBUILD_WINDOW_COUNT
  if entKind e = 1 || entKind e = 2 then
    let r := readMembers (entTile e) i others s
    if r.2.1 ≠ 0 then loseWin r.1 e i else mergeAll r.1 e i r.2.2
  else putWin s e i (zeroWin 3)

/-- One page of the standby is rebuilt. [15_fault_tolerance.md R370] -/
def rebuildPage (s : State) (idx : Nat) : State :=
  let e := entryAt s idx
  let others := ((groupOf s (idx / 16)).filter fun x => x.1 ≠ idx).map fun x => x.2
  forS (List.range 1024) (fun i st => rebuildWin st e others i) s

/-- REBUILD: it begins once the swap is complete, with the KV scan, and then takes one page at a time.
[15_fault_tolerance.md R370, R372] -/
def rebuildStep (s : State) : State :=
  match s.blood.recov with
  | none => s
  | some r =>
    let b := r.standby.getD 0
    if bhState s = 3 && r.swapped then
      let s := setBh (rset s BH_REPLAY_STATUS 0) 4
      let s := { s with blood := { s.blood with recov := some { r with next := 0, lost := 0, records := 0 } } }
      kvScan (fset s BH_STATUS__PAGES_LEFT (entriesOn s b 0).length) b
    else if bhState s = 4 then
      match entriesOn s b r.next with
      | [] => fset s BH_STATUS__PAGES_LEFT 0
      | i :: rest =>
        let s := rebuildPage s i
        let s := { s with blood := { s.blood with recov := s.blood.recov.map fun r => { r with next := i + 1 } } }
        fset s BH_STATUS__PAGES_LEFT rest.length
    else s

/-- REBUILD. [15_fault_tolerance.md R370] -/
def execBhRebuild (s : State) : Host.Outcome State Fault Refusal := .next (if compUp s 2 then rebuildStep s else s)

/-- A channel of the vault of tile `b` still holds bursts. [15_fault_tolerance.md R370] -/
def vaultBusy (s : State) (b : Nat) : Bool :=
  (List.range 8).any fun c => !((chanOf s b c).queue.isEmpty && (chanOf s b c).flight.isEmpty)

/-- RELEASE, once no page is left and the sequencer's bursts are done. [15_fault_tolerance.md R370] -/
def releaseStep (s : State) : State :=
  match s.blood.recov with
  | none => s
  | some r =>
    if bhState s ≠ 4 || fget s BH_STATUS__PAGES_LEFT ≠ 0 || vaultBusy s (r.standby.getD 0) then s
    else
      let b := r.standby.getD 0
      let lt := r.ltile.getD 0
      let s := fset s REGION_FENCE__REBUILDING (setBits (fget s REGION_FENCE__REBUILDING (b / 18)) (b % 18) 1 0) (b / 18)
      let s := if r.lost = 0 then s else postEvent s evtParityLost (lt + r.lost * 2 ^ 32)
      let s := postEvent (bump s BH_RECOVERY_COUNT) evtRecoveryDone
        (lt + b * 2 ^ 9 + fget s BH_REPLAY_STATUS__COUNT * 2 ^ 32 + r.lost * 2 ^ 64)
      endRecovery s

/-- RELEASE. [15_fault_tolerance.md R370] -/
def execBhRelease (s : State) : Host.Outcome State Fault Refusal := .next (if compUp s 2 then releaseStep s else s)

/-- The rebuild of Agate for a recovery that stops is aborted. [15_fault_tolerance.md R375; 16_thermal_power.md R406] -/
def dropRebuild (s : State) : State := if agateState s = 0 ∨ agateState s = 4 then s else abortRebuild s

/-- An orderly stop cuts a recovery short: the rebuild of Agate is aborted and the report queued again; a standby already
bound stays shut. [16_thermal_power.md R406; 15_fault_tolerance.md R370] -/
def cutRecovery (s : State) : State :=
  match s.blood.recov with
  | none => s
  | some r =>
    let rep := { r.rep with again := some (r.ltile.getD 0, r.standby, srcAgain s r) }
    endRecovery (updQueued (dropRebuild { s with blood := { s.blood with reports := rep :: s.blood.reports } }))

/-- A restart of Bloodhound takes a recovery in progress back to QUIESCE. [18_host_firmware.md R454] -/
def againRecovery (s : State) : State :=
  match s.blood.recov with
  | none => s
  | some r =>
    let s := { s with blood := { s.blood with recov := some { r with src := srcAgain s r, swapped := false } } }
    quiesceAll (setBh (dropRebuild s) 1)

/-! ### The binding table and the standby set (R365) -/

/-- Physical slots bound in region `g`. [15_fault_tolerance.md R365] -/
def boundSlots (s : State) (g : Nat) : List Nat :=
  ((List.range 18).filter fun k => fbit s REGION_BIND__BOUND g k).map fun k => fget s REGION_BIND__SLOT g k

/-- Slots of the standby set of region `g`. [15_fault_tolerance.md R365] -/
def standbySlots (s : State) (g : Nat) : List Nat := (List.range 18).filter fun k => bitOf (fget s REGION_STANDBY__MASK g) k

/-- A state of the two registers that R365 forbids. [15_fault_tolerance.md R365] -/
def bindBad (s : State) (g : Nat) : Bool :=
  let bs := boundSlots s g
  let ss := standbySlots s g
  ((bs ++ ss).any fun k => !tileGood s (g * 18 + k) || fenced s (g * 18 + k))
    || bs.eraseDups.length ≠ bs.length
    || (ss.any fun k => bs.contains k || !fbit s TILE_VAULT_STATUS__TRAINED (g * 18 + k))

/-- No binding may change now. [15_fault_tolerance.md R365] -/
def bindBusy (s : State) (g : Nat) : Bool :=
  bhState s ≠ 0 || (List.range 18).any fun k =>
    let p := g * 18 + k
    tileState s p = 1 || tileState s p = 2 || fbit s TILE_COLLIE_CTRL__ARM p

/-- A write of either register: applied where it may be, else discarded with BIND_ERR. [15_fault_tolerance.md R365] -/
def bindApply (s : State) (g : Nat) (t : State) (outOfRange : Bool) : State :=
  if !domOn s (288 + g) then s
  else if bindBusy s g || outOfRange || bindBad t g then fset s REGION_FENCE__BIND_ERR 1 g
  else t

/-- A write of REGION_BIND. [15_fault_tolerance.md R365] -/
def bindWrite (s : State) (g k v : Nat) : State :=
  let t := fset (fset s REGION_BIND__SLOT (bitsOf v 0 5) g k) REGION_BIND__BOUND (bitsOf v 8 1) g k
  bindApply s g t (bitOf v 8 && decide (18 ≤ bitsOf v 0 5))

/-- A write of REGION_STANDBY. [15_fault_tolerance.md R365] -/
def standbyWrite (s : State) (g v : Nat) : State := bindApply s g (fset s REGION_STANDBY__MASK (v % 2 ^ 18) g) false

/-- REGION_BIND_WRITE. [15_fault_tolerance.md R365] -/
def execRegionBindWrite (g : Fin 16) (k : Fin 18) (v : BitVec 64) (s : State) : Host.Outcome State Fault Refusal :=
  .next (bindWrite s g k v.toNat)

/-- REGION_STANDBY_WRITE. [15_fault_tolerance.md R365] -/
def execRegionStandbyWrite (g : Fin 16) (v : BitVec 64) (s : State) : Host.Outcome State Fault Refusal :=
  .next (standbyWrite s g v.toNat)

/-! ### Region faults (R377) -/

/-- The standby of the recovery in progress lies in region `g`. [15_fault_tolerance.md R375] -/
def standbyIn (s : State) (g : Nat) : Bool :=
  match s.blood.recov with
  | some r => match r.standby with
    | some b => b / 18 = g
    | none => false
  | none => false

/-- A region fault. [15_fault_tolerance.md R377] -/
def regionFail (s : State) (g code : Nat) : State :=
  if fbit s REGION_FAULT__VALID g || fbit s REGION_FENCE__REGION_FENCED g then s
  else
    let s := fset (fset s REGION_FAULT__VALID 1 g) REGION_FAULT__CODE code g
    let s := quiesceAll s
    let tiles := (List.range 18).map fun k => g * 18 + k
    let fresh_ := tiles.filter fun p => !fenced s p
    let again := standbyIn s g
    let s := fset (fset s REGION_FENCE__FENCED (2 ^ 18 - 1) g) REGION_FENCE__REGION_FENCED 1 g
    let s := forS fresh_ (fun p st => pruneFenced (stopPort st p) p) (bumpN s BH_FENCE_COUNT fresh_.length)
    let s := postEvent s evtRegionFenced (g + code * 2 ^ 8)
    let s := capReduced s g 0x1F
    let s := forS (tiles.filter fun p => tileGood s p) (fun p st => logRecord st (tileBadRec p)) s
    if again then
      match s.blood.recov with
      | some r => takeReport s g ((r.standby.getD 0) % 18) 0
      | none => s
    else s

/-- REGION_FAULT. [15_fault_tolerance.md R377] -/
def execRegionFault (g : Fin 16) (code : BitVec 8) (s : State) : Host.Outcome State Fault Refusal :=
  .next (if 1 ≤ code.toNat ∧ code.toNat ≤ 3 then regionFail s g code.toNat else s)

/-- LINK_RETRAIN; an Onyx link that goes DOWN is a fault of its region. [11_fabric.md R281, R294; 15_fault_tolerance.md R377] -/
def execLinkRetrain (l : Fin 1794) (ok : Bool) (rate : Fin 6) (s : State) : Host.Outcome State Fault Refusal :=
  .next (if !retraining s l then s
    else if ok then retrained s l rate
    else if l.val < 18 then retrainFailed s l
    else regionFail (retrainFailed s l) (onyxRegion l) 2)

/-! ### Draining a die (R380) -/

/-- STATE of die `d` in BH_DIE_STATUS. [15_fault_tolerance.md Table 15.8] -/
def dieState (s : State) (d : Nat) : Nat := bitsOf (rget s BH_DIE_STATUS) (4 * d) 3

/-- STATE of die `d` changes. -/
def setDie (s : State) (d st : Nat) : State := rset s BH_DIE_STATUS (setBits (rget s BH_DIE_STATUS) (4 * d) 3 st)

/-- The tiles of a die. [01_architecture.md R25] -/
def dieTiles (d : Nat) : List Nat := (List.range 72).map fun i => d * 72 + i

/-- Cause with which a DRAIN is refused, 0 for none. [15_fault_tolerance.md R380] -/
def drainRefuse (s : State) (d : Nat) : Nat :=
  if (dieTiles d).any fun p => tileState s p = 1 || tileState s p = 2 || fbit s TILE_COLLIE_CTRL__ARM p then 1
  else if (if activeBank s then s.agate.bank1 else s.agate.bank0).any fun x =>
    entValid (entryAt s x.1) && decide (entTile (entryAt s x.1) / 72 = d) then 2
  else if bhState s ≠ 0 || (List.range 4).any fun e => dieState s e = 1 || dieState s e = 3 then 3
  else if dieState s d ≠ 0 then 3
  else 0

/-- A die command is refused with a cause. [15_fault_tolerance.md R380] -/
def dieErr (s : State) (cause : Nat) : State := fset (fset s BH_DIE_STATUS__ERR 1) BH_DIE_STATUS__CAUSE cause

/-- DRAIN. [15_fault_tolerance.md R380] -/
def drainWrite (s : State) (d : Nat) : State :=
  if drainRefuse s d ≠ 0 then dieErr s (drainRefuse s d) else setDie s d 1

/-- DRAIN. [15_fault_tolerance.md R380] -/
def execDieDrain (d : Fin 4) (s : State) : Host.Outcome State Fault Refusal := .next (drainWrite s d)

/-- An end of a message lies on die `d`. -/
def endOnDie (d : Nat) (e : End) : Bool :=
  match endRegion e with
  | some g => g / 4 = d
  | none => false

/-- No request to or from die `d` is outstanding. [15_fault_tolerance.md R380] -/
def dieIdle (s : State) (d : Nat) : Bool :=
  !(s.msgs.any fun m => endOnDie d m.src || endOnDie d m.dst)
    && !(s.chans.any fun x => x.1 / 576 = d && !(x.2.queue.isEmpty && x.2.flight.isEmpty && x.2.recov.isEmpty))

/-- The three bridges of a die go DOWN at both ends. [15_fault_tolerance.md R379, R380; 11_fabric.md R270] -/
def bridgesDown (s : State) (d : Nat) : State :=
  forS [2 * d, 8 + 2 * d, 8 + 2 * ((d + 3) % 4)] (fun l st => if linkState st (l / 2) = 0 then st else linkGone st l) s

/-- The tile, bank-edge, region and spine domains of a die that are on go off, children first. [15_fault_tolerance.md R380] -/
def dieDomains (d : Nat) : List Nat :=
  dieTiles d ++ (List.range 4).filterMap (fun i => if 8 ≤ 4 * d + i then some (309 + 4 * d + i) else none)
    ++ (List.range 4).map (fun i => 288 + 4 * d + i) ++ [304 + d]

/-- A drained die goes off. [15_fault_tolerance.md R380] -/
def drainedStep (s : State) (d : Nat) : State :=
  if dieState s d = 1 && dieIdle s d then
    let s := bridgesDown s d
    let s := forS (dieDomains d) (fun n st => stepOff st n) s
    postEvent (setDie s d 2) evtDieDrained d
  else s

/-- DIE_DRAINED. [15_fault_tolerance.md R380] -/
def execDieDrained (d : Fin 4) (s : State) : Host.Outcome State Fault Refusal := .next (drainedStep s d)

/-! ### Isolation of a die (R378) -/

/-- A die isolates itself: its units are held in reset, what they hold is lost, and its bridges go idle.
[15_fault_tolerance.md R378] -/
def isolateDie (s : State) (d : Nat) : State :=
  if s.blood.isolated.contains d then s
  else
    let s := { s with blood := { s.blood with isolated := d :: s.blood.isolated } }
    let s := forS (dieTiles d) (fun p st => loseTile st p) s
    forS ((List.range 4).map fun i => 4 * d + i) (fun g st => loseRegion st g) s

/-- CLOCK_LOSS. [15_fault_tolerance.md R378] -/
def execClockLoss (d : Fin 4) (s : State) : Host.Outcome State Fault Refusal :=
  .next (if domOn s (304 + d) then isolateDie s d else s)

end Sys2Proof.Machine
end

