-- ==== Sys2Proof/Machine/HostRing.lean ====
section
/-! DEFINITION. The failure of the device and the loss of a compute die (15_fault_tolerance.md R379). -/

namespace Sys2Proof.Machine

/-! ### Commands that end together -/

/-- Every command in progress ends with one status. [15_fault_tolerance.md R379; 18_host_firmware.md R454] -/
def endAll (s : State) (status cause : Nat) : State :=
  let s := { s with host := { s.host with bar2 := s.host.bar2.filter fun a => a.copy.isNone } }
  forS s.host.cmds (fun c st => endCmd st c status cause 0) s

/-! ### The failure of the device (R379) -/

/-- The device fails, from step 3 of R379 onwards: the first device fault is recorded. [15_fault_tolerance.md R379] -/
def deviceFail (s : State) (code die cause : Nat) : State :=
  let s := if fbit s BH_DEV_FAULT__VALID then s
    else rset s BH_DEV_FAULT (1 + code * 2 ^ 8 + die * 2 ^ 16 + cause * 2 ^ 18)
  let s := quiesceAll (fset s BH_STATUS__DEV_FAILED 1)
  endAll (postEvent s evtDeviceFailed (die + code * 2 ^ 8 + cause * 2 ^ 16)) 6 0

/-- Requests of tile `q`, of its DMA commands and of its appends, that wait for an answer from die `d`, with their classes.
[15_fault_tolerance.md R379] -/
def pendOnDie (s : State) (q d : Nat) : List (Nat × Nat) :=
  let t := tileOf s q
  let on := fun (l : List Pend) (cls : Nat) => (l.filter fun x => x.region.any fun g => g / 4 = d).map fun x => (x.id, cls)
  t.qDma.flatMap (fun c => on c.pend (dClass c.desc)) ++ t.appends.flatMap fun a => on a.pend a.cls

/-- An answer to request `id` of tile `q` is on its way. -/
def answered (s : State) (q id : Nat) : Bool :=
  s.msgs.any fun m => m.dst = .tile q && (m.txn = id || m.subs.any fun x => x.2 = id)
    && (m.typ = .rdata || m.typ = .wack || m.typ = .noep)

/-- Step 2 of R379: outstanding requests to the die meet NOEP cause 5. [15_fault_tolerance.md R379] -/
def answerOutstanding (s : State) (d : Nat) : State :=
  forS ((s.tiles.map fun x => x.1).filter fun q => q / 72 ≠ d) (fun q st =>
    forS ((pendOnDie st q d).filter fun x => !answered st q x.1) (fun x u =>
      localNoep u (blankMsg 0 .rd 0 (.tile q) .hub x.2 none x.1) 5) st) s

/-- Requests from the customer die that a vault of die `d` holds. [15_fault_tolerance.md R379] -/
def custHeld (s : State) (d : Nat) : List Msg :=
  (s.chans.filter fun x => x.1 / 576 = d).flatMap fun x =>
    (x.2.queue ++ x.2.flight ++ x.2.recov.map fun r => r.burst).filterMap fun b => match b.req with
      | .remote m => if m.src = .cust then some m else none
      | _ => none

/-- Requests of the customer die that are on their way in die `d`. [15_fault_tolerance.md R379] -/
def custMoving (s : State) (d : Nat) : List Msg :=
  s.msgs.filter fun m => m.src = .cust && ((endRegion m.dst).any fun g => g / 4 = d) && (m.typ = .rd || m.typ = .wr || m.typ = .spw)

/-- Requests of the customer die to die `d` that have no answer meet NOEP cause 5, and what the die still holds of them is gone.
[15_fault_tolerance.md R379] -/
def answerCust (s : State) (d : Nat) : State :=
  let l := custMoving s d
  forS (custHeld s d ++ l) (fun m st => noepTo st m 5) (forS l (fun m st => takeMsg st m) s)

/-- Compute die `d` is lost. [15_fault_tolerance.md R379] -/
def loseDie (s : State) (d cause : Nat) : State :=
  let s := setDie (bridgesDown s d) d 4
  let s := isolateDie (answerCust (answerOutstanding s d) d) d
  deviceFail s 1 d cause

/-- What the hub must see to declare die `d` lost with a cause of Table 15.6: no clock from it, a reset outside a drain, its
hub bridge DOWN, or a fault of its spine domain. [15_fault_tolerance.md R378, R379, Table 15.6] -/
def lossSeen (s : State) (d cause : Nat) : Bool :=
  match cause with
  | 1 => s.blood.isolated.contains d
  | 2 => domOn s (304 + d)
  | 3 => linkState s d = 0
  | 4 => fget s HUSKY_PD_STATE__STATE (304 + d) = 3
  | _ => false

/-- DIE_LOST. [15_fault_tolerance.md R379] -/
def execDieLost (d : Fin 4) (cause : BitVec 4) (s : State) : Host.Outcome State Fault Refusal :=
  .next (if dieState s d = 0 && lossSeen s d cause.toNat then loseDie s d cause.toNat else s)

end Sys2Proof.Machine
end

