-- ==== Sys2Proof/Machine/Thermal.lean ====
section
/-! DEFINITION. Temperature sensors, hot spots, thresholds and the orderly stop (16_thermal_power.md R384 to R392, R399, R405 to
R407). Temperatures are whole numbers of 1/8 °C. -/

namespace Sys2Proof.Machine

/-- `s` with Husky changed by `f`. -/
def onHusky (s : State) (f : Husky → Husky) : State := { s with husky := f s.husky }

/-! ### Sensors (R384, R386) -/

/-- Die whose spine reads sensor `i`; none for a hub sensor. [16_thermal_power.md R384, Table 16.1] -/
def sensorDie (i : Nat) : Option Nat := if i < 864 then some (i / 216) else if i < 992 then some ((i - 864) / 32) else none

/-- Sensor `i` can be read. [16_thermal_power.md R384; 17_bringup.md R428] -/
def sensorOn (s : State) (i : Nat) : Bool :=
  !s.boot.deadSensors.contains i && match sensorDie i with
    | some d => domOn s (304 + d)
    | none => true

/-- TEMP of sensor `i`. [16_thermal_power.md R384] -/
def tempOf (s : State) (i : Nat) : Int := sext 12 (fget s HUSKY_SENSOR__TEMP i)

/-- RATE of sensor `i`. [16_thermal_power.md R384] -/
def rateOf (s : State) (i : Nat) : Int := sext 12 (fget s HUSKY_SENSOR__RATE i)

/-- Sensor `i` takes part in maxima and thresholds. [16_thermal_power.md R384] -/
def sensorValid (s : State) (i : Nat) : Bool := fbit s HUSKY_SENSOR__VALID i

/-- Sensor `i` is broken: it reads 115 °C and its rate 0; posted once. [16_thermal_power.md R386] -/
def breakSensor (s : State) (i : Nat) : State :=
  let s := fset (fset s HUSKY_SENSOR__TEMP 0x398 i) HUSKY_SENSOR__RATE 0 i
  if fbit s HUSKY_SENSOR__BROKEN i then s else postEvent (fset s HUSKY_SENSOR__BROKEN 1 i) evtSensorBroken i

/-- A raw reading outside −40 °C to 150 °C. [16_thermal_power.md R386] -/
def rawBroken (x : Int) : Bool := decide (x < -320) || decide (1200 < x)

/-- One sample of one sensor: its reading with the user offset, and the change from 20 samples earlier.
[16_thermal_power.md R384, R386; 17_bringup.md Table 17.7] -/
def sampleSensor (s : State) (i : Nat) (raw : Int) : State :=
  if !sensorOn s i then onHusky (fset s HUSKY_SENSOR__VALID 0 i) fun h => { h with hist := smDel h.hist i }
  else
    let s := fset s HUSKY_SENSOR__VALID 1 i
    if fbit s HUSKY_SENSOR__BROKEN i || rawBroken raw then breakSensor s i
    else
      let t := raw + smGet s.boot.sensorCal i 0
      let old := smGet s.husky.hist i []
      let r := match old[19]? with
        | some x => t - x
        | none => 0
      let s := onHusky s fun h => { h with hist := smSet h.hist i ((t :: old).take 20) }
      fset (fset s HUSKY_SENSOR__TEMP (ofInt 12 t) i) HUSKY_SENSOR__RATE (ofInt 12 r) i

/-- The change of a self-check lies outside 20 to 30 °C, or the check repeats the one before. [16_thermal_power.md R386] -/
def checkBroken (prev : Option (Int × Int)) (base swapped : Int) : Bool :=
  let d := if base ≤ swapped then swapped - base else base - swapped
  decide (d < 160) || decide (240 < d) || prev == some (base, swapped)

/-- The self-check of sensor `i`, once the monitor runs. [16_thermal_power.md R386; 17_bringup.md Table 17.8] -/
def selfCheck (s : State) (i : Nat) (base swapped : Int) : State :=
  if !s.husky.monOn || !sensorOn s i then s
  else
    let bad := rawBroken base || checkBroken (smFind s.husky.selfPrev i) base swapped
    let s := onHusky s fun h => { h with selfPrev := smSet h.selfPrev i (base, swapped) }
    if bad then breakSensor s i else s

/-- SENSOR_SELF_CHECK. [16_thermal_power.md R386] -/
def execSensorSelfCheck (i : Fin 1000) (base swapped : Int) (s : State) : Host.Outcome State Fault Refusal :=
  .next (selfCheck s i base swapped)

/-! ### Hot spots (R385, R387) -/

/-- The sensors of hot spot `h`. [16_thermal_power.md R385] -/
def spotSensors (h : Nat) : List Nat :=
  if h < 288 then [3 * h, 3 * h + 1]
  else if h < 576 then [3 * (h - 288) + 2]
  else if h < 704 then [864 + (h - 576)]
  else if h < 707 then [994 + 2 * (h - 704), 995 + 2 * (h - 704)]
  else if h = 707 then [992]
  else [993]

/-- The 709 hot spots. [16_thermal_power.md R385] -/
def allSpots : List Nat := List.range 709

/-- The highest value of `f` over a list with its first holder, none for the empty list. -/
def maxBy (f : Nat → Int) (l : List Nat) : Option (Nat × Int) :=
  l.foldl (fun a i => match a with
    | none => some (i, f i)
    | some x => if x.2 < f i then some (i, f i) else some x) none

/-- Valid sensors of a list. -/
def validOf (s : State) (l : List Nat) : List Nat := l.filter fun i => sensorValid s i

/-- Reading of hot spot `h`, none when none of its sensors is valid. [16_thermal_power.md R385] -/
def spotTemp (s : State) (h : Nat) : Option Int := (maxBy (tempOf s) (validOf s (spotSensors h))).map fun x => x.2

/-- Rate of hot spot `h`. [16_thermal_power.md R385] -/
def spotRate (s : State) (h : Nat) : Option Int := (maxBy (rateOf s) (validOf s (spotSensors h))).map fun x => x.2

/-- A DRAM-layer hot spot. [16_thermal_power.md R385] -/
def dramSpot (h : Nat) : Bool := decide (576 ≤ h) && decide (h < 704)

/-- The paired hot spots with their two sensors. [16_thermal_power.md R385] -/
def pairSpots : List Nat := List.range 288 ++ [704, 705, 706]

/-- The pair of hot spot `h` has differed by more than 6 °C for more than 10 ms: the lower sensor is suspect.
[16_thermal_power.md R387] -/
def pairStep (s : State) (h : Nat) : State :=
  match validOf s (spotSensors h) with
  | [a, b] =>
    let ta := tempOf s a
    let tb := tempOf s b
    if decide (ta - tb ≤ 48) && decide (tb - ta ≤ 48) then onHusky s fun x => { x with pairDiff := smDel x.pairDiff h }
    else
      let n := smGet s.husky.pairDiff h 0 + 1
      let s := onHusky s fun x => { x with pairDiff := smSet x.pairDiff h n }
      let lo := if ta < tb then a else b
      let hi := if ta < tb then b else a
      if 200 < n ∧ fbit s HUSKY_SENSOR__SUSPECT lo = false then
        postEvent (fset s HUSKY_SENSOR__SUSPECT 1 lo) evtSensorSuspect (lo + hi * 2 ^ 16)
      else s
  | _ => onHusky s fun x => { x with pairDiff := smDel x.pairDiff h }

/-! ### Maxima (R388) and bands (R171) -/

/-- The maximum of tile `p`. [16_thermal_power.md R388] -/
def tileMax (s : State) (p : Nat) : State :=
  match maxBy (tempOf s) (validOf s [3 * p, 3 * p + 1, 3 * p + 2]) with
  | some x => fset (fset s HUSKY_TILE__MAX (ofInt 12 x.2) p) HUSKY_TILE__SENSOR (x.1 - 3 * p) p
  | none => s

/-- The maximum of the tile sensors of region `g`. [16_thermal_power.md R388] -/
def logicMax (s : State) (g : Nat) : State :=
  match maxBy (tempOf s) (validOf s ((List.range 54).map fun k => 54 * g + k)) with
  | some x => fset (fset s REGION_THERM__LOGIC_MAX (ofInt 12 x.2) g) REGION_THERM__SLOT ((x.1 - 54 * g) / 3) g
  | none => s

/-- Band edge `k` of Table 7.4 in °C, lowered by user calibration: 0 B1 up, 1 B1 down, 2 B2 up, 3 B2 down.
[07_vaults.md Table 7.4; 17_bringup.md Table 17.7] -/
def bandEdgeOf (s : State) (k : Nat) : Nat :=
  smGet s.boot.bandEdge k (match k with
    | 0 => 85
    | 1 => 82
    | 2 => 95
    | _ => 92)

/-- The hold below an edge runs on, starts, or is off. [07_vaults.md R171] -/
def holdNext (s : State) (t : Int) (edge : Nat) (h : Option Nat) : Option Nat :=
  if t ≤ 8 * (edge : Int) then (match h with
    | some x => some x
    | none => some (now s)) else none

/-- The highest DRAM-layer reading of region `g` and the band it gives. [16_thermal_power.md R388; 07_vaults.md R171, R174] -/
def dramMax (s : State) (g : Nat) : State :=
  match maxBy (tempOf s) (validOf s ((List.range 8).map fun l => 864 + 8 * g + l)) with
  | none => s
  | some x =>
    let s := fset s REGION_DRAM_BAND__MAX_TEMP (ofInt 8 (x.2.fdiv 8)) g
    let s := fset s REGION_DRAM_BAND__MAX_LAYER ((x.1 - 864) % 8) g
    let s := onRegion s g fun r => { r with
      in1 := r.in1 || decide (8 * (bandEdgeOf s 0 : Int) ≤ x.2)
      in2 := r.in2 || decide (8 * (bandEdgeOf s 2 : Int) ≤ x.2)
      hold1 := holdNext s x.2 (bandEdgeOf s 1) r.hold1
      hold2 := holdNext s x.2 (bandEdgeOf s 3) r.hold2 }
    let r := regionOf s g
    fset (setBand s g (bandNow r)) REGION_DRAM_BAND__DOWN_PENDING (flag (downPending r)) g

/-- The maximum of the device. [16_thermal_power.md R388] -/
def devMax (s : State) : State :=
  match maxBy (tempOf s) (validOf s (List.range 1000)) with
  | some x => fset (fset s HUSKY_DEV_MAX__TEMP (ofInt 12 x.2)) HUSKY_DEV_MAX__SENSOR x.1
  | none => s

/-! ### The orderly stop (R405, R406) -/

/-- A pending device start starts nothing. [16_thermal_power.md R405] -/
def cancelStart (s : State) : State :=
  let s := fset s HUB_START__PENDING 0
  let s := { s with
    start := { s.start with s := none, left := 0 }
    msgs := s.msgs.filter fun m => match m.mg with
      | .start _ => false
      | _ => true }
  forS (List.range 16) (fun g st => if (regionOf st g).startS.isSome then onRegion st g fun r => { r with startS := none } else st) s

/-- The duty of every tile follows its duties. [16_thermal_power.md R393] -/
def updDuties (s : State) : State := forS (List.range 288) (fun p st => updDuty st p) s

/-- The orderly stop starts with `bits` of STOP_CAUSE; causes that arrive while one holds only add their bits.
[16_thermal_power.md R405, R406] -/
def orderlyStop (s : State) (bits : Nat) : State :=
  if stopHeld s then fset s HUSKY_STATUS__STOP_CAUSE (fget s HUSKY_STATUS__STOP_CAUSE ||| bits)
  else
    let s := bump (fset s HUSKY_STATUS__STOP_CAUSE bits) HUSKY_STOP_COUNT
    let s := onHusky s fun h => { h with stopAt := some (now s), stoppedAt := none }
    cutRecovery (cancelStart (quiesceAll (updDuties s)))

/-- HUSKY_STOP. [16_thermal_power.md R405] -/
def execHuskyStop (s : State) : Host.Outcome State Fault Refusal := .next (orderlyStop s 64)

/-- The tile and bank-edge domains that are on. [16_thermal_power.md R405] -/
def stopDomains (s : State) : List Nat :=
  (List.range 288 ++ (List.range 8).map fun i => 317 + i).filter fun n => domOn s n

/-- Step 3 of R405: the stop record. [16_thermal_power.md R405] -/
def stopRecord (s : State) : State :=
  let s := fset (rset s HUSKY_STOP_REC0 (now s)) HUSKY_STOP_REC1__CAUSE (fget s HUSKY_STATUS__STOP_CAUSE)
  let s := fset s HUSKY_STOP_REC1__TEMP (fget s HUSKY_DEV_MAX__TEMP)
  fset s HUSKY_STOP_REC1__SENSOR (fget s HUSKY_DEV_MAX__SENSOR)

/-- The power-on requests that are pending as the stop takes hold are refused. [16_thermal_power.md R406, R409] -/
def refusePending (s : State) : State :=
  forS (s.husky.requests.filter fun r => r.op = 1) (fun r st => pdErr (pdDone st r.domain) 6) s

/-- Step 4 of R405: tile and bank-edge domains go off, and no ON request outlives it. [16_thermal_power.md R405, R406] -/
def stopOff (s : State) : State :=
  let s := refusePending s
  let l := stopDomains s
  let s := forS l (fun n st => domainOff st n) (fset s HUSKY_STATUS__STATE 1)
  let s := onHusky s fun h => { h with stopAt := none, stoppedAt := some (now s), resumeOn := l ++ h.resumeOn.filter fun n => !l.contains n }
  postEvent (fset s HUSKY_STATUS__STATE 2) evtThermalStop (fget s HUSKY_STATUS__STOP_CAUSE)

/-- Steps 3 and 4 once every tile is QUIET or 200 µs have passed. [16_thermal_power.md R405] -/
def stopComplete (s : State) : State :=
  match s.husky.stopAt with
  | none => s
  | some t => if allQuiet s || decide (t + 200000 ≤ now s) then stopOff (stopRecord s) else s

/-- STOP_COMPLETE. [16_thermal_power.md R405] -/
def execStopComplete (s : State) : Host.Outcome State Fault Refusal := .next (stopComplete s)

/-- What RESUME needs: no hot spot above TJ_THROTTLE − 10 °C, no DRAM layer in B2, flow at 80 % of F for 1 s, no broken
sensor. [16_thermal_power.md R406] -/
def resumeOk (s : State) : Bool :=
  let lim : Int := 8 * ((fget s HUSKY_THRESH__TJ_THROTTLE : Int) - 10)
  (allSpots.all fun h => match spotTemp s h with
    | some t => decide (t ≤ lim)
    | none => true)
    && ((List.range 16).all fun g => fget s REGION_DRAM_BAND__BAND g ≠ 2)
    && (match s.husky.flowOkSince with
      | some t => decide (t + 1000000000 ≤ now s)
      | none => false)
    && ((List.range 1000).all fun i => !fbit s HUSKY_SENSOR__BROKEN i)

/-- A domain that waits for power after RESUME comes up where it may be on and the rise fits RAMP; a domain that may not, or that is
not off, waits no longer. [16_thermal_power.md R397, R406] -/
def resumeOne (n : Nat) (s : State) : State :=
  let gone := fun (st : State) => onHusky st fun h => { h with resumeOn := h.resumeOn.filter fun m => m ≠ n }
  if pdState s n ≠ 0 || !mayBeOn s n then gone s
  else if powerFits s n then gone (domainUp (takeUp s (Config.staticMw n)) n)
  else s

/-- While the device is in RUN, Husky powers the domains of a past stop back on, in order and within RAMP. [16_thermal_power.md R397, R406] -/
def resumeStep (s : State) : State := if stopHeld s then s else forS s.husky.resumeOn resumeOne s

/-- A write of RESUME = 1: what RAMP allows comes on at once, the rest with the next power estimates. [16_thermal_power.md R397, R406] -/
def resumeWrite (s : State) : State :=
  if s.husky.stopAt.isSome || !resumeOk s then fset s HUSKY_STATUS__ERR 1
  else updDuties (resumeStep (onHusky (fset s HUSKY_STATUS__STATE 0) fun h => { h with stoppedAt := none }))

/-- RESUME. [16_thermal_power.md R406] -/
def execHuskyResume (s : State) : Host.Outcome State Fault Refusal := .next (resumeWrite s)

/-! ### Thresholds (R389, R390, R399) -/

/-- Bits of STOP_CAUSE that hot spot `h` raises: reading, rate, DRAM layer, broken sensor. [16_thermal_power.md Table 16.2, R386] -/
def spotStop (s : State) (h : Nat) : Nat :=
  let l := validOf s (spotSensors h)
  let lim : Int := if dramSpot h then 841 else 8 * (fget s HUSKY_THRESH__TJ_STOP : Int)
  let ovf := l.any fun i => !fbit s HUSKY_SENSOR__BROKEN i && decide (lim ≤ tempOf s i)
  let fast := match spotRate s h with
    | some r => decide ((fget s HUSKY_THRESH__RATE_STOP : Int) < r)
    | none => false
  let broken := l.any fun i => fbit s HUSKY_SENSOR__BROKEN i
  (if ovf then (if dramSpot h then 4 else 1) else 0) + flag fast * 2 + flag broken * 8

/-- Throttle conditions of hot spot `h`: 0 reading, 1 rate. [16_thermal_power.md Table 16.2] -/
def spotThrottle (s : State) (h : Nat) : List Nat :=
  let hot := match spotTemp s h with
    | some t => !dramSpot h && decide (8 * (fget s HUSKY_THRESH__TJ_THROTTLE : Int) ≤ t)
    | none => false
  let fast := match spotRate s h with
    | some r => decide ((fget s HUSKY_THRESH__RATE_THR : Int) < r)
    | none => false
  (if hot then [0] else []) ++ (if fast then [1] else [])

/-- Tiles in the scope of hot spot `h`. [16_thermal_power.md R390] -/
def spotScope (h : Nat) : List Nat :=
  if h < 576 then [h % 288] else if dramSpot h then (List.range 18).map fun k => (h - 576) / 8 * 18 + k else []

/-- A throttle condition acts on its scope; its onset is counted and posted. Conditions are numbered 2 × spot + condition.
[16_thermal_power.md R390] -/
def throttleOne (s : State) (old : List Nat) (k : Nat) : State :=
  let h := k / 2
  let s := if old.contains k then s
    else postEvent (bump s HUSKY_THROTTLE_COUNT) evtThermThrottle (h + k % 2 * 2 ^ 10)
  if h < 704 then
    let lim := fget s HUSKY_THRESH__DUTY_THROTTLE
    forS (spotScope h) (fun p st => onTile st p fun t => { t with dutyThermal := min t.dutyThermal lim, coolSince := none }) s
  else onHusky s fun x => { x with demandMax := true }

/-- The conditions of one sample take effect. [16_thermal_power.md R390] -/
def throttleAll (s : State) : State :=
  let cur := allSpots.flatMap fun h => (spotThrottle s h).map fun c => 2 * h + c
  let old := s.husky.throttling
  let s := forS cur (fun k st => throttleOne st old k) s
  onHusky s fun x => { x with throttling := cur }

/-- Tiles whose thermal duty is below 64. -/
def cooled (s : State) : List Nat := (s.tiles.filter fun x => decide (x.2.dutyThermal < 64)).map fun x => x.1

/-- The thermal duty of a tile without a throttle condition rises by 4 once 5 ms have passed and every 1 ms after, where the rise
of power fits RAMP. [16_thermal_power.md R390, R397] -/
def coolStep (busy : List Nat) (p : Nat) (s : State) : State :=
  let cost := Config.tileFullMw p * 4 / 64
  if busy.contains p then s
  else match (tileOf s p).coolSince with
    | none => onTile s p fun t => { t with coolSince := some (now s) }
    | some c =>
      if c + 5000000 ≤ now s ∧ cost ≤ s.husky.rampUp then
        onTile (takeUp s cost) p fun t => { t with dutyThermal := min 64 (t.dutyThermal + 4), coolSince := some (c + 1000000) }
      else s

/-- Recovery of the thermal duties. [16_thermal_power.md R390] -/
def coolAll (s : State) : State :=
  let busy := s.husky.throttling.flatMap fun k => spotScope (k / 2)
  forS (cooled s) (coolStep busy) s

/-- The maximum of tile `p` is within 10 °C of TJ_THROTTLE. [16_thermal_power.md R399] -/
def tileNear (s : State) (p : Nat) : Bool :=
  ([3 * p, 3 * p + 1, 3 * p + 2].any fun i => sensorValid s i)
    && decide (8 * ((fget s HUSKY_THRESH__TJ_THROTTLE : Int) - 10) ≤ sext 12 (fget s HUSKY_TILE__MAX p))

/-- HUSKY_TILE_HOT counts the milliseconds, of 20 samples each, in one of whose samples the tile's maximum was within 10 °C of
TJ_THROTTLE. [16_thermal_power.md R399] -/
def hotCount (s : State) : State :=
  let hot := (List.range 288).filter fun p => s.husky.hotTiles.contains p || tileNear s p
  if s.husky.sampleNo + 1 = 20 then
    forS hot (fun p st => bump st HUSKY_TILE_HOT p) (onHusky s fun h => { h with sampleNo := 0, hotTiles := [] })
  else onHusky s fun h => { h with sampleNo := h.sampleNo + 1, hotTiles := hot }

/-- 100 ms after step 4 of a stop, the region domains of a die whose DRAM still exceeds 105 °C go off.
[16_thermal_power.md R405] -/
def lateOff (s : State) : State :=
  match s.husky.stoppedAt with
  | none => s
  | some t =>
    if now s < t + 100000000 then s
    else
      let s := onHusky s fun h => { h with stoppedAt := none }
      let hot := (List.range 4).filter fun d => (validOf s ((List.range 32).map fun i => 864 + 32 * d + i)).any fun i => decide (840 < tempOf s i)
      forS (hot.flatMap fun d => (List.range 4).map fun i => 288 + 4 * d + i) (fun n st => if domOn st n then domainOff st n else st) s

/-- One sample of the thermal monitor, once POWER_CHECK has started it. [16_thermal_power.md R384 to R390; 17_bringup.md Table 17.8] -/
def thermalSample (s : State) (raw : List Int) : State :=
  if !s.husky.monOn then s
  else
  let s := forS raw.zipIdx (fun x st => sampleSensor st x.2 x.1) s
  let s := forS pairSpots (fun h st => pairStep st h) s
  let s := forS (List.range 288) (fun p st => tileMax st p) s
  let s := forS (List.range 16) (fun g st => dramMax (logicMax st g) g) s
  let s := devMax s
  let bits := allSpots.foldl (fun a h => a ||| spotStop s h) 0
  let s := if bits ≠ 0 then orderlyStop s bits else throttleAll s
  lateOff (updDuties (hotCount (coolAll s)))

/-- THERMAL_SAMPLE: one raw reading for each of the 1,000 sensors. [16_thermal_power.md R389] -/
def execThermalSample (raw : List Int) (s : State) : Host.Outcome State Fault Refusal :=
  if raw.length = 1000 then .next (thermalSample s raw) else .refused .illFormed

/-! ### The analog trip (R407) -/

/-- THERMTRIP. [16_thermal_power.md R407] -/
def execThermtrip (s : State) : Host.Outcome State Fault Refusal :=
  .next { fset s HUSKY_STATUS__TRIPPED 1 with boot := { s.boot with tripLow := true } }

end Sys2Proof.Machine
end

