-- ==== Sys2Proof/Machine/Husky.lean ====
section
/-! DEFINITION. Husky's model, power, coolant loop and supply faults (16_thermal_power.md R394 to R404, R410;
20_signals_package.md R474, R475). Powers are in mW. -/

namespace Sys2Proof.Machine

/-! ### Power of a tile -/

/-- The tile runs. -/
def inRun (s : State) (p : Nat) : Bool := tileState s p = 1

/-- Present power of tile `p`: its last estimate, or its filler while that is higher; none without power.
[16_thermal_power.md R395, R398] -/
def presentMw (s : State) (p : Nat) : Nat := if domOn s p then max (tileOf s p).estMw (tileOf s p).filler else 0

/-- Power of tile `p` at duty `d`: in RUN its static part and a share of the rest, from the present power or, at a present duty of 0,
from that of a busy tile; outside RUN the duty changes nothing. [16_thermal_power.md R393, R395] -/
def mwAtDuty (s : State) (p d : Nat) : Nat :=
  let cur := dutyNow s p
  let st := staticEst s p
  if !inRun s p || d = cur then presentMw s p
  else if cur = 0 then st + (Config.tileFullMw p - st) * d / 64
  else st + (presentMw s p - st) * d / cur

/-- The duty of tile `p` without its model duty. [16_thermal_power.md R393] -/
def dutyOthers (s : State) (p : Nat) : Nat :=
  let t := tileOf s p
  min t.dutyThermal (min t.dutyCap t.dutyRamp)

/-- Power of tile `p` at model duty `d`. [16_thermal_power.md R393, R394] -/
def mwAtModel (s : State) (p d : Nat) : Nat := mwAtDuty s p (min d (dutyOthers s p))

/-! ### The predictive model (R394) -/

/-- Coolant inlet temperature of the last report, 1/100 °C. [16_thermal_power.md Table 16.3] -/
def inletOf (s : State) : Int := sext 16 (fget s HUSKY_TRAY_STATUS__INLET)

/-- Temperatures of the 27 nodes of region `g`. [16_thermal_power.md R394] -/
def nodesOf (s : State) (g : Nat) : List Int := (List.range 27).map fun n => smGet s.husky.nodes (g * 27 + n) 0

/-- Prediction of node `n` of region `g`, 5 ms ahead, with the given tile powers. [16_thermal_power.md R394] -/
def predict (s : State) (g n : Nat) (mw : List Nat) : Int :=
  Config.rcNode true g n (nodesOf s g) mw (inletOf s) (fget s HUSKY_TRAY_STATUS__FLOW)

/-- Powers of the tiles of region `g`. -/
def regionMw (s : State) (g : Nat) : List Nat := (List.range 18).map fun k => presentMw s (g * 18 + k)

/-- The bound on a predicted tile reading: TJ_THROTTLE − MARGIN. [16_thermal_power.md R394] -/
def tileBound (s : State) : Int := 8 * ((fget s HUSKY_THRESH__TJ_THROTTLE : Int) - (fget s HUSKY_THRESH__MARGIN : Int))

/-- The powers of region `g` with tile `k` at model duty `d`. -/
def mwWith (s : State) (g k d : Nat) (mw : List Nat) : List Nat := mw.set k (mwAtModel s (g * 18 + k) d)

/-- The model duty of tile `k` of region `g`, stepped from the present powers: where the prediction meets the bound it stays, or
rises by 4 when a rise is due, still meets it and fits RAMP; else it is the largest that meets it; with the powers that follow.
[16_thermal_power.md R394, R397] -/
def tileModel (rise : Bool) (g : Nat) (x : State × List Nat) (k : Nat) : State × List Nat :=
  let s := x.1
  let p := g * 18 + k
  let cur := (tileOf s p).dutyModel
  let ok := fun d => decide (predict s g k (mwWith s g k d x.2) < tileBound s)
  let top := min 64 (cur + 4)
  let cost := mwAtModel s p top - mwAtModel s p cur
  let up := rise && decide (cur < 64) && ok top && decide (cost ≤ s.husky.rampUp)
  let d := if up then top else ((List.range (cur + 1)).reverse.find? ok).getD 0
  if d = cur then x
  else (onTile (if up then takeUp s cost else s) p fun t => { t with dutyModel := d }, mwWith s g k d x.2)

/-- A predicted DRAM-layer reading reaches DRAM_LIMIT with the given powers. [16_thermal_power.md R394] -/
def dramOver (s : State) (g : Nat) (mw : List Nat) : Bool :=
  (List.range 8).any fun l => decide (8 * (fget s HUSKY_THRESH__DRAM_LIMIT : Int) ≤ predict s g (18 + l) mw)

/-- When a DRAM layer would reach DRAM_LIMIT, every tile of the region takes the largest common duty that avoids it.
[16_thermal_power.md R394] -/
def dramModel (g : Nat) (x : State × List Nat) : State :=
  let s := x.1
  if !dramOver s g x.2 then s
  else
    let mwAt := fun d => (List.range 18).map fun k =>
      let p := g * 18 + k
      mwAtModel s p (min d (tileOf s p).dutyModel)
    let d := ((List.range 65).reverse.find? fun d => !dramOver s g (mwAt d)).getD 0
    forS ((List.range 18).map fun k => g * 18 + k) (fun p st => onTile st p fun t => { t with dutyModel := min d t.dutyModel }) s

/-- Sensors that a node of region `g` predicts. [16_thermal_power.md R394, Table 16.1] -/
def nodeSensors (g n : Nat) : List Nat :=
  if n < 18 then (List.range 3).map fun i => 3 * (18 * g + n) + i else [864 + 8 * g + (n - 18)]

/-- A sensor has exceeded by more than 3 °C the prediction made for it 5 ms earlier for 100 ms. [16_thermal_power.md R394] -/
def driftOne (pred : Int) (i : Nat) (s : State) : State :=
  if !sensorValid s i || decide (tempOf s i ≤ pred + 24) then onHusky s fun h => { h with driftSince := smDel h.driftSince i }
  else match smFind s.husky.driftSince i with
    | none => onHusky s fun h => { h with driftSince := smSet h.driftSince i (now s) }
    | some t =>
      if now s < t + 100000000 then s
      else
        let m := max (fget s HUSKY_THRESH__MARGIN) (min 16 (2 * fget s HUSKY_THRESH__MARGIN))
        let s := onHusky (fset s HUSKY_THRESH__MARGIN m) fun h => { h with driftSince := smSet h.driftSince i (now s), drifted := true }
        postEvent s evtModelDrift (i + m * 2 ^ 16)

/-- Predictions of node `n` of region `g` are compared with its sensors and renewed. [16_thermal_power.md R394] -/
def nodePredict (g : Nat) (mw : List Nat) (n : Nat) (s : State) : State :=
  let old := smGet s.husky.predicted (g * 27 + n) []
  let s := match old[49]? with
    | some x => forS (nodeSensors g n) (driftOne x) s
    | none => s
  let v := predict s g n mw
  let near := decide (8 * ((fget s HUSKY_THRESH__TJ_THROTTLE : Int) - 5) ≤ v)
  onHusky s fun h => { h with
    predicted := smSet h.predicted (g * 27 + n) ((v :: old).take 50)
    demandMax := h.demandMax || near }

/-- The model of one region. [16_thermal_power.md R394] -/
def modelRegion (rise : Bool) (s : State) (g : Nat) : State :=
  let mw := regionMw s g
  let now_ := nodesOf s g
  let next := (List.range 27).map fun n => Config.rcNode false g n now_ mw (inletOf s) (fget s HUSKY_TRAY_STATUS__FLOW)
  let s := onHusky s fun h => { h with nodes := next.zipIdx.foldl (fun m x => smSet m (g * 27 + x.2) x.1) h.nodes }
  let s := forS (List.range 26) (nodePredict g mw) s
  dramModel g ((List.range 18).foldl (tileModel rise g) (s, mw))

/-- One step of the model, every 100 µs while PREDICT_EN = 1. [16_thermal_power.md R394] -/
def modelStep (s : State) : State :=
  if !compUp s 1 || !fbit s HUSKY_CTRL__PREDICT_EN then s
  else
    let n := s.husky.modelNo + 1
    let s := onHusky s fun h => { h with modelNo := n }
    updDuties (forS (List.range 16) (fun g st => modelRegion (n % 10 = 0) st g) s)

/-- MODEL_STEP. [16_thermal_power.md R394] -/
def execModelStep (s : State) : Host.Outcome State Fault Refusal := .next (modelStep s)

/-! ### Estimates, fillers, caps and ramps (R395 to R398) -/

/-- The scaled estimate of a powered tile: an energy for each event of the last 100 µs, and a static term.
[16_thermal_power.md R395] -/
def tileEst (s : State) (p : Nat) : Nat :=
  let t := tileOf s p
  let pj := t.actPlanes * Config.planePj p + t.actGroups * Config.groupPj p + t.actBursts * Config.burstPj p
    + t.actSteps * Config.stepPj p
  (Config.staticMw p + pj / 100000) * smGet s.husky.estScale (p / 72) 65536 / 65536

/-- A tile's estimate is taken; in RUN it joins the 10 ms mean. [16_thermal_power.md R395, R398] -/
def estimateTile (s : State) (p : Nat) : State :=
  let e := tileEst s p
  let run := inRun s p
  onTile s p fun t => { t with
    actPlanes := 0
    actGroups := 0
    actBursts := 0
    actSteps := 0
    estMw := e
    runPower := if run then (e :: t.runPower).take 100 else t.runPower
    filler := if run then 0 else t.filler }

/-- The slope, in 1/1,000 °C/s, that the network predicts for tile `p` with its power at `mw`. [16_thermal_power.md R398] -/
def slopeAt (s : State) (p mw : Nat) : Int :=
  let g := p / 18
  Config.rcSlope g (p % 18) (nodesOf s g) ((regionMw s g).set (p % 18) mw) (inletOf s) (fget s HUSKY_TRAY_STATUS__FLOW)

/-- SLEW in 1/1,000 °C/s. [16_thermal_power.md R398] -/
def slewMilli (s : State) : Int := 1000 * (fget s HUSKY_RAMP__SLEW : Int)

/-- The filler of a tile falls, in steps of at most 1/64 of full power, to WARM_PCT % of the mean while the predicted slope stays
within SLEW; with WARM_EN = 0, or after MEMTEST, to zero; always within RAMP. Fenced and unpowered tiles run none.
[16_thermal_power.md R397, R398; 17_bringup.md R430] -/
def decayTile (p : Nat) (s : State) : State :=
  let t := tileOf s p
  let warm := fbit s HUSKY_CTRL__WARM_EN && decide (t.fillMean ≠ 0)
  let floor := if warm then t.fillMean * fget s HUSKY_RAMP__WARM_PCT / 100 else 0
  if !tileUp s p then (if t.filler = 0 then s else onTile s p fun t => { t with filler := 0 })
  else if inRun s p || decide (t.filler ≤ floor) then s
  else
    let want := if warm then min (max 1 (Config.tileFullMw p / 64)) (t.filler - floor) else t.filler - floor
    let d := min want s.husky.rampDown
    if warm && decide (slopeAt s p (t.filler - d) < -slewMilli s) then s
    else
      let s := onHusky s fun h => { h with rampDown := h.rampDown - d }
      onTile s p fun t => { t with filler := t.filler - d }

/-- The ramp duty of a running tile rises by 1 within RAMP while the predicted slope stays within SLEW. [16_thermal_power.md R397, R398] -/
def rampTile (p : Nat) (s : State) : State :=
  let t := tileOf s p
  let unit := (Config.tileFullMw p - staticEst s p) / 64
  if !inRun s p || decide (64 ≤ t.dutyRamp) || decide (s.husky.rampUp < unit)
      || decide (slewMilli s < slopeAt s p (presentMw s p + unit)) then s
  else onTile (takeUp s unit) p fun t => { t with dutyRamp := t.dutyRamp + 1 }

/-- The grade's limit, the user's cap, the flow cap and half the grade's limit while TRAY_LOST: the least of them, in W.
[16_thermal_power.md R396] -/
def effCap (s : State) : Nat :=
  let l := gradeW s
  let c := min l (fget s HUSKY_PCAP__USER_W)
  let c := match s.husky.flowCap with
    | some f => min c f
    | none => c
  if fbit s HUSKY_STATUS__TRAY_LOST then min c (l / 2) else c

/-- EFF_CAP_W follows the effective cap. [16_thermal_power.md Table 16.6] -/
def updCap (s : State) : State := fset s HUSKY_STATUS__EFF_CAP_W (effCap s)

/-- Power of a running tile with cap duty `c`. -/
def cappedMw (s : State) (p c : Nat) : Nat :=
  let t := tileOf s p
  mwAtDuty s p (min (min t.dutyThermal t.dutyModel) (min c t.dutyRamp))

/-- Estimated power outside the tiles, as the last measurement leaves it. [16_thermal_power.md R395] -/
def baseMw (s : State) : Nat := s.husky.baseEst.getD Config.baseMw

/-- Estimated device power. [16_thermal_power.md R395] -/
def deviceMw (s : State) : Nat := baseMw s + sumNat ((List.range 288).map fun p => presentMw s p)

/-- Estimated device power with the cap duty of every working tile changed to `f` of it. -/
def deviceMwAt (s : State) (f : Nat → Nat) : Nat :=
  baseMw s + sumNat ((List.range 288).map fun p => if inRun s p then cappedMw s p (f (tileOf s p).dutyCap) else presentMw s p)

/-- Cap duties change by `f`. -/
def setCaps (s : State) (f : Nat → Nat) : State :=
  forS ((List.range 288).filter fun p => inRun s p) (fun p st => onTile st p fun t => { t with dutyCap := f t.dutyCap }) s

/-- Above the cap, the cap duty of every working tile falls by the same amount: the least that meets the cap, as far as RAMP
allows; below it, all rise by 1 when that still meets it and fits RAMP. The estimates sum to the measurement (R395), so what is
held at the cap is the measured power. [16_thermal_power.md R396, R397] -/
def capStep (s : State) : State :=
  let cap := effCap s * 1000
  let e := deviceMw s
  let less := fun k => deviceMwAt s fun c => c - k
  let more := deviceMwAt s fun c => min 64 (c + 1)
  if cap < e then
    let need := ((List.range 65).find? fun k => decide (less k ≤ cap)).getD 64
    let may := ((List.range 65).reverse.find? fun k => decide (e ≤ less k + s.husky.rampDown)).getD 0
    let k := min need may
    setCaps (onHusky s fun h => { h with rampDown := h.rampDown - (e - less k) }) fun c => c - k
  else if more ≤ min cap (e + s.husky.rampUp) then setCaps (takeUp s (more - e)) fun c => min 64 (c + 1)
  else s

/-- HUSKY_CAP_MS_COUNT counts the milliseconds, of ten estimates each, in which a cap duty was below 64. [16_thermal_power.md Table 16.7] -/
def capCount (s : State) : State :=
  let low := s.husky.capLow || s.tiles.any fun x => decide (x.2.dutyCap < 64)
  if s.husky.estNo % 10 = 0 then
    let s := onHusky s fun h => { h with capLow := false }
    if low then bump s HUSKY_CAP_MS_COUNT else s
  else onHusky s fun h => { h with capLow := low }

/-- RAMP's allowance for the next 100 µs, in mW. [16_thermal_power.md R397] -/
def rampRefill (s : State) : State :=
  let b := fget s HUSKY_RAMP__RAMP * 100
  onHusky s fun h => { h with estNo := h.estNo + 1, rampUp := b, rampDown := b }

/-- One power estimate, every 100 µs: estimates, fillers, caps, ramps and domains that wait for power, all of them within one
allowance of RAMP. [16_thermal_power.md R395 to R398, R406] -/
def powerEstimate (s : State) : State :=
  if !compUp s 1 then s
  else
    let s := capCount (rampRefill s)
    let s := forS ((List.range 288).filter fun p => domOn s p) (fun p st => estimateTile st p) s
    let s := capStep (updCap (forS (List.range 288) decayTile s))
    let s := resumeStep (forS (List.range 288) rampTile s)
    updDuties (fset s HUSKY_POWER__EST_W (deviceMw s / 1000))

/-- POWER_ESTIMATE. [16_thermal_power.md R395 to R398] -/
def execPowerEstimate (s : State) : Host.Outcome State Fault Refusal := .next (powerEstimate s)

/-! ### The coolant loop (R400 to R404) -/

/-- NOM_FLOW. [16_thermal_power.md R400] -/
def nomFlow (s : State) : Nat := fget s HUSKY_TRAY_CFG__NOM_FLOW

/-- The mean of the last five valid reports. [16_thermal_power.md R402] -/
def flowMean (s : State) : Nat :=
  let l := s.husky.flows
  if l.isEmpty then 0 else sumNat l / l.length

/-- The implied flow of a report in 1/100 mL/s; none when the coolant does not warm. [16_thermal_power.md R402] -/
def impliedFlow (s : State) (inlet outlet : Int) : Option Nat :=
  let c := fget s HUSKY_TRAY_CFG__CVOL
  let d := (outlet - inlet).toNat
  if c = 0 ∨ d = 0 then none else some (fget s HUSKY_POWER__MEAS_W * 10000000 / (c * d))

/-- FLOW_IMPLAUSIBLE is set after 2 s of an implausible mean and clears after 10 s within 1.1 × the implied flow.
[16_thermal_power.md R402] -/
def plausibleStep (s : State) (inlet outlet : Int) : State :=
  let m := flowMean s
  match impliedFlow s inlet outlet with
  | none => onHusky s fun h => { h with implSince := none, okSince := none }
  | some q =>
    let bad := decide (5 * q < 4 * m) && decide (200 ≤ fget s HUSKY_POWER__MEAS_W) && decide (100 ≤ outlet - inlet)
    let good := decide (10 * m ≤ 11 * q)
    let keep := fun (b : Bool) (o : Option Nat) => if b then some (o.getD (now s)) else none
    let s := onHusky s fun h => { h with implSince := keep bad h.implSince, okSince := keep good h.okSince }
    let since := fun (o : Option Nat) (n : Nat) => match o with
      | some t => decide (t + n ≤ now s)
      | none => false
    if fbit s HUSKY_STATUS__FLOW_IMPLAUSIBLE then
      if since s.husky.okSince 10000000000 then fset s HUSKY_STATUS__FLOW_IMPLAUSIBLE 0 else s
    else if since s.husky.implSince 2000000000 then
      postEvent (fset s HUSKY_STATUS__FLOW_IMPLAUSIBLE 1) evtFlowImplausible (m % 2 ^ 16 + min q 65535 * 2 ^ 16)
    else s

/-- The effective flow: the mean, or the implied flow while FLOW_IMPLAUSIBLE is set. [16_thermal_power.md R402] -/
def effFlow (s : State) (inlet outlet : Int) : Nat :=
  if fbit s HUSKY_STATUS__FLOW_IMPLAUSIBLE then min ((impliedFlow s inlet outlet).getD (flowMean s)) 65535 else flowMean s

/-- The flow cap that an effective flow sets, in W. [16_thermal_power.md R403] -/
def flowCapFor (s : State) (f : Nat) : Option Nat :=
  let n := nomFlow s
  let l := gradeW s
  if 4 * n ≤ 5 * f then none
  else if n ≤ 2 * f then some (l * (10 * f - 2 * n) / (6 * n))
  else some (l / 2)

/-- The flow cap falls at once and rises by at most 5 % of the grade limit per TAU. [16_thermal_power.md R396] -/
def capMove (s : State) (f : Nat) : State :=
  let l := gradeW s
  let want := (flowCapFor s f).getD l
  let cur := s.husky.flowCap.getD l
  let put := fun (v : Nat) (st : State) => onHusky st fun h => { h with flowCap := if l ≤ v then none else some v }
  if want ≤ cur then put want s
  else if s.husky.capAt + fget s HUSKY_TRAY_CFG__TAU * 1000000 ≤ now s then
    onHusky (put (min want (cur + l * 5 / 100)) s) fun h => { h with capAt := now s }
  else s

/-- The effective flow takes effect: its register, FLOW_LOW, the flow cap. [16_thermal_power.md R403] -/
def flowStep (s : State) (f : Nat) (pump : Bool) : State :=
  let n := nomFlow s
  let low := decide (5 * f < 4 * n)
  let s := fset s HUSKY_TRAY_STATUS__FLOW f
  let post := (low && !fbit s HUSKY_STATUS__FLOW_LOW) || (pump && !s.husky.pumpFault)
  let s := if post then postEvent s evtFlowLow (f + flag pump * 2 ^ 16) else s
  let s := fset s HUSKY_STATUS__FLOW_LOW (flag low)
  let s := onHusky s fun h => { h with
    pumpFault := pump
    demandMax := h.demandMax || low
    flowOkSince := if low then none else some (h.flowOkSince.getD (now s)) }
  updCap (capMove s f)

/-- A valid report has come over the tray link since POWER_CHECK started it. [17_bringup.md R429] -/
def trayKnown (s : State) : Bool := s.husky.monOn && s.husky.lastSeq.isSome

/-- A report is missing: after five in a row TRAY_LOST is set; nothing before the first valid report. [16_thermal_power.md R404;
17_bringup.md R429] -/
def missReport (s : State) : State :=
  if !trayKnown s then s
  else
  let s := bump s HUSKY_TRAY_MISS_COUNT
  let n := s.husky.missing + 1
  let s := onHusky s fun h => { h with missing := n, valid := 0, reportAt := now s }
  if 5 ≤ n ∧ fbit s HUSKY_STATUS__TRAY_LOST = false then updCap (postEvent (fset s HUSKY_STATUS__TRAY_LOST 1) evtTrayLost 0) else s

/-- A valid report. [16_thermal_power.md R402 to R404] -/
def goodReport (s : State) (f : Nat) : State :=
  let inlet := sext 16 (bitsOf f 0 16)
  let outlet := sext 16 (bitsOf f 16 16)
  let flow := bitsOf f 32 16
  let low := decide (5 * flow < nomFlow s)
  let s := fset (fset s HUSKY_TRAY_STATUS__INLET (bitsOf f 0 16)) HUSKY_TRAY_STATUS__OUTLET (bitsOf f 16 16)
  let s := onHusky s fun h => { h with
    flows := (flow :: h.flows).take 5
    missing := 0
    valid := h.valid + 1
    reportAt := now s
    lowRun := if low then h.lowRun + 1 else 0 }
  let s := if 10 ≤ s.husky.valid then fset s HUSKY_STATUS__TRAY_LOST 0 else s
  let s := plausibleStep s inlet outlet
  let s := flowStep s (effFlow s inlet outlet) (bitOf f 56)
  if 2 ≤ s.husky.lowRun then orderlyStop s 16 else s

/-- A report frame arrives on the started tray link: valid when it follows the previous one within 15 ms with the next SEQ.
[16_thermal_power.md R403, R404; 17_bringup.md R429] -/
def trayReport (s : State) (f : Nat) : State :=
  if !compUp s 1 || !s.husky.monOn || nomFlow s = 0 then s
  else
    let seq := bitsOf f 48 8
    let ok := match s.husky.lastSeq with
      | none => true
      | some x => decide (seq = (x + 1) % 256) && decide (now s ≤ s.husky.reportAt + 15000000)
    let s := onHusky s fun h => { h with lastSeq := some seq }
    let s := if ok then goodReport s f else missReport s
    if bitOf f 57 then orderlyStop s 32 else s

/-- TRAY_REPORT. [16_thermal_power.md R401 to R404] -/
def execTrayReport (f : BitVec 64) (s : State) : Host.Outcome State Fault Refusal := .next (trayReport s f.toNat)

/-- TRAY_REPORT_MISSING. [16_thermal_power.md R404] -/
def execTrayReportMissing (s : State) : Host.Outcome State Fault Refusal := .next (if compUp s 1 then missReport s else s)

/-- The setpoint that the next demand frame carries: F; MAX_FLOW for a reason of R401; lowered one step of 10 % of F per TAU;
changed at most once per TAU / 4. [16_thermal_power.md R401] -/
def demandNext (s : State) : Nat :=
  let n := nomFlow s
  let top := fget s HUSKY_TRAY_CFG__MAX_FLOW
  let tau := fget s HUSKY_TRAY_CFG__TAU * 1000000
  let cur := fget s HUSKY_TRAY_STATUS__DEMAND
  let reason := s.husky.demandMax || (!s.husky.flows.isEmpty && decide (5 * fget s HUSKY_TRAY_STATUS__FLOW < 4 * n))
  if cur = 0 then (if reason then top else n)
  else if reason then (if s.husky.demandAt + tau / 4 ≤ now s then top else cur)
  else if n < cur ∧ s.husky.demandAt + tau ≤ now s then max n (cur - n / 10)
  else cur

/-- Husky sends a demand frame, from the first valid report on; while Husky restarts, the last value is repeated.
[16_thermal_power.md R401; 17_bringup.md R429; 18_host_firmware.md R454] -/
def demandStep (s : State) : State :=
  if !trayKnown s then s
  else
  let cur := fget s HUSKY_TRAY_STATUS__DEMAND
  let d := if compUp s 1 then demandNext s else cur
  let s := onHusky s fun h => { h with
    demands := h.demands ++ [d % 2 ^ 16 + h.demandSeq * 2 ^ 16]
    demandSeq := (h.demandSeq + 1) % 256
    demandAt := if d = cur then h.demandAt else now s
    demandMax := if compUp s 1 && decide (d = fget s HUSKY_TRAY_CFG__MAX_FLOW) then false else h.demandMax }
  fset s HUSKY_TRAY_STATUS__DEMAND d

/-- DEMAND. [16_thermal_power.md R401] -/
def execDemand (s : State) : Host.Outcome State Fault Refusal := .next (demandStep s)

/-! ### Supply faults (R410) -/

/-- The domains under `n`, all generations, parents before children. -/
def descendants (n : Nat) : List Nat :=
  let l1 := childrenOf n
  let l2 := l1.flatMap childrenOf
  (l1 ++ l2 ++ l2.flatMap childrenOf).eraseDups

/-- Domain `n` loses its supply while on: what it holds is lost at once, the vault of a tile with it.
[16_thermal_power.md R410] -/
def cutDomain (s : State) (n : Nat) : State :=
  let s := domainLost s n
  if n < 288 then loseVault s n else s

/-- The consequences of a supply fault by kind of domain. [16_thermal_power.md R410] -/
def faultEffect (s : State) (n : Nat) : State :=
  if n < 288 then fenceTile s n 0x0F (faultWord 0x0F 8 (noCmdRef s)) 0
  else if n < 304 then regionFail s (n - 288) 3
  else if n < 308 then loseDie s (n - 304) 4
  else if 308 ≤ n ∧ n < 312 then quadContexts s (n - 308)
  else if n = 314 then deviceFail { s with host := { s.host with linkUp := false } } 2 0 2
  else if n = 315 then postEvent s evtFabricLinkDown 8
  else if n = 316 then deviceFail s 2 0 1
  else s

/-- A tile in RUN or STOPPING, or armed, that loses its supply has stopped on FLT_TILE_POWER for the plan it serves.
[16_thermal_power.md R410; 18_host_firmware.md R446] -/
def notePowerLoss (s : State) (p : Nat) : State :=
  if p < 288 && (tileState s p = 1 || tileState s p = 2 || fbit s TILE_COLLIE_CTRL__ARM p) then stopAllPlan (noteTileEnd s p (some 0x0F)) p else s

/-- A domain below 90 % of its nominal voltage for 1 µs while ON. [16_thermal_power.md R410] -/
def supplyFault (s : State) (n : Nat) : State :=
  if !domOn s n then s
  else
    let s := bump (setPd s n 3) HUSKY_PD_FAULT_COUNT
    let s := if s.husky.requests.any fun r => r.domain = n then pdDone s n else s
    let kids := (descendants n).filter fun m => domOn s m
    let s := forS (n :: kids) (fun m st => notePowerLoss st m) s
    let s := forS kids.reverse (fun m st => cutDomain (setPd st m 0) m) s
    faultEffect (cutDomain s n) n

/-- SUPPLY_FAULT. [16_thermal_power.md R410] -/
def execSupplyFault (n : Fin 325) (s : State) : Host.Outcome State Fault Refusal := .next (supplyFault s n)

/-! ### Rail telemetry (R395, R474, R475) -/

/-- Measured power of rail `i` from its last reading, in mW. [20_signals_package.md Table 20.4] -/
def railMw (s : State) (i : Nat) : Nat := fget s HUSKY_RAIL__VOUT_MV i * fget s HUSKY_RAIL__IOUT i / 10

/-- A valid read of rail `i`; STATUS bit 0 is a supply fault of the spine, or of the device. [20_signals_package.md R475] -/
def railRead (s : State) (i vout iout status : Nat) : State :=
  let s := fset (fset s HUSKY_RAIL__VOUT_MV vout i) HUSKY_RAIL__IOUT iout i
  let s := fset (fset s HUSKY_RAIL__FAULT (status % 2) i) HUSKY_RAIL__TELEM_VALID 1 i
  let s := onHusky s fun h => { h with railMiss := smDel h.railMiss i }
  if status % 2 = 1 then
    if i < 4 then supplyFault s (304 + i) else deviceFail s 2 0 3
  else s

/-- A failed read of rail `i`. [20_signals_package.md R475] -/
def railMissed (s : State) (i : Nat) : State :=
  let n := smGet s.husky.railMiss i 0 + 1
  let s := onHusky s fun h => { h with railMiss := smSet h.railMiss i n }
  if n = 3 then postEvent (fset s HUSKY_RAIL__TELEM_VALID 0 i) evtRailTelemetryLost i else s

/-- A tile's figures of power multiplied by `m / e`. -/
def scaleTile (m e : Nat) (t : Tile) : Tile :=
  { t with estMw := t.estMw * m / e, filler := t.filler * m / e, fillMean := t.fillMean * m / e, runPower := t.runPower.map fun x => x * m / e }

/-- The estimates of the tiles on rail VCORE `d` are scaled to the measurement; unscaled while its telemetry is lost.
[16_thermal_power.md R395; 20_signals_package.md R475] -/
def scaleRail (s : State) (d : Nat) : State :=
  let on := (dieTiles d).filter fun p => domOn s p
  let e := sumNat (on.map fun p => presentMw s p)
  let cur := smGet s.husky.estScale d 65536
  let put := fun (v : Nat) => onHusky s fun h => { h with estScale := smSet h.estScale d v }
  if !fbit s HUSKY_RAIL__TELEM_VALID d || (e = 0 && cur = 0) then put 65536
  else if e = 0 then s
  else forS on (fun p st => onTile st p (scaleTile (railMw s d) e)) (put (cur * railMw s d / e))

/-- The estimate of what lies outside the tiles takes the rest of the measurement, so that the sum of the estimates matches it;
unscaled while a rail's telemetry is lost. [16_thermal_power.md R395; 20_signals_package.md R475] -/
def scaleBase (s : State) : State :=
  let all := (List.range 8).all fun i => fbit s HUSKY_RAIL__TELEM_VALID i
  let total := sumNat ((List.range 8).map fun i => railMw s i)
  onHusky s fun h => { h with
    baseEst := if all then some (total - sumNat ((List.range 288).map fun p => presentMw s p)) else none }

/-- Every 1 ms: the telemetry of the eight rails. [16_thermal_power.md R395; 20_signals_package.md R474, R475] -/
def railTelemetry (s : State) (rd : List (Option (Nat × Nat × Nat))) : State :=
  let s := forS rd.zipIdx (fun x st => match x.1 with
    | some r => railRead st x.2 r.1 r.2.1 r.2.2
    | none => railMissed st x.2) s
  let s := if compUp s 1 then scaleBase (forS (List.range 4) (fun d st => scaleRail st d) s) else s
  fset s HUSKY_POWER__MEAS_W (sumNat ((List.range 8).map fun i => railMw s i) / 1000)

/-- RAIL_TELEMETRY: VOUT_MV, IOUT and STATUS of each of the eight rails, none for a failed read. [20_signals_package.md R474] -/
def execRailTelemetry (rd : List (Option (Nat × Nat × Nat))) (s : State) : Host.Outcome State Fault Refusal :=
  if rd.length = 8 then .next (railTelemetry s rd) else .refused .illFormed

end Sys2Proof.Machine
end

