-- ==== Sys2Proof/Machine/RegWrite.lean ====
section
/-! DEFINITION. Writes of registers by their access codes, reserved values, the limits of Husky's thresholds and the admission
of guarantees (00_scope.md R15 to R19, R34; 12_regulation.md R310; 16_thermal_power.md R391, R396, R397). -/

namespace Sys2Proof.Machine

/-! ### Access codes (Table 0.5) -/

/-- Fields whose values outside a range are reserved: lowest and highest value. The ranges that a start of the tile checks
(R107) are not among them: such a value is stored. [the field tables of each chapter; 00_scope.md R18] -/
def fieldRanges : List (Fld × Nat × Nat) :=
  [(TILE_DMA_CTRL__REMOTE_TIMEOUT, 1, 65535), (TILE_DMA_CTRL__MERGE_OPEN, 1, 16), (TILE_VAULT_CTRL__SPLIT_RD, 1, 15), (TILE_VAULT_CTRL__SPLIT_WR, 1, 15),
   (TILE_VAULT_CTRL__SPLIT_RM, 1, 15), (TILE_VAULT_CTRL__RETRY_LIMIT, 1, 7), (TILE_ECC_CTRL__SCRUB_PERIOD, 60, 65535),
   (TILE_ECC_CTRL__CE_THRESH, 1, 15), (TILE_ECC_CTRL__INJ_KIND, 0, 2), (REGION_JASPER_CTRL__CONC_CH, 1, 8),
   (TOPAZ_POOL_CFG__LOG2SIZE, 8, 20), (FAB_LINK_CTRL__RETRY_TIMEOUT, 64, 4095), (FAB_LINK_CTRL__RETRY_LIMIT, 1, 15)]
  ++ [(FAB_CUST_CFG__MAX_RATE, 0, 5), (REGION_MC_CTRL__STALL_LIMIT, 1, 65535), (REGION_CAROUSEL_CTRL__CAR_SHARE, 0, 8),
   (REGION_CAROUSEL_CTRL__RING_LEN, 2, 18), (REGION_QOS_CTRL__FB_THR, 1, 15), (FAB_QOS_CTRL__FB_THR_HUB, 1, 15),
   (KELPIE_CC_CTRL__G_SHIFT, 1, 15),
   (KELPIE_WCT_TIMERS__HOLD, 1, 4095), (KELPIE_WCT_TIMERS__ACK_COALESCE, 1, 255), (KELPIE_KQ_CFG__LOG2SIZE, 4, 15),
   (HUSKY_THRESH__DUTY_THROTTLE, 0, 64), (HUSKY_RAMP__WARM_PCT, 0, 100)]

/-- A value of a field is reserved: a write of it leaves the field as it was. [00_scope.md R18] -/
def reservedValue (f : Fld) (v : Nat) : Bool :=
  fieldRanges.any fun x => x.1 == f && (decide (v < x.2.1) || decide (x.2.2 < v))

/-- One field of a written register. `x` is the value with the written half replaced, `ones` the bits written as 1.
[00_scope.md Table 0.5] -/
def writeField (x ones : Nat) (cur : Nat) (f : Fld × Access) : Nat :=
  let nv := bitsOf x f.1.lo f.1.w
  match f.2 with
  | .rw | .rws => if reservedValue f.1 nv then cur else setBits cur f.1.lo f.1.w nv
  | .w1c => setBits cur f.1.lo f.1.w (bitsOf cur f.1.lo f.1.w - (bitsOf cur f.1.lo f.1.w &&& bitsOf ones f.1.lo f.1.w))
  | .ro | .wo | .w1s => cur

/-- All bits of a register. -/
def fullMask : Nat := 2 ^ 64 - 1

/-- The value of a register after a write of `v` to the bits of `mask`: the whole of it, or one 32-bit half. [00_scope.md R15,
Table 0.5] -/
def writeValue (info : RegInfo) (old v mask : Nat) : Nat :=
  let ones := v &&& mask
  let x := (old &&& (fullMask - mask)) ||| ones
  info.fields.foldl (writeField x ones) old

/-- HUSKY_THRESH, HUSKY_RAMP and HUSKY_PCAP are stored limited. [16_thermal_power.md R391, R396, R397; 17_bringup.md R422] -/
def limitValue (s : State) (off v : Nat) : Nat :=
  let lim := fun (f : Fld) (top x : Nat) => setBits x f.lo f.w (min (bitsOf x f.lo f.w) top)
  if off = 0x00200010 then
    lim HUSKY_THRESH__TJ_THROTTLE 95 (lim HUSKY_THRESH__TJ_STOP 108
      (lim HUSKY_THRESH__RATE_THR 40 (lim HUSKY_THRESH__RATE_STOP 120 v)))
  else if off = 0x00200018 then lim HUSKY_PCAP__USER_W (gradeW s) v
  else if off = 0x00200020 then lim HUSKY_RAMP__RAMP 200 v
  else v

/-! ### Admission of guarantees (R310) -/

/-- Split of the vault of tile `p` as TILE_VAULT_CTRL has it. [07_vaults.md R176] -/
def ctrlSplit (s : State) (p : Nat) : Nat × Nat × Nat :=
  (fget s TILE_VAULT_CTRL__SPLIT_RD p, fget s TILE_VAULT_CTRL__SPLIT_WR p, fget s TILE_VAULT_CTRL__SPLIT_RM p)

/-- The guarantees of region `g` are admitted in band B0, with the split of the set. [12_regulation.md R310] -/
def regionAdmits (s : State) (g : Nat) : Bool :=
  let sp := s.boot.split
  ((List.range 3).all fun x => decide ((sumClasses fun c => vmin s g c x) ≤ shareCap 0 (splitOf sp x) sp))
    && decide ((sumClasses fun c => omin s g c) ≤ onyxCap s g)

/-- The guarantees of the hub links are admitted; CUST against MAX_RATE. [12_regulation.md R310] -/
def hubAdmits (s : State) : Bool :=
  decide ((sumClasses fun c => fget s FAB_QOS_LMIN__TERRIER c) ≤ terrierCap)
    && decide ((sumClasses fun c => fget s FAB_QOS_LMIN__CUST c) ≤ custCap (fget s FAB_CUST_CFG__MAX_RATE))

/-- Region of a guarantee register at an offset, `none` for FAB_QOS_LMIN. [12_regulation.md Table 12.5] -/
def guaranteeAt (off : Nat) : Option (Option Nat) :=
  match instAt REGION_QOS_VMIN off with
  | some x => some (some x.1)
  | none =>
    match instAt REGION_QOS_LMIN off with
    | some x => some (some x.1)
    | none => if (instAt FAB_QOS_LMIN off).isSome then some none else none

/-! ### Blocks that answer (R34) -/

/-- The network half of an offset of the Kelpie block: that of the quad or of the port, none for a register that both halves
share. [21_register_index.md R493] -/
def kelpieHalf (off : Nat) : Option Nat :=
  if 0x00600020 ≤ off ∧ off < 0x00600040 then some ((off - 0x00600020) / 0x10)
  else if 0x00600040 ≤ off ∧ off < 0x006000C0 then some ((off - 0x00600040) / 0x40)
  else if 0x00602000 ≤ off ∧ off < 0x00602400 then some ((off - 0x00602000) / 0x200)
  else none

/-- A Kelpie register answers: its half is on, or either half for one that both share (log 64). [21_register_index.md R493] -/
def kelpieOn (s : State) (off : Nat) : Bool :=
  match kelpieHalf off with
  | some h => domOn s (312 + h)
  | none => kelpieAny s

/-- A register of a region block answers: the region is on, and the Jasper registers exist in a Jasper region only.
[01_architecture.md R34; 09_jasper.md R237] -/
def regionBlockOn (s : State) (off : Nat) : Bool :=
  let g := (off - 0x01000000) / 0x100000
  let o := (off - 0x01000000) % 0x100000
  domOn s (288 + g) && !s.blood.isolated.contains (g / 4)
    && (decide (o < 0x800) || decide (0x910 ≤ o) || jasperRegion s g)

/-- The block of an offset answers: its domain is on and it is not fenced. [01_architecture.md R34] -/
def blockOn (s : State) (off : Nat) : Bool :=
  if 0x02000000 ≤ off then tileOpen s ((off - 0x02000000) / 0x10000)
  else if 0x01000000 ≤ off then regionBlockOn s off
  else if 0x00600000 ≤ off ∧ off < 0x00700000 then kelpieOn s off
  else if 0x00400000 ≤ off ∧ off < 0x00500000 then domOn s 316
  else true

/-! ### The write -/

/-- A vector that is unmasked with its PBA bit set sends its message. [18_host_firmware.md R440] -/
def unmaskVector (s : State) (v : Nat) : State :=
  if !fbit s MSIX_DATA__MASK v && bitOf (rget s MSIX_PBA (v / 64)) (v % 64) then
    sendIrq (rset s MSIX_PBA (setBits (rget s MSIX_PBA (v / 64)) (v % 64) 1 0) (v / 64)) v
  else s

/-- A write to the register at an offset by its access codes; a guarantee passes admission or is discarded.
[00_scope.md R15, R16; 12_regulation.md R310] -/
def writeCodes (s : State) (off v mask : Nat) : State :=
  match regAt off with
  | none => s
  | some a =>
    if a.info.counter then s
    else
      let old := rget s a.info.reg a.i a.j
      let t := rset s a.info.reg (limitValue s off (writeValue a.info old v mask)) a.i a.j
      match guaranteeAt off with
      | some (some g) => if regionAdmits t g then t else fset s REGION_QOS_STATUS__ADM_ERR 1 g
      | some none => if hubAdmits t then t else fset s FAB_QOS_CTRL__ADM_ERR 1
      | none => if (instAt MSIX_DATA off).isSome then unmaskVector t a.i else if off = 0x00200018 then updCap t else t

/-- A write of TILE_STREAM_HEAD clears the loop state. [04_tile_commands.md R105, R119] -/
def streamHeadReg (s : State) (p k off v mask : Nat) : State :=
  headWrite s p k (fget (writeCodes s off v mask) TILE_STREAM_HEAD__HEAD p k)

/-- QOS_GUARANTEE_WRITE: a 64-bit write to a guarantee register. [12_regulation.md R310] -/
def execQosWrite (off : Fin 67108864) (v : BitVec 64) (s : State) : Host.Outcome State Fault Refusal :=
  .next (if (guaranteeAt off).isSome && blockOn s off then writeCodes s off v.toNat fullMask else s)

end Sys2Proof.Machine
end

