-- ==== Sys2Proof/Machine/Image.lean ====
section
/-! DEFINITION. Firmware images, the identity key and attestation reports (19_security.md R461 to R470). -/

namespace Sys2Proof.Machine

/-- `n` bytes of a list from byte `o`. -/
def slice {α : Type} (l : List α) (o n : Nat) : List α := (l.drop o).take n

/-- A 512-bit hash as a number, its first byte least significant. [00_scope.md R14; 02_arithmetic.md] -/
def hashOf (bs : List Byte) : Nat := leNat (sha3_512 bs)

/-! ### Verification (R464, R465) -/

/-- The 256-byte header of an image as a number. [19_security.md Table 19.2] -/
def imgHeader (img : List Byte) : Nat := leNat (slice img 0 256)

/-- MAGIC, VERSION and TYPE match the use and the reserved bits are zero. [19_security.md Table 19.2, Table 19.3] -/
def headerMatches (h : Nat) (types : List Nat) : Bool :=
  bitsOf h 0 32 = 0x57464D49 && bitsOf h 32 16 = 1 && types.contains (bitsOf h 48 8) && bitsOf h 57 7 = 0
    && bitsOf h 71 25 = 0 && bitsOf h 640 1408 = 0

/-- BODY_BYTES is in range and the image fits a source of `len` bytes. [19_security.md Table 19.2, Table 19.3] -/
def bodyFits (h len : Nat) : Bool :=
  let n := bitsOf h 96 32
  n % 32 = 0 && decide (32 ≤ n) && decide (n ≤ 16769024) && decide (8192 + n ≤ len)

/-- The body of an image. [19_security.md R464] -/
def imgBody (img : List Byte) : List Byte := slice img 8192 (bitsOf (imgHeader img) 96 32)

/-- The signature of an image verifies. [19_security.md R464] -/
def sigOk (img : List Byte) : Bool :=
  MlDsa.verify (slice img 256 2592) (ctxString "WFMFW001") (slice img 0 256) (slice img 2848 4627)

/-- The first of causes 3 to 6 that the header block of an image in a source of `len` bytes fails; 0 for none.
[19_security.md R465, Table 19.3] -/
def headCause (s : State) (img : List Byte) (len : Nat) (types : List Nat) : Nat :=
  let h := imgHeader img
  if !headerMatches h types then 3
  else if !bodyFits h len then 4
  else if hashOf (slice img 256 2592) ≠ s.fuses.vendorKeyHash then 5
  else if !sigOk img then 6
  else 0

/-- The SVN of an image is below the fused one. [19_security.md R467, Table 19.3] -/
def svnLow (s : State) (img : List Byte) : Bool := decide (bitsOf (imgHeader img) 64 7 < s.fuses.svn)

/-- The body of an image hashes to BODY_HASH. [19_security.md R465, Table 19.2] -/
def bodyHashed (img : List Byte) : Bool := hashOf (imgBody img) = bitsOf (imgHeader img) 128 512

/-- The first check of Table 19.3 that an image fails, from cause 3 on; 0 when it verifies. [19_security.md R465, Table 19.3] -/
def verifyImage (s : State) (img : List Byte) (types : List Nat) : Nat :=
  let c := headCause s img img.length types
  if c ≠ 0 then c else if !bodyHashed img then 7 else if svnLow s img then 8 else 0

/-- Verification of the image in the flash at boot: also the read and the flash header. [19_security.md Table 19.3;
20_signals_package.md R484] -/
def verifyFlash (s : State) : Nat :=
  if !s.flash.readOk then 1 else if !s.flash.headerOk then 2 else verifyImage s s.flash.fw [0]

/-! ### The identity key (R462) -/

/-- Mastiff derives the identity key pair and compares its public part with the certificate. [19_security.md R462, R470] -/
def deriveKey (s : State) : State :=
  let key := MlDsa.keyGen (leBytes 32 s.fuses.idSeed)
  let s := { s with mastiff := { s.mastiff with pub := key.1, priv := key.2 } }
  let s := fset s MBX_STATUS__KEY_OK (flag (key.1 == slice s.flash.cert 64 2592))
  forS (List.range 912) (fun w st => rset st MBX_CERT (leNat (slice st.flash.cert (8 * w) 8)) w) s

/-- The security fuses as MBX_STATUS shows them. [19_security.md Table 19.5] -/
def showFuses (s : State) : State :=
  fset (fset s MBX_STATUS__DEBUG_EVER (flag s.fuses.debugEver)) MBX_STATUS__FUSED_SVN s.fuses.svn

/-! ### Reports (R469) -/

/-- FUSE_HASH. [19_security.md R461] -/
def fuseHash (s : State) : Nat :=
  let f := s.fuses
  hashOf (Config.fuseWords f.vendorKeyHash f.serial f.svn (flag f.dbgArm) (flag f.debugEver) f.hubId f.mapHash)

/-- BODY_HASH of the active set; 0 with ACTIVE_BAD or in recovery. [19_security.md Table 19.4] -/
def cfgHash (s : State) : Nat :=
  if fbit s HUB_CFG_STATUS__ACTIVE_BAD || s.mastiff.recovery then 0
  else match s.boot.set with
    | some img => bitsOf (leNat (slice img 0 128)) 128 512
    | none => 0

/-- Bytes 0 to 383 of a report. [19_security.md Table 19.4] -/
def reportBytes (s : State) : List Byte :=
  let f := s.fuses
  let cfg := !(fbit s HUB_CFG_STATUS__ACTIVE_BAD || s.mastiff.recovery)
  let nonce := (List.range 8).flatMap fun i => leBytes 8 (rget s MBX_NONCE i)
  let first := 0x31525441 + 2 ^ 32 + flag f.debugEver * 2 ^ 48 + fget s MBX_STATUS__DEBUG_SESSION * 2 ^ 49
    + flag f.dbgArm * 2 ^ 50 + flag s.mastiff.recovery * 2 ^ 51 + fget s HUB_CFG_STATUS__ACTIVE_BAD * 2 ^ 52
  leBytes 8 first ++ leBytes 8 f.serial ++ leBytes 8 f.hubId
    ++ leBytes 8 (bitsOf (leNat s.mastiff.fwHeader) 64 7 + f.svn * 2 ^ 32)
    ++ leBytes 8 (now s)
    ++ leBytes 8 (if cfg then fget s HUB_CFG_ACTIVE__SEQ + fget s HUB_CFG_ACTIVE__SLOT * 2 ^ 32 else
      fget s HUB_CFG_ACTIVE__SLOT * 2 ^ 32)
    ++ nonce ++ leBytes 64 (hashOf s.mastiff.fwHeader) ++ leBytes 64 (cfgHash s) ++ leBytes 64 (fuseHash s)
    ++ leBytes 64 f.vendorKeyHash ++ List.replicate 16 0

/-- A write of REPORT: refused while BUSY; failed without a valid key; else queued for signing. [19_security.md R462, R463, R469] -/
def reportWrite (s : State) : State :=
  if !compUp s 0 then s
  else if fbit s MBX_STATUS__BUSY then mbxErr s 9
  else if !fbit s MBX_STATUS__KEY_OK then mbxErr (fset s MBX_STATUS__REPORT_DONE 0) 10
  else
    let s := fset (fset s MBX_STATUS__REPORT_DONE 0) MBX_STATUS__BUSY 1
    { s with mastiff := { s.mastiff with jobs := s.mastiff.jobs ++ [.report (reportBytes s)] } }

/-- REPORT. [19_security.md R469] -/
def execMbxReport (s : State) : Host.Outcome State Fault Refusal := .next (reportWrite s)

/-- The oldest request is a report: it is signed and stands in MBX_REPORT. [19_security.md R463, R469] -/
def reportDone (s : State) : State :=
  match s.mastiff.jobs with
  | .report bs :: rest =>
    if !compUp s 0 then s
    else
      let full := bs ++ deviceSign s "ATTEST01" bs ++ List.replicate 13 0
      let s := { s with mastiff := { s.mastiff with jobs := rest } }
      let s := forS (List.range 628) (fun w st => rset st MBX_REPORT (leNat (slice full (8 * w) 8)) w) s
      fset (fset s MBX_STATUS__BUSY 0) MBX_STATUS__REPORT_DONE 1
  | _ => s

/-- REPORT_DONE. [19_security.md R469] -/
def execReportDone (s : State) : Host.Outcome State Fault Refusal := .next (reportDone s)

/-! ### Debug (R468) -/

/-- A debug TAP instruction is loaded: DEBUG_SESSION is set, and DEBUG_EVER is programmed where DBG_ARM is set and it is clear;
`burnt` says whether the fuse then reads back set. The instruction takes effect then; where the fuse had to read back and does not, the
TAP holds BYPASS. [19_security.md R468] -/
def debugLoad (s : State) (burnt : Bool) : State :=
  let s := fset s MBX_STATUS__DEBUG_SESSION 1
  let f := s.fuses
  let ever := f.debugEver || (f.dbgArm && burnt)
  showFuses { s with fuses := { f with debugEver := ever }, boot := { s.boot with tapDebug := ever || !f.dbgArm } }

/-- DEBUG_INSTRUCTION. [19_security.md R468] -/
def execDebugInstruction (burnt : Bool) (s : State) : Host.Outcome State Fault Refusal := .next (debugLoad s burnt)

end Sys2Proof.Machine
end

