-- ==== Sys2Proof/Machine/CfgSet.lean ====
section
/-! DEFINITION. Configuration sets: the pointer area, the parsing and validation of a set, its application, and the commands
WRITE, SWAP and the quiet point (17_bringup.md R418 to R425). -/

namespace Sys2Proof.Machine

/-! ### The flash slots and the pointer area (R418) -/

/-- A pointer record is complete. [17_bringup.md Table 17.3] -/
def ptrComplete (x : Nat) : Bool := !bitOf x 255

/-- The complete record with the highest SEQ, the later of equals. [17_bringup.md R418] -/
def activePtr (s : State) : Option Nat :=
  ((s.flash.ptrA ++ s.flash.ptrB).filter ptrComplete).foldl
    (fun best x => match best with
      | none => some x
      | some y => if bitsOf y 0 32 ≤ bitsOf x 0 32 then some x else some y) none

/-- The slot that the pointer names. [17_bringup.md R418] -/
def activeSlot (s : State) : Nat := match activePtr s with
  | some x => bitsOf x 32 1
  | none => 0

/-- The bytes of a slot. [17_bringup.md Table 17.2] -/
def slotBytes (s : State) (k : Nat) : List Byte := if k = 0 then s.flash.slot0 else s.flash.slot1

/-- The flash with an image programmed in a slot. [17_bringup.md R421] -/
def programSlot (s : State) (k : Nat) (img : List Byte) : State :=
  if k = 0 then { s with flash := { s.flash with slot0 := img } } else { s with flash := { s.flash with slot1 := img } }

/-- A record is appended in the half that holds the newest; a full half gives way to the other, erased.
[17_bringup.md R418] -/
def appendPtr (s : State) (x : Nat) : State :=
  let f := s.flash
  let inB := match activePtr s with
    | some y => f.ptrB.contains y
    | none => false
  if inB then
    if f.ptrB.length < 1024 then { s with flash := { f with ptrB := f.ptrB ++ [x] } }
    else { s with flash := { f with ptrA := [x] } }
  else if f.ptrA.length < 1024 then { s with flash := { f with ptrA := f.ptrA ++ [x] } }
  else { s with flash := { f with ptrB := [x] } }

/-! ### Parsing (R419) -/

/-- The 128-byte header as a number. [17_bringup.md Table 17.4] -/
def setHeader (img : List Byte) : Nat := leNat (slice img 0 128)

/-- LENGTH of a header. [17_bringup.md Table 17.4] -/
def setLength (h : Nat) : Nat := bitsOf h 64 32

/-- LENGTH is a multiple of 8 within 4,194,176, and the reserved bits are zero. [17_bringup.md Table 17.4] -/
def setShape (h : Nat) : Bool :=
  bitsOf h 48 16 = 0 && bitsOf h 96 32 = 0 && bitsOf h 640 384 = 0 && setLength h % 8 = 0
    && decide (setLength h ≤ 4194176)

/-- The records of a body up to the end record, which must be its last word. [17_bringup.md R419] -/
def parseRecs : Nat → List Nat → Option (List (Nat × List Nat))
  | 0, _ => none
  | _, [] => none
  | n + 1, w :: ws =>
    let typ := bitsOf w 0 8
    let len := bitsOf w 16 16
    if bitsOf w 8 8 ≠ 0 ∨ bitsOf w 32 32 ≠ 0 then none
    else if typ = 0 then (if len = 0 ∧ ws.isEmpty then some [] else none)
    else if ws.length < len then none
    else (parseRecs n (ws.drop len)).map fun l => (typ, ws.take len) :: l

/-- A parsed set. [17_bringup.md Table 17.5] -/
structure CfgSet where
  steps : List Nat
  device : Nat
  reg : List Nat
  cal : List Nat
  tray : List Nat
  deriving DecidableEq, Repr

/-- The bodies of the records of one type. -/
def recsOf (l : List (Nat × List Nat)) (typ : Nat) : List (List Nat) :=
  (l.filter fun x => x.1 = typ).map fun x => x.2

/-- The reserved bits of a DEVICE record are zero and its fields in range. [17_bringup.md Table 17.6] -/
def deviceOk (d : Nat) : Bool :=
  bitsOf d 2 6 = 0 && bitsOf d 8 4 ≠ 0 && bitsOf d 12 4 ≠ 0 && bitsOf d 16 4 ≠ 0 && bitsOf d 20 3 ≠ 0 && !bitOf d 23
    && !bitOf d 35 && !bitOf d 39 && !bitOf d 43 && bitsOf d 47 17 = 0

/-- The records of Table 17.5 in their numbers and lengths; none where they break it. [17_bringup.md R419, Table 17.5] -/
def setOf (l : List (Nat × List Nat)) : Option CfgSet :=
  match recsOf l 1, recsOf l 2, recsOf l 3, recsOf l 4, recsOf l 5 with
  | [st], [[d]], reg, cal, [[t0, t1]] =>
    if st.length = 3 ∧ reg.length ≤ 1 ∧ cal.length ≤ 1 ∧ (l.all fun x => decide (x.1 ≤ 5)) ∧ t1 < 128 ∧ deviceOk d ∧
        reg.flatten.length % 2 = 0 then
      some ⟨st, d, reg.flatten, cal.flatten, [t0, t1]⟩
    else none
  | _, _, _, _, _ => none

/-- The set of an image. [17_bringup.md R419] -/
def parseSet (img : List Byte) : Option CfgSet :=
  let n := setLength (setHeader img)
  match parseRecs (n / 8 + 1) (wordsOf (n / 8 + 1) (slice img 128 n)) with
  | some l => setOf l
  | none => none

/-- The ten (STEP, ARG) entries. [17_bringup.md Table 17.5] -/
def stepEntries (c : CfgSet) : List (Nat × Nat) :=
  let x := c.steps.foldr (fun w a => w + 2 ^ 64 * a) 0
  (List.range 10).map fun i => (bitsOf x (16 * i) 8, bitsOf x (16 * i + 8) 8)

/-- The step list is 0x01 to 0x0A, with ARG bit 0 only in MEMTEST; the padding is zero (log 48). [17_bringup.md Table 17.5] -/
def stepsOk (c : CfgSet) : Bool :=
  ((stepEntries c).zipIdx.all fun x => x.1.1 = x.2 + 1 && (x.1.2 = 0 || (x.1.1 = 7 && x.1.2 = 1)))
    && bitsOf (c.steps.getD 2 0) 32 32 = 0

/-! ### REG entries (R422) -/

/-- The entries of a REG record, as (first word, value). [17_bringup.md R422] -/
def regEntries : List Nat → List (Nat × Nat)
  | w :: v :: r => (w, v) :: regEntries r
  | _ => []

/-- The BAR0 offsets an entry names. [17_bringup.md R422] -/
def entryOffsets (w : Nat) : List Nat :=
  let off := bitsOf w 0 32
  match bitsOf w 32 2 with
  | 0 => [off]
  | 1 => if off < 0x100000 then (List.range 16).map fun g => 0x01000000 + g * 0x100000 + off else []
  | 2 => if off < 0x10000 then (List.range 288).map fun p => 0x02000000 + p * 0x10000 + off else []
  | _ => []

/-- Registers that no entry may name although their fields would allow it. [17_bringup.md R422] -/
def regBarred (off : Nat) : Bool :=
  [1, 4, 5, 7, 8, 9].contains (off / 0x100000)
    || (instAt REGION_BIND off).isSome || (instAt REGION_STANDBY off).isSome || (instAt TILE_VAULT_CTRL off).isSome
    || (instAt KELPIE_QUAD_CFG off).isSome || off = 0x00600200 || (instAt KELPIE_CTX_WORD off).isSome
    || (0x00608000 ≤ off && off < 0x00610000) || (0x00600180 ≤ off && off ≤ 0x00600198)
    || off = 0x00200080 || off = 0x00200090

/-- A register may be named by an entry. [17_bringup.md R422] -/
def regNamed (off : Nat) : Bool :=
  match regAt off with
  | none => false
  | some a => !a.info.counter && (a.info.fields.all fun f => f.2 = .rw || f.2 = .rws || f.2 = .ro) && !regBarred off

/-- No reserved bit of an entry is set, and its SCOPE is not the reserved one. [17_bringup.md R420, R422] -/
def entryShape (x : Nat × Nat) : Bool := bitsOf x.1 34 30 = 0 && bitsOf x.1 32 2 ≠ 3

/-- An entry is permitted; the register blocks of one scope are alike. [17_bringup.md R422] -/
def entryOk (x : Nat × Nat) : Bool :=
  match (entryOffsets x.1).head? with
    | some off => regNamed off
    | none => false

/-- The register writes of a REG record in order. [17_bringup.md R422, R425] -/
def regWrites (c : CfgSet) : List (Nat × Nat) :=
  (regEntries c.reg).flatMap fun x => (entryOffsets x.1).map fun o => (o, x.2)

/-! ### CAL entries (R423) -/

/-- A CAL entry as (KIND, INDEX, VALUE). [17_bringup.md R423] -/
def calEntry (w : Nat) : Nat × Nat × Int := (bitsOf w 0 4, bitsOf w 16 10, sext 16 (bitsOf w 32 16))

/-- The factory band edges. [07_vaults.md Table 7.4] -/
def factoryEdge (k : Nat) : Nat :=
  match k with
  | 0 => 85
  | 1 => 82
  | 2 => 95
  | _ => 92

/-- No reserved bit of an entry is set. [17_bringup.md R420, R423] -/
def calShape (w : Nat) : Bool := bitsOf w 4 12 = 0 && bitsOf w 26 6 = 0 && bitsOf w 48 16 = 0

/-- An entry lies within Table 17.7. [17_bringup.md Table 17.7] -/
def calIn (w : Nat) : Bool :=
  let x := calEntry w
  match x.1 with
    | 0 => decide (x.2.1 < 1000) && decide (-24 ≤ x.2.2) && decide (x.2.2 ≤ 24)
    | 1 => decide (x.2.1 < 8) && decide (-10 ≤ x.2.2) && decide (x.2.2 ≤ 10)
    | 2 => decide (x.2.1 < 4) && decide (70 ≤ x.2.2) && decide (x.2.2 ≤ (factoryEdge x.2.1 : Int))
    | _ => false

/-- The values of one KIND. [17_bringup.md R423] -/
def calMap (c : CfgSet) (kind : Nat) : SMap Int :=
  ((c.cal.map calEntry).filter fun x => x.1 = kind).foldl (fun m x => smSet m x.2.1 x.2.2) []

/-- The entries are within their bounds, no (KIND, INDEX) pair repeats, and the band edges keep their order.
[17_bringup.md R423, Table 17.7] -/
def calOk (c : CfgSet) : Bool :=
  let e := fun k => smGet (calMap c 2) k (factoryEdge k : Int)
  let pairs := c.cal.map fun w => ((calEntry w).1, (calEntry w).2.1)
  c.cal.all calIn && pairs.eraseDups.length = pairs.length
    && decide (e 1 < e 0) && decide (e 3 < e 2) && decide (e 0 < e 2)

/-! ### Validity (R420) -/

/-- One register write without regard to domains, for the check of a set. -/
def plainWrite (s : State) (x : Nat × Nat) : State :=
  match regAt x.1 with
  | none => s
  | some a => rset s a.info.reg (limitValue s x.1 (writeValue a.info (rget s a.info.reg a.i a.j) x.2 fullMask)) a.i a.j

/-- SPLIT_RD, SPLIT_WR and SPLIT_RM of a DEVICE record. [17_bringup.md Table 17.6] -/
def deviceSplit (d : Nat) : Nat × Nat × Nat := (bitsOf d 8 4, bitsOf d 12 4, bitsOf d 16 4)

/-- The split and the retry limit of a DEVICE record in the control register of a vault. [17_bringup.md Table 17.6] -/
def deviceVault (s : State) (d p : Nat) : State :=
  let s := fset (fset s TILE_VAULT_CTRL__SPLIT_RD (bitsOf d 8 4) p) TILE_VAULT_CTRL__SPLIT_WR (bitsOf d 12 4) p
  let s := fset (fset s TILE_VAULT_CTRL__SPLIT_RM (bitsOf d 16 4) p) TILE_VAULT_CTRL__LEND (bitsOf d 1 1) p
  fset s TILE_VAULT_CTRL__RETRY_LIMIT (bitsOf d 20 3) p

/-- The guarantees that the set leaves are admitted, with its own split, CAR_SHARE and MAX_RATE; registers it does not name are
at reset (log 48). [12_regulation.md R310; 17_bringup.md R420] -/
def setAdmits (c : CfgSet) : Bool :=
  let s : State := { State.reset with regs := partRegs, boot := { Boot.reset with split := deviceSplit c.device } }
  let s := forS (regWrites c) (fun x st => plainWrite st x) s
  ((List.range 16).all fun g => regionAdmits s g) && hubAdmits s

/-- The cause of Table 17.12 for which an image is not valid, 0 where it is valid; `ptr` is a pointer's HASH_PREFIX.
[17_bringup.md R420, Table 17.12] -/
def setCause (img : List Byte) (ptr : Option Nat) : Nat :=
  let h := setHeader img
  let hash := bitsOf h 128 512
  if img.length < 128 ∨ bitsOf h 0 32 ≠ 0x5343474E ∨ bitsOf h 32 16 ≠ 1 then 1
  else if !setShape h then 3
  else if img.length < 128 + setLength h ∨ hashOf (slice img 128 (setLength h)) ≠ hash ∨
      (ptr.getD (hash % 2 ^ 127)) ≠ hash % 2 ^ 127 then 2
  else
    match parseSet img with
    | none => 3
    | some c =>
      if !((regEntries c.reg).all entryShape && c.cal.all calShape) then 3
      else if !stepsOk c then 4
      else if !(regEntries c.reg).all entryOk then 5
      else if !calOk c then 6
      else if !setAdmits c then 7
      else 0

/-- The image that a slot holds: its header and LENGTH bytes. [17_bringup.md R419] -/
def slotImage (s : State) (k : Nat) : List Byte :=
  let b := slotBytes s k
  b.take (128 + setLength (setHeader b))

/-- The valid set that the pointer names, with its SEQ. [17_bringup.md R418, R420] -/
def activeSet (s : State) : Option (Nat × List Byte) :=
  match activePtr s with
  | none => none
  | some x =>
    let img := slotImage s (bitsOf x 32 1)
    if setCause img (some (bitsOf x 128 127)) = 0 then some (bitsOf x 0 32, img) else none

/-! ### Application (R425) -/

/-- Nominal voltage of a rail in mV. [20_signals_package.md, rail table] -/
def railNominal (i : Nat) : Nat :=
  match i with
  | 4 => 800
  | 5 => 1050
  | 6 => 900
  | 7 => 1200
  | _ => 750

/-- Static address of the regulator of rail `i`, and its dynamic address too. [20_signals_package.md R474] -/
def railAddr (i : Nat) : Nat := 0x20 + i

/-- A transfer goes out to a regulator. [20_signals_package.md R474] -/
def railSend (s : State) (x : RailXfer) : State := onHusky s fun h => { h with railOut := h.railOut ++ [x] }

/-- The setpoints follow the voltage trims: each is written to SETPOINT_MV of its regulator. [17_bringup.md Table 17.7;
20_signals_package.md R474, Table 20.3] -/
def setpoints (s : State) : State :=
  forS (List.range 8) (fun i st =>
    let v := ((railNominal i : Int) + smGet st.boot.railTrim i 0).toNat
    railSend (fset st HUSKY_RAIL__SETPOINT_MV v i) (.write (railAddr i) 0 v)) s

/-- Each regulator takes its static address as its dynamic one. [20_signals_package.md R474] -/
def railAddresses (s : State) : State := forS (List.range 8) (fun i st => railSend st (.setdasa (railAddr i))) s

/-- The CAL record in force. [17_bringup.md R423, R429] -/
def applyCal (s : State) (c : CfgSet) : State :=
  setpoints { s with boot := { s.boot with
    sensorCal := calMap c 0
    railTrim := calMap c 1
    bandEdge := (calMap c 2).map fun x => (x.1, x.2.toNat) } }

/-- The TRAY record in force. [16_thermal_power.md R400; 17_bringup.md Table 17.5] -/
def applyTray (s : State) (c : CfgSet) : State :=
  fset (rset s HUSKY_TRAY_CFG (c.tray.getD 0 0)) HUSKY_TRAY_ADDR__ADDR (c.tray.getD 1 0)

/-- The quad modes of a DEVICE record. [17_bringup.md Table 17.6] -/
def quadModes (s : State) (d : Nat) : State :=
  forS (List.range 4) (fun q st => fset st KELPIE_QUAD_CFG__MODE (bitsOf d (32 + 4 * q) 3) q) s

/-- The DEVICE record in force. [17_bringup.md R425, Table 17.6] -/
def applyDevice (s : State) (d : Nat) : State :=
  let s := fset s HUB_MODE__STRICT (bitsOf d 0 1)
  let s := forS (List.range 288) (fun p st => deviceVault st d p) s
  let s := forS ((List.range 16).filter fun g => jasperRegion s g)
    (fun g st => fset st REGION_JASPER_STATUS__MODE (bitsOf d (16 + g) 1) g) s
  quadModes { s with boot := { s.boot with split := deviceSplit d } } d

/-- One REG entry written to a block that answers; a HEAD that it names clears the loop state. [01_architecture.md R34;
04_tile_commands.md R105; 17_bringup.md R425] -/
def applyReg (s : State) (x : Nat × Nat) : State :=
  if !blockOn s x.1 then s
  else match instAt TILE_STREAM_HEAD x.1 with
    | some k => streamHeadReg s k.1 k.2 x.1 x.2 fullMask
    | none => writeCodes s x.1 x.2 fullMask

/-- One guarantee of a set: R310 refuses none of them. [12_regulation.md R312; 17_bringup.md R425] -/
def applyGuarantee (s : State) (x : Nat × Nat) : State := if blockOn s x.1 then plainWrite s x else s

/-- The guarantee registers at zero. [17_bringup.md R425] -/
def zeroGuarantees (s : State) : State :=
  let s := forS (List.range 128) (fun i st => rset (rset st REGION_QOS_VMIN 0 (i / 8) (i % 8)) REGION_QOS_LMIN 0 (i / 8) (i % 8)) s
  forS (List.range 8) (fun c st => rset st FAB_QOS_LMIN 0 c) s

/-- A set is applied in the order of R425. [17_bringup.md R425] -/
def applySet (s : State) (seq : Nat) (img : List Byte) : State :=
  match parseSet img with
  | none => s
  | some c =>
    let s := applyTray (applyCal (applyDevice s c.device) c) c
    let ws := regWrites c
    let s := forS (ws.filter fun x => (guaranteeAt x.1).isNone) (fun x st => applyReg st x) s
    let s := forS (ws.filter fun x => (guaranteeAt x.1).isSome) (fun x st => applyGuarantee st x) (zeroGuarantees s)
    { s with boot := { s.boot with set := some img, setSeq := seq } }

/-! ### The commands (R421, R424) -/

/-- A WRITE or SWAP fails or is refused. [17_bringup.md R421, R424] -/
def cfgFail (s : State) (cause : Nat) : State :=
  postEvent (fset (fset s HUB_CFG_STATUS__ERR 1) HUB_CFG_STATUS__CAUSE cause) evtCfgRejected cause

/-- A write of WRITE = 1. [17_bringup.md R421] -/
def cfgWrite (s : State) (flashOk : Bool) : State :=
  if !compUp s 3 then s
  else if fbit s HUB_CFG_STATUS__BUSY || fbit s HUB_CFG_STATUS__PENDING then cfgFail s 8
  else
    let va := fget s HUB_CFG_SRC__VA * 8
    let a := hubRead s 7 va 128
    if a.2.cause ≠ 0 ∨ a.2.tag ≠ 0 then cfgFail a.1 1
    else
      let h := leNat a.2.bytes
      let n := if setShape h then setLength h else 0
      let b := hubRead a.1 7 (va + 128) n
      if b.2.cause ≠ 0 ∨ b.2.tag ≠ 0 then cfgFail b.1 2
      else
        let img := a.2.bytes ++ b.2.bytes
        let cause := setCause img none
        let k := 1 - activeSlot b.1
        if cause ≠ 0 then cfgFail b.1 cause
        else if !flashOk then cfgFail (programSlot b.1 k []) 9
        else fset (programSlot b.1 k img) HUB_CFG_STATUS__DONE 1

/-- HUB_CFG_WRITE. [17_bringup.md R421] -/
def execCfgWrite (flashOk : Bool) (s : State) : Host.Outcome State Fault Refusal := .next (cfgWrite s flashOk)

/-- A write of SWAP = 1. [17_bringup.md R424] -/
def cfgSwap (s : State) : State :=
  if !compUp s 3 then s
  else
    let k := 1 - activeSlot s
    let img := slotImage s k
    if setCause img none ≠ 0 then cfgFail s 10
    else
      let seq := ((match activePtr s with
        | some x => bitsOf x 0 32
        | none => 0) + 1) % 2 ^ 32
      let pre := bitsOf (setHeader img) 128 127
      fset (appendPtr s (seq + k * 2 ^ 32 + pre * 2 ^ 128)) HUB_CFG_STATUS__PENDING 1

/-- HUB_CFG_SWAP. [17_bringup.md R424] -/
def execCfgSwap (s : State) : Host.Outcome State Fault Refusal := .next (cfgSwap s)

/-- A quiet point, for a set with STRICT as given. [17_bringup.md R424] -/
def quietNow (s : State) (strict : Bool) : Bool :=
  ((List.range 288).all fun p => (tileState s p = 0 || tileState s p = 3) && !fbit s TILE_COLLIE_CTRL__ARM p)
    && !fbit s HUB_START__PENDING && !(s.kelpie.wqes.any fun w => bitsOf w.bits 0 8 = 2) && !fbit s OPAL_STATUS__RUN_OPEN
    && bhState s = 0 && (s.tiles.all fun x => x.2.jprog.isNone) && agateState s = 0 && fget s HUSKY_STATUS__STATE = 0
    && !(strict && s.host.planFeat % 16 ≠ 0)

/-- The device's record of the set in force. [17_bringup.md Table 17.10] -/
def showActive (s : State) (seq slot : Nat) : State := fset (fset s HUB_CFG_ACTIVE__SEQ seq) HUB_CFG_ACTIVE__SLOT slot

/-- Sheltie tests for a quiet point. [17_bringup.md R424] -/
def quietTest (s : State) : State :=
  match activePtr s with
  | none => s
  | some x =>
    let img := slotImage s (bitsOf x 32 1)
    let strict := match parseSet img with
      | some c => bitOf c.device 0
      | none => false
    if !compUp s 3 || !fbit s HUB_CFG_STATUS__PENDING || !quietNow s strict then s
    else
      let seq := bitsOf x 0 32
      let same := s.boot.set = some img ∧ fget s HUB_CFG_ACTIVE__SLOT = bitsOf x 32 1
      let s := showActive (fset s HUB_CFG_STATUS__PENDING 0) seq (bitsOf x 32 1)
      if same then s
      else postEvent (fset (applySet s seq img) HUB_CFG_STATUS__ACTIVE_BAD 0) evtCfgSwapped seq

/-- QUIET_POINT_TEST. [17_bringup.md R424] -/
def execQuietPoint (s : State) : Host.Outcome State Fault Refusal := .next (quietTest s)

end Sys2Proof.Machine
end

