-- ==== Sys2Proof/Machine/Repair.lean ====
section
/-! DEFINITION. Repair at start-up: records, the training of a vault, checker self-test outcomes, failing rows and the floor plan
(07_vaults.md R182 to R184; 08_ecc_repair.md R203 to R208; 17_bringup.md R428, R431). -/

namespace Sys2Proof.Machine

/-! ### Records (R204, R205) -/

/-- TYPE of a record. [08_ecc_repair.md Table 8.6] -/
def recType (r : Nat) : Nat := bitsOf r 0 4
/-- TILE. [08_ecc_repair.md Table 8.6] -/
def recTile (r : Nat) : Nat := bitsOf r 4 9
/-- CHANNEL. [08_ecc_repair.md Table 8.6] -/
def recChan (r : Nat) : Nat := bitsOf r 13 3
/-- BANK. [08_ecc_repair.md Table 8.6] -/
def recBank (r : Nat) : Nat := bitsOf r 16 4
/-- ROW. [08_ecc_repair.md Table 8.6] -/
def recRow (r : Nat) : Nat := bitsOf r 20 14
/-- SPARE. [08_ecc_repair.md Table 8.6] -/
def recSpare (r : Nat) : Nat := bitsOf r 34 6
/-- ARG. [08_ecc_repair.md Table 8.6] -/
def recArg (r : Nat) : Nat := bitsOf r 40 11
/-- SOURCE. [08_ecc_repair.md Table 8.6] -/
def recSource (r : Nat) : Nat := bitsOf r 56 4

/-- The complete records of the fuse map, before its end record. [08_ecc_repair.md R204, R205] -/
def fuseRecs (s : State) : List Nat :=
  ((wordsOf (s.flash.fuseMap.length / 8 + 1) s.flash.fuseMap).takeWhile fun r => recType r ≠ 0).filter fun r => !bitOf r 63

/-- The complete records of the field defect log, with those about to be appended. [08_ecc_repair.md R205, R206] -/
def logRecs (s : State) : List Nat := (s.flash.fieldLog ++ s.blood.logQ).filter fun r => !bitOf r 63

/-- Records of one TYPE for a channel. -/
def chanRecs (l : List Nat) (typ p c : Nat) : List Nat :=
  l.filter fun r => recType r = typ && recTile r = p && recChan r = c

/-- A unit that no record calls bad yet is logged. [08_ecc_repair.md R207] -/
def logOnce (s : State) (r : Nat) : State :=
  if (fuseRecs s ++ logRecs s).any fun x => x % 2 ^ 55 = r % 2 ^ 55 then s else logRecord s r

/-! ### Connections (R182, R183) -/

/-- The spares of a channel in the order they were taken, with the connection each replaces and whether the fuse map says so;
and the connection that found no spare. [07_vaults.md R182, R183] -/
structure Spares where
  taken : List (Nat × Bool)
  out : Option Nat
  deriving DecidableEq, Repr

/-- A connection takes the next free of the 32 spares. [07_vaults.md R182, R183] -/
def takeSpare (fuse : Bool) (t : Spares) (conn : Nat) : Spares :=
  if t.out.isSome then t
  else if 32 ≤ t.taken.length then { t with out := some conn }
  else { t with taken := t.taken ++ [(conn, fuse)] }

/-- The connections below `n` of a list in ascending order, each once. [07_vaults.md R182] -/
def ascending (n : Nat) (l : List Nat) : List Nat := (List.range n).filter fun k => l.contains k

/-- Training: the repairs of the fuse map, then the failing connections of the first pass (0 to 1,207) and those the field log
names, then up to four repeats, each with the connections, spares among them, that fail it. [07_vaults.md R182, R183;
08_ecc_repair.md R207] -/
def trainConns (fuse known : List Nat) (passes : List (List Nat)) : Spares :=
  let t := fuse.foldl (takeSpare true) ⟨[], none⟩
  let first := (ascending 1208 (passes.headD [] ++ known)).filter fun k => !t.taken.any fun x => x.1 = k
  let t := first.foldl (takeSpare false) t
  let again := ((passes.drop 1).takeWhile fun l => !l.isEmpty).take 4
  let t := again.foldl (fun u l => (ascending 1240 l).foldl (takeSpare false) u) t
  if t.out.isNone && again.length = 4 then { t with out := (ascending 1240 (again.getD 3 [])).head? } else t

/-! ### Map-out (R184) -/

/-- MiB of one channel. [07_vaults.md Table 7.2] -/
def chanMib (s : State) (p : Nat) : Nat := if jasperVault s p then 288 else 384

/-- CAP_MIB follows the channels mapped out. [07_vaults.md R184] -/
def updCapMib (s : State) (p : Nat) : State :=
  fset s TILE_VAULT_STATUS__CAP_MIB ((8 - popcount 8 (fget s TILE_VAULT_STATUS__CH_OUT p)) * chanMib s p) p

/-- A channel is mapped out, and logged with the step that found it. [07_vaults.md R183, R184; 08_ecc_repair.md R207] -/
def mapOut (s : State) (p c source : Nat) : State :=
  let s := fset s TILE_VAULT_CH_STATUS__STATE 1 p c
  let s := fset s TILE_VAULT_STATUS__CH_OUT (setBits (fget s TILE_VAULT_STATUS__CH_OUT p) c 1 1) p
  logOnce (updCapMib s p) (repairRec 5 p c 0 0 0 0 source)

/-! ### Rows (R203) -/

/-- A window goes to the lowest free spare of the repair pool, then of the field pool; with none left its channel is mapped out.
[08_ecc_repair.md R203] -/
def repairRow (s : State) (p c w source : Nat) : State :=
  let bank := w % 16
  match (freeSpare s p c bank 0 56).orElse fun _ => freeSpare s p c bank 56 64 with
  | some k => onChan (useSpare s p c bank k) p c fun ch => { ch with remap := smSet ch.remap w k }
  | none => mapOut s p c source

/-- Window of the row that a record names. [07_vaults.md R166] -/
def recWin (r : Nat) : Nat := recRow r * 16 + recBank r

/-- A ROW record of the fuse map: to the spare it names, or to the next free one where that spare is bad. [08_ecc_repair.md R203] -/
def fuseRow (p c : Nat) (s : State) (r : Nat) : State :=
  let k := recSpare r
  if bitOf (smGet (chanOf s p c).spareUsed (recBank r) 0) k then repairRow s p c (recWin r) 1
  else onChan (useSpare s p c (recBank r) k) p c fun ch => { ch with remap := smSet ch.remap (recWin r) k }

/-- A ROW record of the field log: each takes the lowest free spare, so a row that failed again leaves its failed spare.
[08_ecc_repair.md R203] -/
def logRow (p c : Nat) (s : State) (r : Nat) : State := repairRow s p c (recWin r) 1

/-- The column and row repairs of a channel, in the order of R203, after the spares that records retire. A column repair puts the
spare column of the bank in the place of the word column that ARG names. [08_ecc_repair.md R203, Table 8.6] -/
def repairChan (s : State) (p c : Nat) : State :=
  let f := fuseRecs s
  let l := logRecs s
  let s := (chanRecs (f ++ l) 6 p c).foldl (fun st r => useSpare st p c (recBank r) (recSpare r)) s
  let s := (chanRecs f 4 p c).foldl (fun st r => onChan st p c fun ch => { ch with
    colUsed := smSet ch.colUsed (recBank r) (setBits (smGet ch.colUsed (recBank r) 0) (recSpare r % 4) 1 1)
    colMap := smSet ch.colMap (recBank r * 4 + recSpare r % 4) (recArg r) }) s
  let s := (chanRecs f 3 p c).foldl (fuseRow p c) s
  (chanRecs l 3 p c).foldl (logRow p c) s

/-! ### Training (R182, R183) -/

/-- One channel is trained or mapped out. [07_vaults.md R182, R183] -/
def trainChan (s : State) (p c : Nat) (passes : List (List Nat)) : State :=
  let f := fuseRecs s
  let l := logRecs s
  let known := (chanRecs l 2 p c).map recArg
  let t := trainConns ((chanRecs f 2 p c).map recArg) known passes
  let recorded := !(chanRecs (f ++ l) 5 p c).isEmpty
  let conns := (t.taken.zipIdx).map fun x => (x.2, x.1.1 + 2048 * flag x.1.2)
  let split := ctrlSplit s p
  let s := onChan s p c fun _ => { Chan.reset with conns := conns, split := split }
  let used := t.taken.length * 2 ^ 8 + (t.taken.filter fun x => x.2).length * 2 ^ 14
  let bad := match t.out with
    | some k => k * 2 ^ 32 + 2 ^ 43
    | none => 0
  let s := rset s TILE_VAULT_CH_STATUS (used + bad) p c
  let s := ((t.taken.filter fun x => !x.2 && decide (x.1 < 1208)).map fun x => x.1).foldl (fun st k => logOnce st (repairRec 2 p c 0 0 0 k 1)) s
  let s := repairChan s p c
  if t.out.isSome || recorded then mapOut s p c 1 else s

/-- The failing connections of each pass on a channel, as the step met them. -/
def passesOf (bad : List (Nat × Nat × List Nat)) (p c : Nat) : List (List Nat) :=
  (bad.filter fun x => x.1 = p && x.2.1 = c).map fun x => x.2.2

/-- A vault is trained: each active channel then issues a refresh at once. [07_vaults.md R172, R182 to R184] -/
def trainTile (bad : List (Nat × Nat × List Nat)) (s : State) (p : Nat) : State :=
  let s := fset (fset s TILE_VAULT_STATUS__CH_OUT 0 p) TILE_VAULT_STATUS__BAND (fget s REGION_DRAM_BAND__BAND (p / 18)) p
  let s := forS (List.range 8) (fun c st => trainChan st p c (passesOf bad p c)) s
  let s := updSpares (updCapMib (fset s TILE_VAULT_STATUS__TRAINED 1 p) p) p
  forS (List.range 8) (fun c st => if chanActive st p c then refreshAtOnce st p c else st) s

/-! ### The checkers (R208) -/

/-- The words that the light-code decoders are driven with are decoded as expected: two clean words, each of the 72 single flips
corrected, and the 36 double flips uncorrectable. [08_ecc_repair.md Table 8.7] -/
def lightPatternsPass : Bool :=
  let w := 0xA5A55A5A0F0FF0F0
  let k := lightCheck w
  let flip := fun i => if i < 64 then 2 ^ i else 0
  let flipK := fun i => if i < 64 then 0 else 2 ^ (i - 64)
  [0, 2 ^ 64 - 1].all (fun x => lightDecode x (lightCheck x) = .clean)
    && (List.range 72).all (fun i => lightDecode (Nat.xor w (flip i)) (Nat.xor k (flipK i)) = .corrected w)
    && (List.range 36).all fun m =>
      lightDecode (Nat.xor w (flip (2 * m) + flip (2 * m + 1))) (Nat.xor k (flipK (2 * m) + flipK (2 * m + 1))) = .bad

/-- Even parity over `n` bits and their parity bit above them. [07_vaults.md R179] -/
def evenParity (n x : Nat) : Bool := popcount (n + 1) x % 2 = 0

/-- The parity checkers pass even data and fail odd data: 16 groups of 72 connections and the 39 of a command.
[07_vaults.md R179; 08_ecc_repair.md Table 8.7] -/
def parityPatternsPass : Bool :=
  (List.replicate 16 72 ++ [39]).all fun n => evenParity n 3 && !evenParity n 1

/-- A row of zeros with every tag P, as the status checkers are driven with it. -/
def statusRow : RowView := ⟨List.replicate 256 0, List.replicate 256 0, List.replicate 64 1, false⟩

/-- The status checkers fail every single inversion of a status word, and the tags read unchanged with one copy inverted.
[08_ecc_repair.md R188, Table 8.7] -/
def statusPatternsPass : Bool :=
  let x := burstStatus statusRow
  statusPasses x && (List.range 129).all (fun i => !statusPasses (Nat.xor x (2 ^ i)))
    && (List.range 4).all fun t => (List.range 3).all fun k =>
      tagRead (BitVec.ofNat 8 (Nat.xor (tagStored t).toNat (3 * 4 ^ k))) = t

/-- A row of zeros whose bytes below `n` blocks of 16, in the codewords of `ks`, are inverted. -/
def pageRow (n : Nat) (ks : Nat → Bool) : RowView :=
  let byte := fun i => if decide (i / 16 < n) && ks (i % 16) then (0xFF : Byte) else 0
  ⟨wordsOf 256 ((List.range 2048).map byte), List.replicate 256 0, List.replicate 64 0, false⟩

/-- The page decoder restores rows with no and with four symbol errors in each codeword, and the five inverted bytes of INJ_KIND 2
are not accepted. [08_ecc_repair.md R193, Tables 8.7, 8.9] -/
def pagePatternsPass : Bool :=
  let code := List.replicate 128 (0 : Byte)
  let restored := fun v => (pageFix v code).map (fun l => l.map Prod.fst) = some (List.replicate 256 0)
  restored (pageRow 0 fun _ => true) && restored (pageRow 4 fun _ => true) && (pageFix (pageRow 5 fun k => k == 0) code).isNone

/-- The checkers, by number, whose patterns do not come out of the normal decode path as expected. [08_ecc_repair.md R208] -/
def patternFails : List Nat :=
  (if lightPatternsPass then [] else List.range 8 ++ [17])
    ++ (if parityPatternsPass && statusPatternsPass then [] else (List.range 8).map fun c => 8 + c)
    ++ if pagePatternsPass then [] else [16]

/-- A tile is bad, and logged. [08_ecc_repair.md R207] -/
def tileBad (s : State) (p source : Nat) : State :=
  logOnce { s with boot := { s.boot with badTiles := if s.boot.badTiles.contains p then s.boot.badTiles else p :: s.boot.badTiles } }
    (repairRec 1 p 0 0 0 0 0 source)

/-- A failed checker of a tile: 0 to 7 the light decoders, 8 to 15 the parity and status checkers of the channels, 16 the page
decoder, 17 the Spinel decoders. [08_ecc_repair.md Table 8.7, Table 8.12] -/
def checkerFail (s : State) (x : Nat × Nat) : State :=
  let s := rset s TILE_ECC_SELFTEST (setBits (rget s TILE_ECC_SELFTEST x.1) x.2 1 1) x.1
  if x.2 < 16 then mapOut s x.1 (x.2 % 8) 3 else tileBad s x.1 3

/-- The self-test of the tiles of a list: every checker is driven with its patterns; `bad` names the checkers, as (tile, number),
whose hardware gives another outcome. [08_ecc_repair.md R208] -/
def selfTest (s : State) (tiles : List Nat) (bad : List (Nat × Nat)) : State :=
  let s := forS tiles (fun p st => rset st TILE_ECC_SELFTEST (2 ^ 18) p) s
  let all := bad ++ tiles.flatMap fun p => patternFails.map fun k => (p, k)
  forS (all.filter fun x => tiles.contains x.1 && decide (x.2 < 18)) (fun x st => checkerFail st x) s

/-! ### The memory test (R430) -/

/-- A row fails the test: its spare is retired where it already has one, and it takes the next. [08_ecc_repair.md R203] -/
def testRow (s : State) (x : Nat × Nat × Nat) : State :=
  let p := x.1
  let c := x.2.1
  let w := x.2.2
  let s := match smFind (chanOf s p c).remap w with
    | some k => logOnce s (repairRec 6 p c (w % 16) 0 k 0 2)
    | none => logOnce s (repairRec 3 p c (w % 16) (w / 16) 0 0 2)
  repairRow s p c w 2

/-- Every row of a vault holds zeros with clean tags and is sealed. [17_bringup.md R430] -/
def zeroVault (s : State) (p : Nat) : State := loseVault s p

/-- The failing rows that the test of these tiles can meet: rows of active channels. [17_bringup.md R430] -/
def testableRows (s : State) (tiles : List Nat) (rows : List (Nat × Nat × Nat)) : List (Nat × Nat × Nat) :=
  rows.filter fun x => tiles.contains x.1 && decide (x.2.1 < 8) && chanActive s x.1 x.2.1 && decide (x.2.2 < chanRows s x.1)

/-- The memory test of the vaults of a list: the rows it repaired. [17_bringup.md R430; 08_ecc_repair.md R203] -/
def testRows (s : State) (tiles : List Nat) (rows : List (Nat × Nat × Nat)) : State × Nat :=
  let l := testableRows s tiles rows
  let s := forS l (fun x st => testRow st x) s
  let n := (l.eraseDups.filter fun x => (smFind (chanOf s x.1 x.2.1).remap x.2.2).isSome).length
  (forS tiles (fun p st => zeroVault (updSpares st p) p) s, n)

/-! ### Exclusion and the floor plan (R207, R428, R431) -/

/-- Tiles are excluded. [17_bringup.md R428] -/
def exclude (s : State) (l : List Nat) : State :=
  { s with boot := { s.boot with excluded := s.boot.excluded ++ l.filter fun p => !s.boot.excluded.contains p } }

/-- A region is excluded: fenced as R377 states, without CAPACITY_REDUCED; `code` goes into the event. [17_bringup.md R428] -/
def excludeRegion (s : State) (g code : Nat) : State :=
  let s := exclude s ((List.range 18).map fun k => g * 18 + k)
  if fbit s REGION_FENCE__REGION_FENCED g then s
  else
    let n := 18 - popcount 18 (fget s REGION_FENCE__FENCED g)
    let s := fset (fset s REGION_FENCE__FENCED (2 ^ 18 - 1) g) REGION_FENCE__REGION_FENCED 1 g
    postEvent (bumpN s BH_FENCE_COUNT n) evtRegionFenced (g + code * 2 ^ 8)

/-- A tile is bad. [08_ecc_repair.md R207; 07_vaults.md R184] -/
def isBad (s : State) (p : Nat) : Bool :=
  s.boot.badTiles.contains p || ((fuseRecs s ++ logRecs s).any fun r => recType r = 1 && recTile r = p)
    || fget s TILE_VAULT_STATUS__CH_OUT p = 255

/-- A tile is good. [17_bringup.md R431] -/
def isGood (s : State) (p : Nat) : Bool := !isBad s p && !s.boot.excluded.contains p

/-- The mask of the slots of region `g` that satisfy `f`. -/
def slotMask (g : Nat) (f : Nat → Bool) : Nat := sumNat ((List.range 18).map fun k => flag (f (g * 18 + k)) * 2 ^ k)

/-- The floor plan of region `g`. [17_bringup.md R431, Table 17.10] -/
def planRegion (s : State) (g : Nat) : State :=
  let good := slotMask g (isGood s)
  let cand := slotMask g fun p => isGood s p && fget s TILE_VAULT_STATUS__CH_OUT p = 0
  let s := fset (fset s SEQ_FP_REGION__GOOD good g) SEQ_FP_REGION__CAND cand g
  let s := fset s SEQ_FP_REGION__EXCLUDED (slotMask g fun p => s.boot.excluded.contains p) g
  fset (fset s SEQ_FP_REGION__GOOD_COUNT (popcount 18 good) g) SEQ_FP_REGION__JASPER (flag (jasperRegion s g)) g

/-- The summary, from the registers of the regions. [17_bringup.md R431, Table 17.10] -/
def planSummary (s : State) : State :=
  let good := (List.range 288).filter fun p => tileGood s p
  let shrunk := good.filter fun p => fget s TILE_VAULT_STATUS__CH_OUT p ≠ 0
  let s := fset (fset s SEQ_FP_SUMMARY__GOOD_TILES good.length) SEQ_FP_SUMMARY__SHRUNK shrunk.length
  let s := fset (fset s SEQ_FP_SUMMARY__JASPER (flag (partJ s))) SEQ_FP_SUMMARY__SITE s.boot.site
  fset s SEQ_FP_SUMMARY__CAP_MIB (sumNat (good.map fun p => fget s TILE_VAULT_STATUS__CAP_MIB p))

/-- SOURCE of the TILE_BAD record of a tile with no channel left: that of the last of its CHANNEL_OUT records.
[08_ecc_repair.md R207, Table 8.6] -/
def lastChanSource (s : State) (p : Nat) : Nat :=
  (((fuseRecs s ++ logRecs s).filter fun r => recType r = 5 && recTile r = p).getLast?.map recSource).getD 1

/-- Bad tiles are recorded and powered off. [08_ecc_repair.md R207; 17_bringup.md Table 17.8] -/
def dropBad (s : State) (tiles : List Nat) : State :=
  forS (tiles.filter fun p => isBad s p) (fun p st =>
    let st := if fget st TILE_VAULT_STATUS__CH_OUT p = 255 then tileBad st p (lastChanSource st p) else st
    stepOff st p) s

end Sys2Proof.Machine
end

