-- ==== Sys2Proof/Machine/Steps.lean ====
section
/-! DEFINITION. The Step Sequencer, its ten steps, and the reset of one die (17_bringup.md R426 to R431;
15_fault_tolerance.md R380). -/

namespace Sys2Proof.Machine

/-! ### The sequencer (R426, R427) -/

/-- The step sequencer's own state changed by `f`. -/
def onBoot (s : State) (f : Boot → Boot) : State := { s with boot := f s.boot }

/-- The step that runs. [17_bringup.md Table 17.10] -/
def seqCur (s : State) : Nat := fget s SEQ_STATUS__CUR

/-- The last step DONE. [17_bringup.md Table 17.10] -/
def seqDone (s : State) : Nat := fget s SEQ_STATUS__LAST_DONE

/-- A step begins. [17_bringup.md R426] -/
def startStep (s : State) (step arg : Nat) : State :=
  let s := fset (fset (fset s SEQ_STATUS__STATE 1) SEQ_STATUS__CUR step) SEQ_STATUS__CAUSE 0
  onBoot s fun b => { b with stepAt := now s, arg := arg, out := none }

/-- A valid context on a quad. [13_network.md R321] -/
def quadHeld (s : State) (q : Nat) : Bool := s.kelpie.ctx.any fun x => ctxValid x.2 && ctxPort x.2 / 4 = q

/-- Quads whose mode would change. [13_network.md R314] -/
def quadsChanged (s : State) : List Nat :=
  (List.range 4).filter fun q => fget s KELPIE_QUAD_CFG__MODE q ≠ portMode s (4 * q)

/-- A step command is refused. [17_bringup.md R426] -/
def seqRefuse (s : State) (step arg : Nat) : Bool :=
  fget s SEQ_STATUS__STATE = 1 || !s.boot.replay.isEmpty || step = 0 || decide (10 < step)
    || !(arg = 0 || (step = 7 && arg = 1))
    || (if s.boot.ready then step ≠ 9 || (quadsChanged s).any fun q => quadHeld s q
        else step ≠ seqDone s + 1)

/-- A write of SEQ_CMD; the sequencer runs from stage 7 of the boot on. [17_bringup.md R415, R426] -/
def seqWrite (s : State) (v : Nat) : State :=
  let step := bitsOf v 0 8
  let arg := bitsOf v 8 8
  if fget s HUB_BOOT_STATUS__STAGE ≠ 7 ∨ !compUp s 3 then s
  else if seqRefuse s step arg then fset s SEQ_STATUS__ERR 1
  else startStep s step arg

/-- The action of step `code` may act: the step runs and its action has not ended. [17_bringup.md R427] -/
def stepRuns (s : State) (code : Nat) : Bool :=
  fget s SEQ_STATUS__STATE = 1 && seqCur s = code && s.boot.out.isNone && compUp s 3

/-- The action of a step ends with a cause, 0 for DONE. [17_bringup.md R427] -/
def endAction (s : State) (cause : Nat) : State := onBoot s fun b => { b with out := some cause }

/-- `s` passed to the action of step `code`, if it runs. -/
def whenStep (s : State) (code : Nat) (f : State → State) : State := if stepRuns s code then f s else s

/-- What the end of a step that is DONE leaves: STATE is IDLE, and READY from the step READY on, whose end posts DEVICE_READY.
[17_bringup.md R426, R427, Table 17.8] -/
def doneState (s : State) (code : Nat) : State :=
  let s := fset s SEQ_STATUS__LAST_DONE code
  if code = 10 then
    postEvent (fset (onBoot s fun b => { b with ready := true }) SEQ_STATUS__STATE 3) evtDeviceReady
      (fget s HUB_CFG_STATUS__ACTIVE_BAD + fget s HUB_CFG_ACTIVE__SEQ * 2 ^ 32)
  else fset s SEQ_STATUS__STATE (if s.boot.ready then 3 else 0)

/-- The step that runs ends DONE or FAILED; the replay goes on or stops. [17_bringup.md R426, R427] -/
def finishStep (s : State) (cause : Nat) : State :=
  let code := seqCur s
  let ms := (now s - s.boot.stepAt) / 1000000 % 2 ^ 32
  let s := rset s SEQ_STEP_LOG ((if cause = 0 then 1 else 2) + cause * 2 ^ 8 + ms * 2 ^ 16) code
  let s := onBoot s fun b => { b with out := none }
  let payload := code + cause * 2 ^ 8 + ms * 2 ^ 16
  if cause = 0 then
    let s := postEvent (doneState s code) evtStepDone payload
    match s.boot.replay with
    | x :: rest => startStep (onBoot s fun b => { b with replay := rest }) x.1 x.2
    | [] => s
  else
    let s := postEvent (fset (fset s SEQ_STATUS__STATE 2) SEQ_STATUS__CAUSE cause) evtStepFailed payload
    onBoot s fun b => { b with replay := [] }

/-- STEP_DONE: the action of the step has ended. [17_bringup.md R427] -/
def execStepDone (s : State) : Host.Outcome State Fault Refusal :=
  .next (match s.boot.out with
    | some c => if fget s SEQ_STATUS__STATE = 1 then finishStep s c else s
    | none => s)

/-- The limit of a step in ms; MEMTEST's is longer for the full test. [17_bringup.md Table 17.8] -/
def stepLimitMs (code arg : Nat) : Nat :=
  match code with
  | 1 => 2000
  | 2 => 500
  | 3 => 2000
  | 4 => 5000
  | 5 => 30000
  | 6 => 5000
  | 7 => if arg % 2 = 1 then 300000 else 40000
  | 8 => 2000
  | 9 => 8000
  | _ => 1000

/-- STEP_LIMIT: a step that has run for its limit fails; NET_TRAIN ends at its limit without failing. [17_bringup.md R427,
Table 17.8] -/
def execStepLimit (s : State) : Host.Outcome State Fault Refusal :=
  .next (if fget s SEQ_STATUS__STATE = 1 && s.boot.out.isNone && seqCur s ≠ 9
      && decide (s.boot.stepAt + stepLimitMs (seqCur s) s.boot.arg * 1000000 ≤ now s) then finishStep s 15 else s)

/-! ### POWER_CHECK (R428, R429) -/

/-- A rail is outside 2 % of its setpoint, or its regulator reports a fault. [20_signals_package.md R473, Table 20.3] -/
def railBad (s : State) (i : Nat) (x : Nat × Nat × Nat) : Bool :=
  let sp := fget s HUSKY_RAIL__SETPOINT_MV i
  let d := if sp ≤ x.1 then x.1 - sp else sp - x.1
  decide (sp < 50 * d) || x.2.2 % 2 = 1

/-- A sensor found broken at POWER_CHECK: a tile or layer sensor reads VALID = 0 until cold reset and excludes its tile or region.
[16_thermal_power.md R386; 17_bringup.md R428] -/
def deadSensor (s : State) (i : Nat) : State :=
  let s := breakSensor s i
  if i < 992 then
    let s := fset s HUSKY_SENSOR__VALID 0 i
    let s := onBoot s fun b => { b with deadSensors := if b.deadSensors.contains i then b.deadSensors else i :: b.deadSensors }
    if i < 864 then exclude s [i / 3] else excludeRegion s ((i - 864) / 8) (Config.noInfo 0 (now s) % 256)
  else s

/-- The tray descriptor is usable. [17_bringup.md R429] -/
def trayUsable (s : State) : Bool :=
  fget s HUSKY_TRAY_CFG__NOM_FLOW ≠ 0 && fget s HUSKY_TRAY_CFG__MAX_FLOW ≠ 0 && fget s HUSKY_TRAY_CFG__TAU ≠ 0
    && fget s HUSKY_TRAY_CFG__CVOL ≠ 0 && fget s HUSKY_TRAY_ADDR__ADDR ≠ 0
    && decide (fget s HUSKY_TRAY_CFG__NOM_FLOW ≤ fget s HUSKY_TRAY_CFG__MAX_FLOW)

/-- The self-check of the 1,000 sensors at POWER_CHECK: those it finds broken, and those whose BROKEN is set already.
[16_thermal_power.md R386; 17_bringup.md R428, Table 17.8] -/
def checkSensors (s : State) (broken : List Nat) : State :=
  forS ((List.range 1000).filter fun i => broken.contains i || fbit s HUSKY_SENSOR__BROKEN i) (fun i st => deadSensor st i) s

/-- The thermal monitor and the tray link start. [17_bringup.md R429, Table 17.8] -/
def startMonitor (s : State) : State := onHusky s fun h => { h with monOn := true, lastSeq := none }

/-- What the sensors and the tray show once the rails are good. [17_bringup.md R428, R429, Table 17.8] -/
def trayCheck (s : State) (rep : Option (BitVec 64)) : State :=
  if (List.range 8).any fun k => fbit s HUSKY_SENSOR__BROKEN (992 + k) then endAction s 3
  else
    let s := startMonitor s
    match rep with
    | some f => if trayUsable s then endAction (trayReport s f.toNat) 0 else endAction s 10
    | none => endAction s 10

/-- POWER_CHECK acts, in the order of Table 17.8: CAL and TRAY of the set in force, the regulators, TRIPPED, the sensors, and the
first tray report. [17_bringup.md R428, R429, Table 17.8; 20_signals_package.md R474, R475] -/
def powerCheck (s : State) (rails : List (Nat × Nat × Nat)) (broken : List Nat) (rep : Option (BitVec 64)) : State :=
  let s := railAddresses s
  let s := match s.boot.set.bind parseSet with
    | some c => applyTray (applyCal s c) c
    | none => setpoints s
  let s := forS rails.zipIdx (fun x st => railRead st x.2 x.1.1 x.1.2.1 x.1.2.2) s
  if rails.zipIdx.any fun x => railBad s x.2 x.1 then endAction s 1
  else if fbit s HUSKY_STATUS__TRIPPED then endAction s 2
  else trayCheck (checkSensors s broken) rep

/-- POWER_CHECK. [17_bringup.md R429] -/
def execPowerCheck (rails : List (Nat × Nat × Nat)) (broken : List Nat) (rep : Option (BitVec 64)) (s : State) :
    Host.Outcome State Fault Refusal :=
  if rails.length = 8 ∧ (broken.all fun i => decide (i < 1000)) then
    .next (whenStep s 1 fun s => powerCheck s rails broken rep)
  else .refused .illFormed

/-! ### CLOCKS and FUSES -/

/-- CLOCKS acts: PLLs, spines, de-skew, and the device ACLK count. [14_determinism.md R353; 17_bringup.md Table 17.8] -/
def clocksStep (s : State) (pll : Bool) (deskew : Nat) : State :=
  if !pll then endAction s 4
  else
    let s := forS [304, 305, 306, 307] (fun n st => stepPower st n) s
    if deskew ≠ 15 then endAction s 5
    else endAction { s with start := { s.start with clk0 := now s } } 0

/-- CLOCKS. [17_bringup.md R427] -/
def execClocks (pll : Bool) (deskew : BitVec 4) (s : State) : Host.Outcome State Fault Refusal :=
  .next (whenStep s 2 fun s => clocksStep s pll deskew.toNat)

/-- FUSES acts. [00_scope.md R9; 08_ecc_repair.md R204; 17_bringup.md Table 17.8] -/
def fusesStep (s : State) (ok : Bool) : State :=
  if !ok then endAction s 6
  else
    let s := rset s HUB_ID s.fuses.hubId
    endAction s (if hashOf s.flash.fuseMap = s.fuses.mapHash then 0 else 7)

/-- FUSES. [08_ecc_repair.md R204] -/
def execFuses (ok : Bool) (s : State) : Host.Outcome State Fault Refusal := .next (whenStep s 3 fun s => fusesStep s ok)

/-! ### DIE_LINKS (R293) -/

/-- Both directions of a bridge start anew, up or DOWN. [11_fabric.md R276, R279, Table 11.10] -/
def bridgeUp (s : State) (b : Nat) (up : Bool) : State :=
  let s := fset s FAB_LINK_STATUS__STATE (if up then 2 else 0) b
  let s := if up then fset s FAB_LINK_STATUS__POPULATED 1 b else s
  onLink (onLink s (2 * b) fun _ => Link.reset) (2 * b + 1) fun _ => Link.reset

/-- The dies that a bridge joins are powered: 0 to 3 join the hub with a die, 4 to 7 two dies of the ring. [11_fabric.md R263, R265] -/
def bridgePowered (s : State) (b : Nat) : Bool :=
  if b < 4 then domOn s (304 + b) else domOn s (300 + b) && domOn s (304 + (b + 1) % 4)

/-- Domain of the customer site. [16_thermal_power.md Table 16.4] -/
def siteDomain : Nat := 315

/-- The domain of the customer site as the step finds the site: powered where a die stands in it, else held off and ABSENT.
[00_scope.md R7, R8; 11_fabric.md R293] -/
def sitePower (s : State) (site : Nat) : State :=
  if site = 0 then setPd (stepOff s siteDomain) siteDomain 2
  else stepPower (if pdState s siteDomain = 2 then setPd s siteDomain 0 else s) siteDomain

/-- The customer site as the step finds it: 0 unpopulated, 1 DOWN, 2 up. [00_scope.md R7; 11_fabric.md R293; 17_bringup.md Table 17.10] -/
def trainSite (s : State) (site rate : Nat) (half : Bool) (rep : Nat) : State :=
  if !partU s then onBoot s fun b => { b with site := 0 }
  else
    let s := onBoot (sitePower s site) fun b => { b with site := site + 1 }
    let s := fset (bridgeUp s 8 (site = 2)) FAB_LINK_STATUS__POPULATED (flag (site ≠ 0)) 8
    if site = 2 then
      let s := fset s FAB_LINK_STATUS__RATE (min rate (fget s FAB_CUST_CFG__MAX_RATE)) 8
      fset (fset s FAB_LINK_STATUS__HALF (flag half) 8) FAB_LINK_STATUS__REPAIRED rep 8
    else s

/-- The Onyx links of a region start anew, or the region is excluded. [17_bringup.md R428] -/
def onyxTrain (bad : Nat) (s : State) (g : Nat) : State :=
  let s := { s with links := s.links.filter fun x => !(decide (18 ≤ x.1) && onyxRegion x.1 = g) }
  if bitOf bad g then excludeRegion s g 2 else s

/-- DIE_LINKS acts. [11_fabric.md R270, R293; 17_bringup.md R428, Table 17.8] -/
def dieLinksStep (s : State) (up onyxBad site rate : Nat) (half : Bool) (rep : Nat) : State :=
  let s := forS (List.range 8) (fun b st => bridgeUp st b (bitOf up b && bridgePowered st b)) s
  let s := forS (List.range 16) (fun g st => onyxTrain onyxBad st g) s
  let s := trainSite s site rate half rep
  endAction s (if (List.range 4).all fun b => linkState s b = 2 then 0 else 8)

/-- DIE_LINKS. [11_fabric.md R293] -/
def execDieLinks (up : BitVec 8) (onyxBad : BitVec 16) (site : Fin 3) (rate : Fin 6) (half : Bool) (rep : Fin 32) (s : State) :
    Host.Outcome State Fault Refusal :=
  .next (whenStep s 4 fun s => dieLinksStep s up.toNat onyxBad.toNat site rate half rep)

/-! ### VAULT_TRAIN, ECC_SELFTEST and MEMTEST -/

/-- The powered tiles of a list. -/
def onTiles (s : State) (l : List Nat) : List Nat := l.filter fun p => domOn s p

/-- Region, tile and bank-edge domains of a list of regions come up; excluded tiles stay off. [17_bringup.md R428, Table 17.8] -/
def powerRegions (s : State) (gs : List Nat) : State :=
  let s := forS gs (fun g st => stepPower st (288 + g)) s
  let s := forS (gs.flatMap fun g => (List.range 18).map fun k => g * 18 + k) (fun p st => stepPower st p) s
  let s := forS gs (fun g st => fset st REGION_JASPER_STATUS__PRESENT (flag (jasperRegion st g)) g) s
  forS (gs.filter fun g => jasperRegion s g) (fun g st => stepPower st (309 + g)) s

/-- VAULT_TRAIN acts. [07_vaults.md R182; 17_bringup.md Table 17.8] -/
def vaultTrainStep (s : State) (bad : List (Nat × Nat × List Nat)) : State :=
  let s := powerRegions (stepPower s 316) (List.range 16)
  endAction (forS (onTiles s (List.range 288)) (fun p st => trainTile bad st p) s) 0

/-- VAULT_TRAIN. [07_vaults.md R182, R183] -/
def execVaultTrain (bad : List (Nat × Nat × List Nat)) (s : State) : Host.Outcome State Fault Refusal :=
  .next (whenStep s 5 fun s => vaultTrainStep s bad)

/-- ECC_SELFTEST. [08_ecc_repair.md R208] -/
def execEccSelftest (bad : List (Nat × Nat)) (s : State) : Host.Outcome State Fault Refusal :=
  .next (whenStep s 6 fun s => endAction (selfTest s (onTiles s (List.range 288)) bad) 0)

/-- The filler of a tile runs at full power when the test ends; it then stops under R397. [16_thermal_power.md R398;
17_bringup.md R430] -/
def heatTile (s : State) (p : Nat) : State := onTile s p fun t => { t with filler := Config.tileFullMw p, fillMean := 0 }

/-- The memory test of the good vaults of a list: rows, heating, and what SEQ_MEMTEST says of them; `mask` are the regions tested
and `low` those tested below B2. [17_bringup.md R430, Table 17.10] -/
def memtestRun (s : State) (tiles : List Nat) (rows : List (Nat × Nat × Nat)) (full mask low : Nat) : State :=
  let good := (onTiles s tiles).filter fun p => isGood s p
  let x := testRows s good rows
  let s := forS good (fun p st => heatTile st p) x.1
  let old := fget s SEQ_MEMTEST__LOW_BAND
  rset s SEQ_MEMTEST (full + x.2 % 2 ^ 32 * 2 + ((old - (old &&& mask)) ||| (low &&& mask)) * 2 ^ 33)

/-- MEMTEST acts; an orderly stop ends it. [17_bringup.md R430] -/
def memtestStep (s : State) (rows : List (Nat × Nat × Nat)) (low : Nat) (stopped : Bool) : State :=
  if stopped || stopHeld s then endAction s 14
  else
    endAction (memtestRun s (List.range 288) rows (s.boot.arg % 2) (2 ^ 16 - 1) low) 0

/-- MEMTEST. [17_bringup.md R430] -/
def execMemtest (rows : List (Nat × Nat × Nat)) (low : BitVec 16) (stopped : Bool) (s : State) :
    Host.Outcome State Fault Refusal :=
  .next (whenStep s 7 fun s => memtestStep s rows low.toNat stopped)

/-! ### FLOORPLAN (R431) -/

/-- Both banks of Agate hold VALID = 0 with GEN = 0, and no region keeps an entry. [17_bringup.md Table 17.8] -/
def clearAgate (s : State) : State :=
  let s := rset { s with agate := Agate.reset } AGATE_GEN 0
  { s with regions := s.regions.map fun x => (x.1, { x.2 with cache := [], gen := 0 }) }

/-- Every entry of a region's binding table is unbound and its standby set empty. [17_bringup.md R431] -/
def unbindRegion (s : State) (g : Nat) : State :=
  forS (List.range 18) (fun k st => rset st REGION_BIND 0 g k) (rset s REGION_STANDBY 0 g)

/-- FLOORPLAN acts. [08_ecc_repair.md R207; 17_bringup.md R431, Table 17.8] -/
def floorplanStep (s : State) : State :=
  let s := dropBad (clearAgate s) (List.range 288)
  let s := forS (List.range 16) (fun g st => unbindRegion (planRegion st g) g) s
  endAction (planSummary s) 0

/-- FLOORPLAN. [17_bringup.md R431] -/
def execFloorplan (s : State) : Host.Outcome State Fault Refusal := .next (whenStep s 8 floorplanStep)

/-! ### NET_TRAIN and READY -/

/-- A quad takes the mode of KELPIE_QUAD_CFG: it is powered off first where it is on, and on again unless the mode is 0.
[13_network.md R314; 17_bringup.md R426] -/
def quadTrain (up : Nat) (s : State) (q : Nat) : State :=
  let mode := fget s KELPIE_QUAD_CFG__MODE q
  let n := 308 + q
  if domOn s n && mode ≠ 0 && mode = portMode s (4 * q) then s
  else
    let s := stepOff s n
    let s := forS (List.range 4) (fun i st => fset st KELPIE_PORT_STATUS__MODE mode (4 * q + i)) s
    if mode = 0 then s
    else
      let s := stepPower (stepPower s (312 + q / 2)) n
      forS ((List.range 4).map fun i => 4 * q + i) (fun p st =>
        if portExists mode p && domOn st n then
          if bitOf up p then portCameUp st p
          else onKelpie st fun k => { k with retrainAt := smSet k.retrainAt p (now st + 1000000000) }
        else st) s

/-- Before READY the quads take their modes from the active set (DEDUCED, log 79). [13_network.md R314; 17_bringup.md R425] -/
def bootModes (s : State) : State :=
  if s.boot.ready then s
  else match s.boot.set.bind parseSet with
    | some c => quadModes s c.device
    | none => s

/-- A network half whose quads are in use and whose reference clock fails at this draw. [20_signals_package.md R482, Table 20.5] -/
def refMissing (s : State) (h : Nat) : Bool :=
  !Config.refGood (1 + h) s.draws && (List.range 2).any fun i => fget s KELPIE_QUAD_CFG__MODE (2 * h + i) ≠ 0

/-- NET_TRAIN acts; a network reference that fails leaves its half's ports down and the step FAILED (log 79).
[13_network.md R314, R316, R317; 17_bringup.md R427; 20_signals_package.md R482] -/
def netTrainStep (s : State) (up : Nat) : State :=
  let s := bootModes s
  let bad := (List.range 2).filter fun h => refMissing s h
  let mask := sumNat (((List.range 2).filter fun h => !bad.contains h).map fun h => 255 * 256 ^ h)
  endAction (forS (List.range 4) (fun q st => quadTrain (up &&& mask) st q) (drawn s)) (if bad.isEmpty then 0 else 4)

/-- NET_TRAIN. [13_network.md R314, R316, R317; 17_bringup.md R427] -/
def execNetTrain (up : BitVec 16) (s : State) : Host.Outcome State Fault Refusal :=
  .next (whenStep s 9 fun s => netTrainStep s up.toNat)

/-- READY acts; its end posts DEVICE_READY. [17_bringup.md R425, R429] -/
def readyStep (s : State) : State :=
  let s := match s.boot.set with
    | some img => applySet s s.boot.setSeq img
    | none => s
  endAction s 0

/-- READY. [17_bringup.md R425] -/
def execSeqReady (s : State) : Host.Outcome State Fault Refusal := .next (whenStep s 10 readyStep)

/-! ### The reset of one die (R380) -/

/-- A RESET of a DRAINED die powers its spine on. [15_fault_tolerance.md R380] -/
def dieResetWrite (s : State) (d : Nat) (full : Bool) : State :=
  if dieState s d ≠ 2 then dieErr s 3
  else
    let s := stepPower (setDie s d 3) (304 + d)
    fset { s with blood := { s.blood with isolated := s.blood.isolated.filter fun x => x ≠ d } } BH_DIE_CMD__FULL (flag full)

/-- DIE_RESET. [15_fault_tolerance.md R380] -/
def execDieReset (d : Fin 4) (full : Bool) (s : State) : Host.Outcome State Fault Refusal := .next (dieResetWrite s d full)

/-- The bridges of a die: to the hub, and to both neighbours of the ring. [11_fabric.md R265] -/
def dieBridges (d : Nat) : List Nat := [d, 4 + d, 4 + (d + 3) % 4]

/-- The registers of a region of a die that RESET brings back: at their reset values, but for the fences, which last until cold reset.
[15_fault_tolerance.md R364, R380] -/
def renewRegion (s : State) (g : Nat) : State :=
  let f := rget s REGION_FENCE g % 2 ^ 18 + fget s REGION_FENCE__REGION_FENCED g * 2 ^ 36
  rset { s with regs := smDelRange s.regs (0x01000000 + g * 0x100000) 0x100000 } REGION_FENCE f g

/-- The steps that a RESET runs for one die have ended; a hub bridge that stays DOWN leaves the die RESETTING.
[15_fault_tolerance.md R380] -/
def dieReady (s : State) (d up : Nat) (bad : List (Nat × Nat × List Nat)) (ecc : List (Nat × Nat))
    (rows : List (Nat × Nat × Nat)) : State :=
  if dieState s d ≠ 3 || !domOn s (304 + d) || !compUp s 2 then s
  else
    let s := forS (dieBridges d).zipIdx (fun x st => bridgeUp st x.1 (bitOf up x.2 && bridgePowered st x.1)) s
    if linkState s d ≠ 2 then s
    else
      let gs := (List.range 4).map fun i => 4 * d + i
      let s := forS gs (fun g st => onyxTrain 0 (renewRegion st g) g) s
      let s := powerRegions s gs
      let tiles := onTiles s (dieTiles d)
      let s := forS tiles (fun p st => trainTile bad st p) s
      let s := selfTest s tiles ecc
      let s := memtestRun (drawn s) (dieTiles d) rows (fget s BH_DIE_CMD__FULL) (15 * 16 ^ d) (Config.lowBand s.draws).toNat
      let s := dropBad s tiles
      let s := planSummary (forS gs (fun g st => unbindRegion (planRegion st g) g) s)
      postEvent (setDie s d 0) evtDieReady d

/-- DIE_READY. [15_fault_tolerance.md R380] -/
def execDieReady (d : Fin 4) (up : BitVec 3) (bad : List (Nat × Nat × List Nat)) (ecc : List (Nat × Nat))
    (rows : List (Nat × Nat × Nat)) (s : State) : Host.Outcome State Fault Refusal :=
  .next (dieReady s d up.toNat bad ecc rows)

end Sys2Proof.Machine
end

