-- ==== Sys2Proof/Machine/Boot.lean ====
section
/-! DEFINITION. The boot ROM and the resets: cold, warm, PERST and the recovery wait (17_bringup.md R413 to R416, R420;
19_security.md R465 to R467; 20_signals_package.md R478, R479, R481). -/

namespace Sys2Proof.Machine

/-! ### Boot (R415, R416) -/

/-- A stage of the boot is reached. [17_bringup.md R415] -/
def stage (s : State) (n : Nat) : State := fset s HUB_BOOT_STATUS__STAGE n

/-- The recovery wait, with the cause of a failed verification. [17_bringup.md R416] -/
def recoveryWait (s : State) (cause : Nat) : State :=
  fset (fset (stage s 8) HUB_BOOT_STATUS__CAUSE cause) MBX_STATUS__RECOVERY_WAIT 1

/-- The firmware selects the active set; a set that is not valid, or none, leaves ACTIVE_BAD. [17_bringup.md R415, R420] -/
def selectSet (s : State) : State :=
  let s := match activePtr s with
    | some x => showActive s (bitsOf x 0 32) (bitsOf x 32 1)
    | none => s
  match activeSet s with
  | some x => onBoot (fset s HUB_CFG_STATUS__ACTIVE_BAD 0) fun b => { b with set := some x.2, setSeq := x.1 }
  | none => fset s HUB_CFG_STATUS__ACTIVE_BAD 1

/-- Autonomous mode: the step list of the active set is replayed, or the sequencer stops before step 1 with cause 9.
[17_bringup.md R414, R420, R426] -/
def autonomous (s : State) : State :=
  match s.boot.set.bind parseSet with
  | none => fset (fset s SEQ_STATUS__STATE 2) SEQ_STATUS__CAUSE 9
  | some c =>
    match stepEntries c with
    | x :: rest => startStep (onBoot s fun b => { b with replay := rest }) x.1 x.2
    | [] => s

/-- The firmware compartments start, and the sequencer in its mode. [17_bringup.md R415, R416] -/
def runFirmware (s : State) (img : List Byte) (mode : Nat) (pushed : Bool) : State :=
  let s := fset s HUB_FW_STATUS__RUNNING 31
  let s := { s with mastiff := { s.mastiff with fwHeader := slice img 0 256, recovery := pushed, crashed := [] } }
  let s := stage (selectSet (fset s SEQ_STATUS__MODE mode)) 7
  if mode = 0 then autonomous s else s

/-- A verified image of TYPE 0 with ADV set advances the fused SVN. [19_security.md R467] -/
def advanceSvn (s : State) (img : List Byte) : State :=
  let h := imgHeader img
  if bitsOf h 48 8 = 0 ∧ bitOf h 56 ∧ s.fuses.svn < bitsOf h 64 7 then
    showFuses { s with fuses := { s.fuses with svn := bitsOf h 64 7 } }
  else s

/-- Stages 1 and 2: PLL H, the PCIe domain and PLL P, which is locked already where the domain stayed on; the boot stops where a
reference clock fails (log 79). [17_bringup.md R415; 20_signals_package.md R482, Table 20.5] -/
def bootClocks (s : State) : State × Bool :=
  let t := drawn s
  if !Config.refGood 0 s.draws then (t, false)
  else if domOn t pcieDomain then (stage t 2, true)
  else if !Config.refGood 3 s.draws then (stage t 1, false)
  else (setPd (stage t 2) pcieDomain 1, true)

/-- The boot ROM from stage 3 on, with the BOOT_MODE strap as sampled. [17_bringup.md R414 to R416, Table 17.1] -/
def bootRom (s : State) (strap : Nat) : State :=
  let mode := if strap = 3 then 2 else strap
  let s := showFuses (deriveKey s)
  let s := fset s SEQ_STATUS__MODE mode
  if mode = 2 then recoveryWait s 0
  else
    let cause := verifyFlash s
    if cause ≠ 0 then recoveryWait s cause
    else runFirmware (advanceSvn s s.flash.fw) s.flash.fw mode false

/-- The boot. [17_bringup.md R415; 20_signals_package.md R482] -/
def mastiffBoot (s : State) (strap : Nat) : State :=
  let x := bootClocks s
  if x.2 then bootRom x.1 strap else x.1

/-- Domains whose unit the part does not have read ABSENT. [00_scope.md R8] -/
def markAbsent (s : State) : State :=
  let s := if partU s then s else setPd s 315 2
  if partJ s then s else forS (List.range 8) (fun i st => setPd st (317 + i) 2) s

/-! ### Cold reset (R413, R478) -/

/-- Everything at its reset value but the fuses, the flash, the analog trip and the commands that wait.
[17_bringup.md R413; 16_thermal_power.md R407; 20_signals_package.md R478] -/
def coldState (s : State) : State :=
  let t : State := { State.reset with
    pending := s.pending
    nextId := s.nextId
    draws := s.draws
    fuses := s.fuses
    flash := s.flash }
  let t := rset t HUB_ID s.fuses.hubId
  markAbsent (onBoot (fset t HUSKY_STATUS__TRIPPED (flag s.boot.tripLow)) fun b => { b with tripLow := s.boot.tripLow })

/-- COLD_RESET: the release of RESET_N. [17_bringup.md R413; 20_signals_package.md R478] -/
def execColdReset (strap : Fin 4) (s : State) : Host.Outcome State Fault Refusal :=
  .next (mastiffBoot (coldState s) strap)

/-- RESET_N_ASSERTED: every switched domain is off and the vault contents are lost. [20_signals_package.md R478] -/
def execResetAsserted (s : State) : Host.Outcome State Fault Refusal :=
  .next (onBoot (coldState s) fun b => { b with resetLow := some (now s), powered := s.boot.powered })

/-- MANAGEMENT_RAIL_REMOVED: the THERMTRIP_N latch clears and nothing of the state is kept. [16_thermal_power.md R407;
20_signals_package.md R477, R481] -/
def execMgmtRailRemoved (s : State) : Host.Outcome State Fault Refusal :=
  .next (onBoot (coldState (onBoot s fun b => { b with tripLow := false })) fun b => { b with powered := false })

/-! ### Warm reset (R413) -/

/-- The bits of a field. -/
def fldMask (f : Fld) : Nat := (2 ^ f.w - 1) * 2 ^ f.lo

/-- The fields, besides those of access RWS, that outlive a warm reset. [15_fault_tolerance.md R364, R379, R382;
16_thermal_power.md R386, R387, R394, R407, R410; 17_bringup.md R413; 19_security.md R468] -/
def warmFields (s : State) : List Fld :=
  [HUSKY_SENSOR__BROKEN, HUSKY_SENSOR__SUSPECT, REGION_FENCE__FENCED, REGION_FENCE__REGION_FENCED, HUSKY_STATUS__TRIPPED,
   MBX_STATUS__DEBUG_SESSION, BH_STATUS__DEV_FAILED] ++ (if s.husky.drifted then [HUSKY_THRESH__MARGIN] else [])

/-- The bits of register `a` with value `v` that outlive a warm reset. [17_bringup.md R413] -/
def warmMask (s : State) (a : RegAt) (v : Nat) : Nat :=
  let rws := (a.info.fields.filter fun f => f.2 = .rws).map fun f => f.1
  let own := (warmFields s).filter fun f => f.reg = a.info.reg
  let pd := if a.info.reg = HUSKY_PD_STATE ∧ (2 ≤ v % 4 ∨ a.i = pcieDomain) then [HUSKY_PD_STATE__STATE] else []
  sumNat ((rws ++ own ++ pd).map fldMask)

/-- The registers after a warm reset. [17_bringup.md R413] -/
def warmRegs (s : State) : SMap Nat :=
  s.regs.foldl (fun m x =>
    match regAt x.1 with
    | none => m
    | some a =>
      let k := warmMask s a x.2
      let base := smGet partRegs x.1 a.info.reg.reset
      if k = 0 then m else smSet m x.1 ((base - (base &&& k)) ||| (x.2 &&& k))) partRegs

/-- Everything a warm reset leaves: BAR4, the host link, the sensors known dead, isolated dies, the flash, the fuses and the
commands that wait. [17_bringup.md R413, R428] -/
def warmState (s : State) : State := { State.reset with
  pending := s.pending
  regs := warmRegs s
  nextId := s.nextId
  bar4 := s.bar4
  blood := { Blood.reset with isolated := s.blood.isolated }
  husky := { Husky.reset with drifted := s.husky.drifted }
  fuses := s.fuses
  flash := s.flash
  boot := { Boot.reset with
    deadSensors := s.boot.deadSensors
    tapDebug := s.boot.tapDebug
    powered := s.boot.powered
    resetLow := s.boot.resetLow
    tripLow := s.boot.tripLow }
  host := { HostIf.reset with linkUp := s.host.linkUp, bme := s.host.bme, pci := s.host.pci }
  draws := s.draws }

/-- A write of WARM = 1; while RESET_N is low the device is held in reset. [17_bringup.md R413; 20_signals_package.md R478] -/
def warmReset (s : State) (strap : Nat) : State :=
  if s.boot.resetLow.isSome then s else mastiffBoot (rset (warmState s) HUB_ID s.fuses.hubId) strap

/-- WARM_RESET. [17_bringup.md R413] -/
def execWarmReset (strap : Fin 4) (s : State) : Host.Outcome State Fault Refusal := .next (warmReset s strap)

/-! ### PERST_N (R479) -/

/-- PERST: the link is down, and the configuration space with its AER status and the MSI-X table are at reset; device work continues.
[18_host_firmware.md R433, R434, R436; 20_signals_package.md R479] -/
def execPerst (s : State) : Host.Outcome State Fault Refusal :=
  let s := linkDownStep false s
  .next { s with
    regs := smDelRange (smDelRange s.regs 0x00708000 0x8000) 0x00710000 0x100
    host := { s.host with pci := PciCfg.reset, aer := [] } }

/-! ### The recovery image (R466) -/

/-- A write of VERIFY: the image in BAR4. [17_bringup.md R416; 19_security.md R465, R466] -/
def verifyStaged (s : State) : State :=
  if !compUp s 0 then s
  else if !fbit s MBX_STATUS__RECOVERY_WAIT || fbit s MBX_STATUS__BUSY then mbxErr s 9
  else
    let img := memRead s.bar4 0 (fget s MBX_RECOVERY__BYTES)
    let cause := verifyImage s img [0, 1]
    if cause ≠ 0 then mbxErr s cause
    else runFirmware (fset s MBX_STATUS__RECOVERY_WAIT 0) img 1 true

/-- VERIFY: the host has placed the image in BAR4 and its length in BYTES. [19_security.md R466] -/
def execMbxVerify (img : List Byte) (s : State) : Host.Outcome State Fault Refusal :=
  if img.length < 2 ^ 25 then
    .next (if fbit s MBX_STATUS__RECOVERY_WAIT && !fbit s MBX_STATUS__BUSY then
        verifyStaged (fset { s with bar4 := memWrite s.bar4 0 img } MBX_RECOVERY__BYTES img.length)
      else verifyStaged s)
  else .refused .illFormed

end Sys2Proof.Machine
end

