-- ==== Sys2Proof/Machine/HostSvc.lean ====
section
/-! DEFINITION. How Sheltie serves the command rings, and the commands NOP, PLAN_UNLOAD, ABORT, HOST_COPY and FW_UPDATE
(18_host_firmware.md R436 to R448; 19_security.md R465). -/

namespace Sys2Proof.Machine

/-! ### The next entry (R442) -/

/-- Entries of ring `r` that Sheltie has not read. [18_host_firmware.md R439] -/
def ringBacklog (s : State) (r : Nat) : Nat :=
  ringGap (fget s HOST_RING_CFG__SQ_LOG2 r) (fget s HOST_RING_STATE__SQ_HEAD r) (fget s DB_SQ_TAIL__INDEX r)

/-- The entry at the SQ head of ring `r`. [18_host_firmware.md R437] -/
def headEntry (s : State) (r : Nat) : Nat :=
  leNat (memRead s.bar4 (fget s HOST_RING_CFG__SQ_BASE r * 4096 + fget s HOST_RING_STATE__SQ_HEAD r * 64) 64)

/-- OPCODE. [18_host_firmware.md Table 18.4] -/
def entOp (e : Nat) : Nat := bitsOf e 0 8

/-- CID. [18_host_firmware.md Table 18.4] -/
def entCid (e : Nat) : Nat := bitsOf e 16 16

/-- Ring `r` has an entry that may start now. [18_host_firmware.md R438, R442] -/
def ringReady (s : State) (r : Nat) : Bool :=
  fbit s HOST_RING_CFG__ENABLE r && !s.host.stopping.contains r && decide (ringBacklog s r ≠ 0) && !cqFull s r
    && decide ((ringCmds s r).length < 8) && (!bitOf (headEntry s r) 8 || (ringCmds s r).isEmpty)

/-- The ring served next, round-robin. [18_host_firmware.md R442] -/
def nextRing (s : State) : Option Nat :=
  ((List.range 64).map fun i => (s.host.lastRing + 1 + i) % 64).find? fun r => ringReady s r

/-! ### The checks of an entry (Tables 18.4, 18.5, 18.7) -/

/-- Operand bits of an opcode, as (lowest bit, width). [18_host_firmware.md Table 18.5] -/
def opFields (op : Nat) : List (Nat × Nat) :=
  match op with
  | 1 | 6 => [(64, 48), (128, 32)]
  | 3 => [(64, 1), (65, 1), (128, 48)]
  | 4 => [(64, 6), (80, 16)]
  | 5 => [(64, 1), (128, 48), (192, 64), (256, 32)]
  | _ => []

/-- Bits an entry may set. [18_host_firmware.md Tables 18.4, 18.5] -/
def allowedBits (op : Nat) : Nat :=
  sumNat (([(0, 10), (16, 16)] ++ opFields op).map fun (x : Nat × Nat) => (2 ^ x.2 - 1) * 2 ^ x.1)

/-- The opcode is listed. [18_host_firmware.md Table 18.5] -/
def opListed (op : Nat) : Bool := decide (op ≤ 6)

/-- Operand values that Table 18.5 allows. [18_host_firmware.md Table 18.5] -/
def operandsOk (e : Nat) : Bool :=
  match entOp e with
  | 1 => bitsOf e 64 48 % 32 = 0
  | 3 => bitsOf e 128 48 % 32 = 0
  | 5 => bitsOf e 128 48 % 32 = 0 && bitsOf e 192 64 % 32 = 0 && bitsOf e 256 32 % 32 = 0 && bitsOf e 256 32 ≠ 0
  | 6 => bitsOf e 64 48 % 32 = 0 && decide (bitsOf e 128 32 ≤ 2 ^ 24)
  | _ => true

/-- A reserved opcode, a reserved bit or a reserved operand value. [18_host_firmware.md Table 18.7] -/
def badEntry (e : Nat) : Bool :=
  !opListed (entOp e) || decide ((e &&& allowedBits (entOp e)) ≠ e) || !operandsOk e

/-- The feature an opcode needs. [18_host_firmware.md Table 18.3] -/
def opFeature (op : Nat) : Nat := if op = 5 then 1 else if op = 6 then 2 else 0

/-- The feature of an opcode was granted. [18_host_firmware.md R441] -/
def featGranted (s : State) (op : Nat) : Bool := bitOf (rget s HOST_FEAT_GRANT 0) (opFeature op)

/-- A command as it starts. [18_host_firmware.md R448] -/
def newCmd (r e : Nat) : HostCmd := ⟨r, entCid e, entOp e, e, true, none, 0, none⟩

/-- A command of the same ring with this CID is in progress. [18_host_firmware.md R442] -/
def cidBusy (s : State) (r cid : Nat) : Bool := (ringCmds s r).any fun c => c.cid = cid

/-- SQ_HEAD of ring `r` moves past an entry. [18_host_firmware.md R442] -/
def skipEntry (s : State) (r : Nat) : State :=
  fset s HOST_RING_STATE__SQ_HEAD ((fget s HOST_RING_STATE__SQ_HEAD r + 1) % 2 ^ fget s HOST_RING_CFG__SQ_LOG2 r) r

/-- The head entry of ring `r` is served. [18_host_firmware.md R442] -/
def popEntry (s : State) (r : Nat) : State :=
  let s := skipEntry s r
  { s with host := { s.host with lastRing := r } }

/-- An entry is read and checked; one that passes starts with `f`. [18_host_firmware.md R441, R442, Table 18.7] -/
def beginHost (s : State) (r : Nat) (f : State → HostCmd → State) : State :=
  let e := headEntry s r
  let c := newCmd r e
  let s := popEntry s r
  if badEntry e then postEnd s c 5 1 0
  else if !featGranted s c.op then postEnd s c 5 3 0
  else if cidBusy s r c.cid then postEnd s c 3 13 0
  else f (updStalled { s with host := { s.host with cmds := s.host.cmds ++ [c] } } r) c

/-- The row of an opcode acts when its ring is served next and that opcode is at its head. [18_host_firmware.md R442] -/
def serveRow (s : State) (r : Nat) (mine : Nat → Bool) (f : State → HostCmd → State) : State :=
  if compUp s 3 && decide (nextRing s = some r) && mine (entOp (headEntry s r)) then beginHost s r f else s

/-! ### NOP and PLAN_UNLOAD -/

/-- HOST_NOP: NOP, and entries whose opcode is reserved. [18_host_firmware.md R442, Table 18.5] -/
def execHostNop (r : Fin 64) (s : State) : Host.Outcome State Fault Refusal :=
  .next (serveRow s r (fun op => decide (op = 0) || !opListed op) fun s c => endCmd s c 0 0 0)

/-- No plan is loaded. [18_host_firmware.md R445] -/
def dropPlan (s : State) : State :=
  let s := fset s OPAL_STATUS__PLAN_VALID 0
  { s with host := { s.host with plan := [], planRegs := [], planFeat := 0 } }

/-- PLAN_UNLOAD starts. [18_host_firmware.md R445] -/
def unloadPlan (s : State) (c : HostCmd) : State := if strictBusy s then endCmd s c 3 1 0 else endCmd (dropPlan s) c 0 0 0

/-- PLAN_UNLOAD. [18_host_firmware.md R445] -/
def execPlanUnload (r : Fin 64) (s : State) : Host.Outcome State Fault Refusal :=
  .next (serveRow s r (fun op => op = 2) unloadPlan)

/-! ### ABORT (R448) -/

/-- Physical tiles of the loaded plan, in ascending logical order. [18_host_firmware.md R445, R446] -/
def planTiles (s : State) : List Nat := s.host.plan.filterMap fun lt => physOf s lt

/-- Every plan tile in RUN is aborted. [18_host_firmware.md R448] -/
def abortPlan (s : State) : State := forS (planTiles s) (fun p st => abortWrite st p) s

/-- The access is that of a HOST_COPY in progress. [18_host_firmware.md R442] -/
def copyOf (c : HostCmd) (a : Bar2Acc) : Bool := a.copy.any fun x => x.ring = c.ring && x.cid = c.cid

/-- A HOST_COPY stops where it stands, between two pieces, which is a 512-byte boundary: what it has read goes to the host. The bytes
moved. [18_host_firmware.md R442, R448] -/
def stopCopy (s : State) (c : HostCmd) : State × Nat :=
  let out := { s with host := { s.host with bar2 := s.host.bar2.filter fun a => !copyOf c a } }
  match s.host.bar2.find? fun a => copyOf c a with
  | some a =>
    if a.write then (out, a.n - a.data.length)
    else if hostReady s then (hostOut out (a.copy.elim 0 fun x => x.hpa) a.bytes, a.bytes.length)
    else (out, 0)
  | none => (out, 0)

/-- The action of a command in progress is cancelled; what its RESULT then holds. [18_host_firmware.md R442, R448] -/
def cancelCmd (s : State) (c : HostCmd) : State × Nat :=
  if c.op = 3 then (abortPlan s, 0)
  else if c.op = 1 then (dropPlan s, 0)
  else stopCopy s c

/-- The entry at the head of ring `r` that Sheltie has read and keeps QUEUED: its FENCE holds it behind earlier commands.
[18_host_firmware.md R442, R448] -/
def fenceHeld (s : State) (r : Nat) : Bool :=
  let e := headEntry s r
  fbit s HOST_RING_CFG__ENABLE r && decide (ringBacklog s r ≠ 0) && bitOf e 8 && !(ringCmds s r).isEmpty && !cqFull s r
    && !badEntry e && featGranted s (entOp e) && !cidBusy s r (entCid e)

/-- An ABORT leaves the list of commands in progress and completes; no later ABORT finds it. [18_host_firmware.md R448] -/
def abortEnd (s : State) (c : HostCmd) (status cause result : Nat) : State :=
  postEnd { s with host := { s.host with cmds := s.host.cmds.filter fun x => !(x.ring = c.ring && x.cid = c.cid) } } c
    status cause result

/-- ABORT starts: it wins over a STARTED or a QUEUED command, finds its target final, or is refused. [18_host_firmware.md R448] -/
def abortCmd (s : State) (c : HostCmd) : State :=
  let r := bitsOf c.entry 64 6
  let cid := bitsOf c.entry 80 16
  match s.host.cmds.find? fun x => x.ring = r && x.cid = cid with
  | some t =>
    if t.op = 4 ∨ t.op = 6 then abortEnd s c 3 8 0
    else
      let x := cancelCmd s t
      abortEnd (endCmd x.1 t 1 0 x.2) c 0 0 1
  | none =>
    if fenceHeld s r && entCid (headEntry s r) = cid then
      abortEnd (endCmd (skipEntry s r) (newCmd r (headEntry s r)) 1 0 0) c 0 0 1
    else match s.host.finals.find? fun x => x.1 = r && x.2.1 = cid with
    | some x => abortEnd s c 2 0 x.2.2
    | none => abortEnd s c 3 8 0

/-- ABORT. [18_host_firmware.md R448] -/
def execHostAbort (r : Fin 64) (s : State) : Host.Outcome State Fault Refusal := .next (serveRow s r (fun op => op = 4) abortCmd)

/-! ### HOST_COPY (R442) -/

/-- HOST_COPY runs, behind the accesses that wait. `data` is what the host bus moved before it ended, all of it unless `ok` is
false. [18_host_firmware.md R436, R442] -/
def copyCmd (data : List Byte) (ok : Bool) (s : State) (c : HostCmd) : State :=
  let n := bitsOf c.entry 256 32
  let toHost := bitOf c.entry 64
  let moved := if toHost && ok then n else min n (data.length / 32 * 32)
  let bus := if moved < n then 7 else 0
  if !hostReady s then endCmd s c 4 7 0
  else bar2Receive s (bitsOf c.entry 128 48) moved (!toHost) (if toHost then [] else data.take moved)
    (some ⟨c.ring, c.cid, bitsOf c.entry 192 64, bus⟩)

/-- HOST_COPY. [18_host_firmware.md R442] -/
def execHostCopy (r : Fin 64) (data : List Byte) (ok : Bool) (s : State) : Host.Outcome State Fault Refusal :=
  .next (serveRow s r (fun op => op = 5) (copyCmd data ok))

/-! ### FW_UPDATE (R442, R465) -/

/-- The image has been checked: the firmware area is programmed; `ok` says that it reads back as programmed. [18_host_firmware.md R442;
19_security.md R465] -/
def programFw (ok : Bool) (s : State) (c : HostCmd) (img : List Byte) : State :=
  if ok then endCmd { s with flash := { s.flash with fw := img } } c 0 0 0
  else endCmd { s with flash := { s.flash with fw := [] } } c 4 10 0

/-- FW_UPDATE runs: the header block is read and checked, then the body, before anything is erased. [18_host_firmware.md R442,
Table 18.7; 19_security.md R465] -/
def updateCmd (ok : Bool) (s : State) (c : HostCmd) : State :=
  let va := bitsOf c.entry 64 48
  let len := bitsOf c.entry 128 32
  let x := hubRead s (hostClass s) va (min len 8192)
  let head := x.2.bytes
  if x.2.cause ≠ 0 ∨ x.2.tag ≠ 0 then endCmd x.1 c 4 6 0
  else if headCause x.1 head len [0] ≠ 0 || svnLow x.1 head then endCmd x.1 c 4 9 0
  else
    let y := hubRead x.1 (hostClass s) (va + 8192) (bitsOf (imgHeader head) 96 32)
    if y.2.cause ≠ 0 ∨ y.2.tag ≠ 0 then endCmd y.1 c 4 6 0
    else if !bodyHashed (head ++ y.2.bytes) then endCmd y.1 c 4 9 0
    else programFw ok y.1 c (head ++ y.2.bytes)

/-- FW_UPDATE. [18_host_firmware.md R442; 19_security.md R465] -/
def execFwUpdate (r : Fin 64) (ok : Bool) (s : State) : Host.Outcome State Fault Refusal :=
  .next (if compUp s 0 then serveRow s r (fun op => op = 6) (updateCmd ok) else s)

end Sys2Proof.Machine
end

