-- ==== Sys2Proof/Machine/TileRegs.lean ====
section
/-! DEFINITION. Writes to the registers of a tile block (04_tile_commands.md R105, R118, R119; 14_determinism.md R352). -/

namespace Sys2Proof.Machine

/-- A bit of a register is written as 1. [00_scope.md Table 0.5] -/
def wrote1 (v mask bit : Nat) : Bool := bitOf (v &&& mask) bit

/-- A write of TILE_COLLIE_CTRL: the stored bits, then CLR_FAULT, ABORT and RUN, in this order (DESIGN CHOICE, log 21). [04_tile_commands.md Table 4.16, R107, R118,
R119; 14_determinism.md R352] -/
def collieCtrlWrite (s : State) (p off v mask : Nat) : State :=
  let s := writeCodes s off v mask
  let s := if wrote1 v mask 3 then clrFaultWrite s p else s
  let s := if wrote1 v mask 1 then abortWrite s p else s
  if wrote1 v mask 0 then runWrite s p else s

/-- The tile is in RUN or STOPPING. [04_tile_commands.md R119] -/
def tileBusy (s : State) (p : Nat) : Bool := tileState s p = 1 || tileState s p = 2

/-- A write to a register of a tile block. [04_tile_commands.md R105, R119; 00_scope.md R15] -/
def tileRegWrite (s : State) (off v mask : Nat) : State :=
  let p := (off - 0x02000000) / 0x10000
  match instAt TILE_COLLIE_CTRL off with
  | some _ => collieCtrlWrite s p off v mask
  | none =>
    match instAt TILE_STREAM_HEAD off with
    | some x => streamHeadReg s p x.2 off v mask
    | none =>
      if ((instAt TILE_STREAM_CFG off).isSome || (instAt TILE_SLOT_CFG off).isSome) && tileBusy s p then s
      else writeCodes s off v mask

end Sys2Proof.Machine
end

