-- ==== Sys2Proof/Machine/Plan.lean ====
section
/-! DEFINITION. Plan images, PLAN_LOAD, PLAN_RUN and its end (18_host_firmware.md R444 to R447; 14_determinism.md R349,
R356). -/

namespace Sys2Proof.Machine

/-! ### Plan images (R444) -/

/-- A section of a plan: the logical tile, its register records as (offset, value), and its copy records as (SRC, BYTES, DST).
[18_host_firmware.md Table 18.9] -/
structure PlanSect where
  lt : Nat
  regs : List (Nat × Nat)
  copies : List (Nat × Nat × Nat)
  deriving DecidableEq, Repr

/-- `n` bytes of an image at an offset as a number. -/
def imgNat (img : List Byte) (o n : Nat) : Nat := leNat (slice img o n)

/-- The header is valid for an image of `len` bytes. [18_host_firmware.md Table 18.8] -/
def planHeaderOk (h len : Nat) : Bool :=
  bitsOf h 0 32 = 0x4E414C50 && bitsOf h 32 16 = 1 && bitsOf h 48 16 = 0 && bitsOf h 128 32 = len
    && decide (1 ≤ bitsOf h 160 16) && decide (bitsOf h 160 16 ≤ 1024)
    && decide (1 ≤ bitsOf h 176 9) && decide (bitsOf h 176 9 ≤ 288) && bitsOf h 185 7 = 0
    && bitsOf h 192 32 % 32 = 0 && bitsOf h 224 288 = 0
    && decide (64 ≤ len) && decide (bitsOf h 192 32 + 16 * bitsOf h 176 9 ≤ len)

/-- A section entry is valid for an image of `len` bytes. [18_host_firmware.md R445, Table 18.9] -/
def sectEntryOk (e len : Nat) : Bool :=
  bitsOf e 9 7 = 0 && bitsOf e 80 16 = 0 && bitsOf e 32 32 % 16 = 0 && bitsOf e 96 32 % 16 = 0
    && decide (bitsOf e 32 32 + 16 * bitsOf e 16 16 ≤ len) && decide (bitsOf e 96 32 + 16 * bitsOf e 64 16 ≤ len)

/-- A register record, when its reserved bits are zero. [18_host_firmware.md R444] -/
def regRecord (x : Nat) : Option (Nat × Nat) := if bitsOf x 16 48 = 0 then some (bitsOf x 0 16, bitsOf x 64 64) else none

/-- A copy record, when its offset, length and reserved bits are valid. [18_host_firmware.md R444] -/
def planCopyRec (len x : Nat) : Option (Nat × Nat × Nat) :=
  if bitsOf x 0 32 % 32 = 0 ∧ bitsOf x 32 32 % 32 = 0 ∧ bitsOf x 112 16 = 0 ∧ bitsOf x 0 32 + bitsOf x 32 32 ≤ len then
    some (bitsOf x 0 32, bitsOf x 32 32, bitsOf x 64 48)
  else none

/-- One section of an image. [18_host_firmware.md R444] -/
def planSect (img : List Byte) (e : Nat) : Option PlanSect :=
  if !sectEntryOk e img.length then none
  else
    let recs := fun (o n : Nat) => (List.range n).map fun i => imgNat img (o + 16 * i) 16
    match (recs (bitsOf e 32 32) (bitsOf e 16 16)).mapM regRecord,
        (recs (bitsOf e 96 32) (bitsOf e 64 16)).mapM (planCopyRec img.length) with
    | some a, some b => some ⟨bitsOf e 0 9, a, b⟩
    | _, _ => none

/-- The sections of an image; none when the header, a section entry or a record is not valid. [18_host_firmware.md R444, R445] -/
def planSects (img : List Byte) : Option (List PlanSect) :=
  let h := imgNat img 0 64
  if planHeaderOk h img.length then
    ((List.range (bitsOf h 176 9)).map fun i => imgNat img (bitsOf h 192 32 + 16 * i) 16).mapM (planSect img)
  else none

/-- The feature word of an image. [18_host_firmware.md Table 18.8; 14_determinism.md R349] -/
def planFeatures (img : List Byte) : Nat := imgNat img 8 8

/-- The feature word is refused. [14_determinism.md R349] -/
def featRefused (s : State) (w : Nat) : Bool := decide (w / 16 ≠ 0) || (fbit s HUB_MODE__STRICT && decide (w ≠ 0))

/-- Registers that a plan may write. [18_host_firmware.md R444] -/
def planReg (off : Nat) : Bool :=
  [TILE_STREAM_CFG, TILE_STREAM_HEAD, TILE_STREAM_TAIL, TILE_SLOT_CFG, TILE_COLLIE_WD, TILE_DMA_CTRL, TILE_KV_HEADROOM].any
    fun r => (instAt r (0x02000000 + off)).isSome

/-- Addresses, one in each 2 MiB page that a copy touches. -/
def copyPages (x : Nat × Nat × Nat) : List Nat :=
  (List.range (x.2.1 / 2097152 + 2)).filterMap fun i =>
    let va := max x.2.2 ((x.2.2 / 2097152 + i) * 2097152)
    if va < x.2.2 + x.2.1 then some va else none

/-- Every page leads to the vault of tile `p`. [18_host_firmware.md R445] -/
def pagesOn (p : Nat) : List Nat → State → State × Bool
  | [], s => (s, true)
  | va :: vas, s =>
    let x := hubTranslate s va false
    match x.2 with
    | .vault q _ _ => if q = p then pagesOn p vas x.1 else (x.1, false)
    | _ => (x.1, false)

/-- A section may be applied. [18_host_firmware.md R445] -/
def sectOk (s : State) (x : PlanSect) : State × Bool :=
  match physOf s x.lt with
  | none => (s, false)
  | some p => if x.regs.all fun r => planReg r.1 then pagesOn p (x.copies.flatMap copyPages) s else (s, false)

/-- Every section may be applied. [18_host_firmware.md R445] -/
def sectsOk (s : State) : List PlanSect → State × Bool
  | [] => (s, true)
  | x :: xs =>
    let a := sectOk s x
    if a.2 then sectsOk a.1 xs else a

/-! ### PLAN_LOAD (R445) -/

/-- The copies of a plan in record order, up to the first that fails. [18_host_firmware.md R445] -/
def planCopies (img : List Byte) (s : State) : List (Nat × Nat × Nat) → State × Bool
  | [] => (s, true)
  | x :: xs =>
    let w := hubWrite s x.2.2 (slice img x.1 x.2.1) 0 7
    if w.2 ≠ 0 then (w.1, false) else planCopies img w.1 xs

/-- One register record is written to the tile bound to logical tile `lt`. [18_host_firmware.md R445] -/
def planRegWrite (s : State) (x : Nat × Nat × Nat) : State :=
  match physOf s x.1 with
  | some p =>
    let off := 0x02000000 + p * 0x10000 + x.2.1
    if blockOn s off then tileRegWrite s off x.2.2 fullMask else s
  | none => s

/-- CLR_FAULT is written to each plan tile. [18_host_firmware.md R445, R446; 04_tile_commands.md R119] -/
def planClear (s : State) (lts : List Nat) : State :=
  forS (lts.filterMap fun lt => physOf s lt) (fun p st => if tileOpen st p then clrFaultWrite st p else st) s

/-- The register records of a plan are written. [18_host_firmware.md R445, R446] -/
def planRegWrites (s : State) (recs : List (Nat × Nat × Nat)) : State := forS recs (fun x st => planRegWrite st x) s

/-- A plan whose image has passed every check is applied: CLR_FAULT, the copies, the register writes. [18_host_firmware.md R445] -/
def applyPlan (s : State) (c : HostCmd) (img : List Byte) (l : List PlanSect) : State :=
  let lts := (List.range 288).filter fun lt => l.any fun y => y.lt = lt
  let x := planCopies img (planClear s lts) (l.flatMap fun y => y.copies)
  if !x.2 then endCmd x.1 c 4 6 0
  else
    let recs := l.flatMap fun y => y.regs.map fun r => (y.lt, r.1, r.2)
    let s := planRegWrites x.1 recs
    let s := fset s OPAL_STATUS__PLAN_VALID 1
    let s := { s with host := { s.host with plan := lts, planRegs := recs, planFeat := planFeatures img } }
    endCmd s c 0 0 l.length

/-- PLAN_LOAD runs. [18_host_firmware.md R445; 14_determinism.md R347, R349, R356] -/
def loadCmd (s : State) (c : HostCmd) : State :=
  if strictBusy s then endCmd s c 3 1 0
  else
    let x := hubRead (dropPlan s) 7 (bitsOf c.entry 64 48) (bitsOf c.entry 128 32)
    if x.2.cause ≠ 0 ∨ x.2.tag ≠ 0 then endCmd x.1 c 4 6 0
    else
      let img := x.2.bytes
      let s := putWords x.1 OPAL_PLAN_HASH (sha3_512 img)
      match planSects img with
      | none => endCmd s c 3 3 0
      | some l =>
        if featRefused s (planFeatures img) then endCmd s c 3 4 0
        else if (l.map fun y => y.lt).eraseDups.length ≠ l.length then endCmd s c 3 5 0
        else
          let y := sectsOk s l
          if y.2 then applyPlan y.1 c img l else endCmd y.1 c 3 5 0

/-- PLAN_LOAD. [18_host_firmware.md R445] -/
def execPlanLoad (r : Fin 64) (s : State) : Host.Outcome State Fault Refusal := .next (serveRow s r (fun op => op = 1) loadCmd)

/-! ### PLAN_RUN (R446) -/

/-- A plan tile is in RUN, in STOPPING or armed. [18_host_firmware.md R446] -/
def planBusy (s : State) : Bool := (planTiles s).any fun p => tileBusy s p || fbit s TILE_COLLIE_CTRL__ARM p

/-- A command in progress is changed by `f`. -/
def onHostCmd (s : State) (c : HostCmd) (f : HostCmd → HostCmd) : State :=
  { s with host := { s.host with cmds := mapIf (fun x => x.ring = c.ring && x.cid = c.cid) f s.host.cmds } }

/-- A plan tile that is refused counts as stopped with code 0. [18_host_firmware.md R446] -/
def noteRefused (s : State) (c : HostCmd) (lt : Nat) : State :=
  onHostCmd s c fun x => { x with tEnd := now s, firstFault := x.firstFault.or (some (lt, 0)) }

/-- A plan tile is started, or armed; one that does not start is refused. [18_host_firmware.md R446; 04_tile_commands.md R107] -/
def startPlanTile (armed : Bool) (c : HostCmd) (lt : Nat) (s : State) : State :=
  match physOf s lt with
  | none => noteRefused s c lt
  | some p =>
    if !tileOpen s p then noteRefused s c lt
    else if armed then armWrite s p 1
    else
      let s := runWrite s p
      if tileState s p = 1 then s else noteRefused s c lt

/-- PLAN_RUN starts. [18_host_firmware.md R446] -/
def runCmd (s : State) (c : HostCmd) : State :=
  if !fbit s OPAL_STATUS__PLAN_VALID then endCmd s c 3 2 0
  else if planBusy s then endCmd s c 3 1 0
  else if fget s HUSKY_STATUS__STATE ≠ 0 || s.husky.stopAt.isSome then endCmd s c 3 12 0
  else
    let s := planRegWrites (planClear s s.host.plan) s.host.planRegs
    forS s.host.plan (fun lt st => startPlanTile (bitOf c.entry 64) c lt st) s

/-- PLAN_RUN. [18_host_firmware.md R446] -/
def execPlanRun (r : Fin 64) (s : State) : Host.Outcome State Fault Refusal := .next (serveRow s r (fun op => op = 3) runCmd)

/-! ### The end of PLAN_RUN (R446, R447) -/

/-- Every plan tile has reached IDLE or STOPPED, a fenced one too, or has no power any more. [18_host_firmware.md R446] -/
def planEnded (s : State) : Bool := (planTiles s).all fun p => !tileRuns s p || !(tileBusy s p || fbit s TILE_COLLIE_CTRL__ARM p)

/-- OUTCOME with the first faulted tile and its code. [18_host_firmware.md R446] -/
def planResult (s : State) (c : HostCmd) : Nat :=
  match c.firstFault with
  | some x => 1 + x.1 % 2 ^ 9 * 2 ^ 2 + x.2 % 2 ^ 8 * 2 ^ 11
  | none => if c.tStart.isNone || (planTiles s).any (fun p => fbit s TILE_COLLIE_STATUS__ABORTED p) then 2 else 0

/-- A plan tile has stopped, or has been refused at its start. [18_host_firmware.md R446] -/
def planStopped (c : HostCmd) : Bool := c.tStart.isSome || c.firstFault.isSome

/-- The result record; T_START is open where no tile ran, and T_END where none stopped or was refused. [18_host_firmware.md Table 18.10;
14_determinism.md R359] -/
def resultRecord (s : State) (c : HostCmd) : List Byte :=
  let dig := if fbit s OPAL_STATUS__RUN_OPEN then regBytes s OPAL_DIGEST 8 else List.replicate 64 0
  dig ++ leBytes 8 (c.tStart.getD (Config.noTime 0 (now s))) ++ leBytes 8 (if planStopped c then c.tEnd else Config.noTime 1 (now s))
    ++ leBytes 48 (c.cid % 2 ^ 16 + planResult s c % 2 ^ 19 * 2 ^ 16)

/-- The oldest PLAN_RUN of ring `r` in progress. [18_host_firmware.md R448] -/
def planRunOf (s : State) (r : Nat) : Option HostCmd := s.host.cmds.find? fun c => c.ring = r && c.op = 3

/-- PLAN_RUN ends naturally: its record is written before it completes. [18_host_firmware.md R446 to R448] -/
def planRunEnd (s : State) (c : HostCmd) : State :=
  let va := bitsOf c.entry 128 48
  if va = 0 then endCmd s c 0 0 (planResult s c)
  else
    let w := hubWrite s va (resultRecord s c) 0 (hostClass s)
    if w.2 ≠ 0 then endCmd w.1 c 4 6 0 else endCmd w.1 c 0 0 (planResult s c)

/-- PLAN_RUN_DONE. [18_host_firmware.md R446] -/
def execPlanRunDone (r : Fin 64) (s : State) : Host.Outcome State Fault Refusal :=
  .next (match planRunOf s r with
    | some c => if compUp s 3 && planEnded s then planRunEnd s c else s
    | none => s)

end Sys2Proof.Machine
end

