-- ==== Sys2Proof/Machine/HostRegs.lean ====
section
/-! DEFINITION. Doorbells, the enabling of rings, feature negotiation, coalescing and the host link
(18_host_firmware.md R436 to R441). -/

namespace Sys2Proof.Machine

/-! ### Doorbells (R439) -/

/-- The host has placed entries in the ring from its old tail on. [18_host_firmware.md R437, R439] -/
def placeEntries (s : State) (r : Nat) (ents : List (BitVec 512)) : State :=
  let log := fget s HOST_RING_CFG__SQ_LOG2 r
  let base := fget s HOST_RING_CFG__SQ_BASE r * 4096
  let t := fget s DB_SQ_TAIL__INDEX r
  { s with bar4 := ents.zipIdx.foldl (fun m x =>
      let a := base + (t + x.2) % 2 ^ log * 64
      if a + 64 ≤ 2 ^ 25 then memWrite m a (leBytes 64 x.1.toNat) else m) s.bar4 }

/-- A write of an SQ tail: an index of the ring leaves at most 2^SQ_LOG2 - 1 entries outstanding; any other is discarded.
[18_host_firmware.md R439] -/
def sqTailWrite (s : State) (r v : Nat) : State :=
  if v < 2 ^ fget s HOST_RING_CFG__SQ_LOG2 r then fset s DB_SQ_TAIL__INDEX v r else fset s HOST_RING_CFG__ERR 1 r

/-- SQ_TAIL. [18_host_firmware.md R439] -/
def execSqTail (r : Fin 64) (v : BitVec 16) (ents : List (BitVec 512)) (s : State) : Host.Outcome State Fault Refusal :=
  if ents.length < 65536 then .next (sqTailWrite (placeEntries s r ents) r v.toNat) else .refused .illFormed

/-- A new head lies between the previous head and the device tail. [18_host_firmware.md R439] -/
def headOk (log old tail v : Nat) : Bool := decide (v < 2 ^ log) && decide (ringGap log old v ≤ ringGap log old tail)

/-- A write of a CQ head: entries are consumed, and a message follows where entries remain. [18_host_firmware.md R439, R440] -/
def cqHeadWrite (s : State) (r v : Nat) : State :=
  let tail := fget s HOST_RING_STATE__CQ_TAIL r
  if headOk (fget s HOST_RING_CFG__CQ_LOG2 r) (fget s DB_CQ_HEAD__INDEX r) tail v then
    let s := updStalled (fset s DB_CQ_HEAD__INDEX v r) r
    if v ≠ tail then signalRing s r else s
  else fset s HOST_RING_CFG__ERR 1 r

/-- CQ_HEAD. [18_host_firmware.md R439] -/
def execCqHead (r : Fin 64) (v : BitVec 16) (s : State) : Host.Outcome State Fault Refusal := .next (cqHeadWrite s r v.toNat)

/-- A write of the event head. [18_host_firmware.md R439, R440] -/
def eventHeadWrite (s : State) (v : Nat) : State :=
  let tail := fget s HOST_EVT_STATE__TAIL
  if headOk (fget s HOST_EVT_CFG__LOG2) (fget s DB_EVT_HEAD__INDEX) tail v then
    let s := fset s DB_EVT_HEAD__INDEX v
    if v ≠ tail then signalRing s 64 else s
  else fset s HOST_EVT_CFG__ERR 1

/-- EVENT_HEAD. [18_host_firmware.md R439] -/
def execEventHead (v : BitVec 16) (s : State) : Host.Outcome State Fault Refusal := .next (eventHeadWrite s v.toNat)

/-! ### Enabling rings (R438) -/

/-- Bytes of BAR4 that the two rings of configuration `x` of a command ring take, as (first, length). [18_host_firmware.md R437,
R438] -/
def ringSpans (x : Nat) : List (Nat × Nat) :=
  [(bitsOf x 16 13 * 4096, 2 ^ bitsOf x 4 5 * 64), (bitsOf x 32 13 * 4096, 2 ^ bitsOf x 9 5 * 32)]

/-- Bytes of BAR4 that the event ring of configuration `x` takes. [18_host_firmware.md R437, R438] -/
def evtSpan (x : Nat) : Nat × Nat := (bitsOf x 16 13 * 4096, 2 ^ bitsOf x 4 5 * 32)

/-- Two spans share a byte. -/
def spansMeet (a b : Nat × Nat) : Bool := decide (a.1 < b.1 + b.2) && decide (b.1 < a.1 + a.2)

/-- The spans of the enabled rings other than `r` (64 for the event ring). [18_host_firmware.md R438] -/
def otherSpans (s : State) (r : Nat) : List (Nat × Nat) :=
  (((List.range 64).filter fun q => q ≠ r && fbit s HOST_RING_CFG__ENABLE q).flatMap fun q => ringSpans (rget s HOST_RING_CFG q))
    ++ (if r ≠ 64 ∧ fbit s HOST_EVT_CFG__ENABLE then [evtSpan (rget s HOST_EVT_CFG)] else [])

/-- A LOG2 field that is allowed. [18_host_firmware.md R438] -/
def logOk (n : Nat) : Bool := decide (4 ≤ n) && decide (n ≤ 16)

/-- Rings at spans `l` may be enabled. [18_host_firmware.md R438] -/
def spansOk (s : State) (r : Nat) (l : List (Nat × Nat)) : Bool :=
  fbit s HOST_NEG_CTRL__GRANTED && (l.all fun x => decide (x.1 + x.2 ≤ 2 ^ 25))
    && !(l.any fun x => (otherSpans s r).any fun y => spansMeet x y)
    && (match l with
      | [a, b] => !spansMeet a b
      | _ => true)

/-- ERR after a write: cleared by writing 1. [00_scope.md Table 0.5] -/
def clearErr (s : State) (f : Fld) (r v mask : Nat) : State := if bitOf (v &&& mask) 1 then fset s f 0 r else s

/-- The value with the written bits replaced. [00_scope.md R15] -/
def mergeMask (old v mask : Nat) : Nat := (old &&& (fullMask - mask)) ||| (v &&& mask)

/-- Indices, phase and signalling of a ring as it is enabled. [18_host_firmware.md R440, R443] -/
def ringStart (s : State) (r : Nat) : State :=
  let s := rreset (rreset (rreset s HOST_RING_STATE r) DB_SQ_TAIL r) DB_CQ_HEAD r
  { s with host := { s.host with unsig := smDel s.host.unsig r, oldest := smDel s.host.oldest r } }

/-- A write of HOST_RING_CFG. [18_host_firmware.md R438] -/
def ringCfgWrite (s : State) (r v mask : Nat) : State :=
  let s := clearErr s HOST_RING_CFG__ERR r v mask
  let old := rget s HOST_RING_CFG r
  let x := mergeMask old v mask
  if fbit s HOST_RING_CFG__ENABLE r then
    if bitOf x 0 then s
    else if (ringCmds s r).isEmpty then updStalled (fset s HOST_RING_CFG__ENABLE 0 r) r
    else { s with host := { s.host with stopping := r :: s.host.stopping.filter fun q => q ≠ r } }
  else
    let t := rset s HOST_RING_CFG (writeValue ⟨HOST_RING_CFG, false, [(HOST_RING_CFG__SQ_LOG2, .rw), (HOST_RING_CFG__CQ_LOG2, .rw),
      (HOST_RING_CFG__SQ_BASE, .rw), (HOST_RING_CFG__CQ_BASE, .rw), (HOST_RING_CFG__VECTOR, .rw)]⟩ old v mask) r
    if !bitOf x 0 then t
    else if logOk (bitsOf x 4 5) && logOk (bitsOf x 9 5) && spansOk s r (ringSpans x) then
      fset (ringStart t r) HOST_RING_CFG__ENABLE 1 r
    else fset t HOST_RING_CFG__ERR 1 r

/-- HOST_RING_ENABLE. [18_host_firmware.md R438] -/
def execRingEnable (r : Fin 64) (v : BitVec 64) (s : State) : Host.Outcome State Fault Refusal :=
  .next (ringCfgWrite s r v.toNat fullMask)

/-- One held event goes on: to the ring, behind the link, or back to the buffer. [18_host_firmware.md R436, R449] -/
def passEvent (s : State) (e : Event) : State :=
  if fbit s HOST_EVT_CFG__ENABLE then
    if hostReady s then writeEvent s e else { s with host := { s.host with waiting := s.host.waiting ++ [.evt e] } }
  else if s.host.evtBuf.length < 256 then { s with host := { s.host with evtBuf := s.host.evtBuf ++ [e] } }
  else dropEvent s

/-- The events of the firmware buffer go to the ring, oldest first. [18_host_firmware.md R449] -/
def flushEvents (s : State) : State :=
  let l := s.host.evtBuf
  forS l (fun e st => passEvent st e) { s with host := { s.host with evtBuf := [] } }

/-- A write of HOST_EVT_CFG. [18_host_firmware.md R438, R449] -/
def evtCfgWrite (s : State) (v mask : Nat) : State :=
  let s := clearErr s HOST_EVT_CFG__ERR 0 v mask
  let old := rget s HOST_EVT_CFG
  let x := mergeMask old v mask
  if fbit s HOST_EVT_CFG__ENABLE then if bitOf x 0 then s else fset s HOST_EVT_CFG__ENABLE 0
  else
    let t := rset s HOST_EVT_CFG (writeValue ⟨HOST_EVT_CFG, false, [(HOST_EVT_CFG__LOG2, .rw), (HOST_EVT_CFG__BASE, .rw),
      (HOST_EVT_CFG__VECTOR, .rw), (HOST_EVT_CFG__COAL_US, .rw), (HOST_EVT_CFG__COAL_CNT, .rw)]⟩ old v mask)
    if !bitOf x 0 then t
    else if logOk (bitsOf x 4 5) && spansOk s 64 [evtSpan x] then
      let t := rreset (rreset t HOST_EVT_STATE) DB_EVT_HEAD
      let t := { t with host := { t.host with unsig := smDel t.host.unsig 64, oldest := smDel t.host.oldest 64 } }
      flushEvents (fset t HOST_EVT_CFG__ENABLE 1)
    else fset t HOST_EVT_CFG__ERR 1

/-- HOST_EVT_ENABLE. [18_host_firmware.md R438] -/
def execEvtEnable (v : BitVec 64) (s : State) : Host.Outcome State Fault Refusal := .next (evtCfgWrite s v.toNat fullMask)

/-! ### Negotiation (R441) -/

/-- A ring or the event ring is enabled. [18_host_firmware.md R441] -/
def anyRing (s : State) : Bool := ((List.range 64).any fun r => fbit s HOST_RING_CFG__ENABLE r) || fbit s HOST_EVT_CFG__ENABLE

/-- A write of GO = 1. [18_host_firmware.md R441] -/
def negotiate (s : State) : State :=
  if anyRing s then fset s HOST_NEG_CTRL__ERR 1
  else if fget s HOST_NEG_CTRL__HOST_MAJOR = fget s HOST_ABI__MAJOR ∧ bitOf (rget s HOST_FEAT_REQ 0) 0 then
    let s := forS (List.range 4) (fun i st => rset st HOST_FEAT_GRANT (rget st HOST_FEAT_OFFER i &&& rget st HOST_FEAT_REQ i) i) s
    fset s HOST_NEG_CTRL__GRANTED 1
  else
    let s := forS (List.range 4) (fun i st => rset st HOST_FEAT_GRANT 0 i) s
    fset (fset s HOST_NEG_CTRL__GRANTED 0) HOST_NEG_CTRL__ERR 1

/-- NEG_GO. [18_host_firmware.md R441] -/
def execNegGo (s : State) : Host.Outcome State Fault Refusal := .next (if compUp s 3 then negotiate s else s)

/-! ### Coalescing (R440) -/

/-- COAL_US has passed since the oldest unsignalled entry of ring `q` was posted. [18_host_firmware.md R440] -/
def coalDue (s : State) (q : Nat) : Bool :=
  match smFind s.host.oldest q with
  | some t => decide (smGet s.host.unsig q 0 ≠ 0) && decide (t + (coalOf s q).2 * 1000 ≤ now s)
  | none => false

/-- COALESCE_TIMER. [18_host_firmware.md R440] -/
def execCoalesceTimer (r : Fin 65) (s : State) : Host.Outcome State Fault Refusal :=
  .next (if coalDue s r then signalRing s r else s)

/-! ### The host link (R436) -/

/-- PCIE_LINK_DOWN. [18_host_firmware.md R436] -/
def execPcieLinkDown (bmeOnly : Bool) (s : State) : Host.Outcome State Fault Refusal := .next (linkDownStep bmeOnly s)

/-- What waited for the link leaves. [18_host_firmware.md R436] -/
def releasePost (s : State) (x : Post) : State :=
  match x with
  | .cqe r e n => writeCqe s r e n
  | .evt e => passEvent s e
  | .irq v => sendIrq s v

/-- PCIE_LINK_UP: the host has set Bus Master Enable, Memory Space Enable, MSI-X Enable and the largest sizes (log 61); completions, events and interrupts
that waited leave in order. [18_host_firmware.md R434, R436] -/
def linkUpStep (s : State) : State :=
  let l := s.host.waiting
  let cfg := { s.host.pci with memEnable := true, d3hot := false, msixEnable := true, maxPayload := 2, maxReadReq := 4096 }
  forS l (fun x st => releasePost st x) { s with host := { s.host with linkUp := true, bme := true, pci := cfg, waiting := [] } }

/-- PCIE_LINK_UP. [18_host_firmware.md R436; 17_bringup.md R415] -/
def execPcieLinkUp (s : State) : Host.Outcome State Fault Refusal := .next (if domOn s 314 then linkUpStep s else s)

end Sys2Proof.Machine
end

