-- ==== Sys2Proof/Machine/Firmware.lean ====
section
/-! DEFINITION. Crashes and restarts of firmware compartments, and counters (18_host_firmware.md R452 to R456). -/

namespace Sys2Proof.Machine

/-! ### Compartments (R452, R454) -/

/-- RUNNING follows the compartments that serve. [18_host_firmware.md Table 18.13] -/
def showRunning (s : State) : State :=
  fset s HUB_FW_STATUS__RUNNING (sumNat ((List.range 5).map fun k => if compUp s k then 2 ^ k else 0))

/-- Mastiff stops compartment `k` and reports a crash; Mastiff itself runs in machine mode and reports to nobody.
[18_host_firmware.md R452] -/
def crashComp (s : State) (k : Nat) : State :=
  if k = 0 ∨ !compUp s 0 ∨ !compUp s k then s
  else showRunning { s with mastiff := { s.mastiff with crashed := k :: s.mastiff.crashed } }

/-- TRAP. [18_host_firmware.md R452] -/
def execTrap (k : Fin 5) (s : State) : Host.Outcome State Fault Refusal := .next (crashComp s k)

/-- CHECK_IN_TIMEOUT. [18_host_firmware.md R452] -/
def execCheckInTimeout (k : Fin 5) (s : State) : Host.Outcome State Fault Refusal := .next (crashComp s k)

/-- Sheltie restarts: its commands in progress fail with cause 11, and a PLAN_RUN aborts its tiles. [18_host_firmware.md R454] -/
def sheltieRestart (s : State) : State := endAll (if s.host.cmds.any fun c => c.op = 3 then abortPlan s else s) 4 11

/-- What the restart of compartment `k` does beyond the compartment. [18_host_firmware.md R454] -/
def restartEffect (s : State) (k : Nat) : State :=
  if k = 3 then sheltieRestart s else if k = 2 then againRecovery s else s

/-- Compartment `k` has crashed, and what restarts it serves. [18_host_firmware.md R454, Table 18.12] -/
def mayRestart (s : State) (k : Nat) : Bool :=
  decide (k ≠ 0) && !compUp s k && compUp s 0 && (k = 2 || compUp s 2) && fget s HUB_BOOT_STATUS__STAGE = 7

/-- FW_RESTART. [18_host_firmware.md R454] -/
def restartComp (s : State) (k : Nat) : State :=
  if mayRestart s k then
    let s := showRunning { s with mastiff := { s.mastiff with crashed := s.mastiff.crashed.filter fun x => x ≠ k } }
    postEvent (bump (restartEffect s k) HUB_FW_RESTART_COUNT) evtFwRestart k
  else s

/-- FW_RESTART. [18_host_firmware.md R454] -/
def execFwRestart (k : Fin 5) (s : State) : Host.Outcome State Fault Refusal := .next (restartComp s k)

/-- A fault in Mastiff stops every compartment. [18_host_firmware.md R454] -/
def mastiffFault (s : State) : State :=
  fset (showRunning { s with mastiff := { s.mastiff with crashed := [0, 1, 2, 3, 4] } }) HUB_FW_STATUS__MASTIFF_FAILED 1

/-- MASTIFF_FAULT. [18_host_firmware.md R454] -/
def execMastiffFault (s : State) : Host.Outcome State Fault Refusal := .next (mastiffFault s)

/-! ### Counters (R455, R456) -/

/-- The counter at a BAR0 offset whose block answers. [18_host_firmware.md R455; 01_architecture.md R34] -/
def counterAt (s : State) (off : Nat) : Option RegAt :=
  match regAt off with
  | some a => if a.info.counter && blockOn s off then some a else none
  | none => none

/-- Key of the latch of a counter for a requester: 0 the host link, 1 to 4 the management cores. [18_host_firmware.md R456] -/
def latchKey (rq off : Nat) : Nat := rq * 2 ^ 26 + off

/-- An access of a requester to a counter releases its latch. [18_host_firmware.md R456] -/
def unlatch (s : State) (rq off : Nat) : State :=
  { s with host := { s.host with latch := smDel s.host.latch (latchKey rq off) } }

/-- A write of zero clears COUNT and SAT. [18_host_firmware.md R455] -/
def counterClear (s : State) (off : Nat) : State :=
  match counterAt s off with
  | some a => rset (unlatch s 0 off) a.info.reg 0 a.i a.j
  | none => s

/-- COUNTER_CLEAR. [18_host_firmware.md R455] -/
def execCounterClear (off : Nat) (s : State) : Host.Outcome State Fault Refusal :=
  if off < 0x4000000 then .next (counterClear s off) else .fault .outsideBar0

/-- A 32-bit read of a counter's low half latches its high half. [18_host_firmware.md R456] -/
def counterLow (s : State) (rq off : Nat) : State :=
  match counterAt s off with
  | some a => { s with host := { s.host with
      latch := smSet s.host.latch (latchKey rq off) (rget s a.info.reg a.i a.j / 2 ^ 32) } }
  | none => s

/-- COUNTER_LOW_READ. [18_host_firmware.md R456] -/
def execCounterLowRead (rq : Fin 5) (off : Nat) (s : State) : Host.Outcome State Fault Refusal :=
  if off < 0x4000000 then .next (counterLow s rq off) else .fault .outsideBar0

end Sys2Proof.Machine
end

