-- ==== Sys2Proof/Machine/RegEffect.lean ====
section
/-! DEFINITION. A write to any BAR0 register, with the effects that each chapter gives it (00_scope.md R15 to R19;
01_architecture.md R34; 21_register_index.md R492, R493). -/

namespace Sys2Proof.Machine

/-! ### Registers whose writes act, block by block -/

/-- A write of HUB_CFG_CTRL. [17_bringup.md R421, R424] -/
def cfgCtrlWrite (s : State) (v mask : Nat) : State :=
  let s := if wrote1 v mask 0 then cfgWrite (drawn s) (Config.flashGood s.draws) else s
  if wrote1 v mask 1 then cfgSwap s else s

/-- A write of HUB_START. [14_determinism.md R353] -/
def startRegWrite (s : State) (off v mask : Nat) : State :=
  let s := writeCodes s off v mask
  if wrote1 v mask 0 then deviceStart s else s

/-- A write of OPAL_CTRL. [14_determinism.md R357] -/
def opalCtrlWrite (s : State) (off v mask : Nat) : State :=
  let s := writeCodes s off v mask
  let s := if wrote1 v mask 0 then opalOpenWrite s else s
  if wrote1 v mask 1 then opalCloseWrite s else s

/-- A write in OPAL_IN: refused while a run is open. [14_determinism.md R357] -/
def opalInWrite (s : State) (off v mask : Nat) : State :=
  if fbit s OPAL_STATUS__RUN_OPEN then fset s OPAL_STATUS__ERR 1 else writeCodes s off v mask

/-- Hub global registers. [14_determinism.md R347, R353, R357; 17_bringup.md R413, R421, R424] -/
def hubRegWrite (s : State) (r : Reg) (off v mask : Nat) : State :=
  if r = HUB_MODE then modeWrite s (mergeMask (flag (fbit s HUB_MODE__STRICT)) v mask)
  else if r = HUB_START then startRegWrite s off v mask
  else if r = HUB_RESET then if wrote1 v mask 0 then warmReset (drawn s) (Config.bootStrap s.draws % 4) else s
  else if r = HUB_CFG_CTRL then cfgCtrlWrite s v mask
  else if r = OPAL_CTRL then opalCtrlWrite s off v mask
  else if r = OPAL_WEIGHT_HASH ∨ r = OPAL_INPUT_HASH ∨ r = OPAL_SEED ∨ r = OPAL_P_FORMAT_MODE ∨ r = OPAL_PLAN_HASH
      ∨ r = OPAL_IN_REST then
    opalInWrite s off v mask
  else writeCodes s off v mask

/-- A write of HUSKY_CTRL. [16_thermal_power.md R405, R406] -/
def huskyCtrlWrite (s : State) (off v mask : Nat) : State :=
  let s := writeCodes s off v mask
  let s := if wrote1 v mask 1 then orderlyStop s 64 else s
  if wrote1 v mask 0 then resumeWrite s else s

/-- A write of HUSKY_PD_CMD. [16_thermal_power.md R409] -/
def pdCmdWrite (s : State) (off v mask : Nat) : State :=
  let s := writeCodes s off v mask
  let n := fget s HUSKY_PD_CMD__DOMAIN
  match bitsOf (v &&& mask) 9 2 with
  | 1 => pdRequest s n true
  | 2 => pdRequest s n false
  | _ => s

/-- Sequencer and Husky registers. [17_bringup.md R426, R429; 16_thermal_power.md R400, R409] -/
def huskyRegWrite (s : State) (r : Reg) (off v mask : Nat) : State :=
  if r = SEQ_CMD then seqWrite s (v &&& mask)
  else if r = HUSKY_CTRL then huskyCtrlWrite s off v mask
  else if r = HUSKY_PD_CMD then pdCmdWrite s off v mask
  else if r = HUSKY_TRAY_CFG ∨ r = HUSKY_TRAY_ADDR then if seqDone s = 0 then writeCodes s off v mask else s
  else writeCodes s off v mask

/-- A write of BH_PARITY_CMD. [15_fault_tolerance.md R368] -/
def parityRegWrite (s : State) (off v mask : Nat) : State :=
  let s := writeCodes s off v mask
  match bitsOf (v &&& mask) 0 2 with
  | 1 => parityCmd true s
  | 2 => parityCmd false s
  | _ => s

/-- A write of BH_DIE_CMD. [15_fault_tolerance.md R380] -/
def dieRegWrite (s : State) (v mask : Nat) : State :=
  let x := v &&& mask
  match bitsOf x 0 2 with
  | 1 => drainWrite s (bitsOf x 2 2)
  | 2 => dieResetWrite s (bitsOf x 2 2) (bitOf x 4)
  | _ => s

/-- Bloodhound registers. [15_fault_tolerance.md R368, R380] -/
def bloodRegWrite (s : State) (r : Reg) (off v mask : Nat) : State :=
  if r = BH_PARITY_CMD then parityRegWrite s off v mask
  else if r = BH_DIE_CMD then dieRegWrite s v mask
  else writeCodes s off v mask

/-- A write of AGATE_CTRL. [10_attention_kv.md R243, R245] -/
def agateCtrlWrite (s : State) (v mask : Nat) : State :=
  let s := if wrote1 v mask 1 then abortRebuild s else s
  if wrote1 v mask 0 then rebuildWrite s else s

/-- The entry that AGATE_UPD_DATA or AGATE_SHD_DATA shows: the one at its INDEX register in the active or the shadow bank.
[10_attention_kv.md R266] -/
def agateShown (s : State) (shadow : Bool) : Nat :=
  let x := bankGet s shadow (if shadow then fget s AGATE_SHD_INDEX__INDEX else fget s AGATE_UPD_INDEX__INDEX)
  (entDecode x).getD (x % 2 ^ 64)

/-- A value with the bits that no field of the register holds cleared: reserved bits read as zero. [00_scope.md R18] -/
def fieldBits (info : RegInfo) (v : Nat) : Nat :=
  info.fields.foldl (fun x f => setBits x f.1.lo f.1.w (bitsOf v f.1.lo f.1.w)) 0

/-- A write to a command register whose operands lie in both halves: a write of one half sets that half, and the write that
covers bit `trig` acts on the whole (log 63). [00_scope.md R15, R18, Table 0.5] -/
def wideWrite (s : State) (a : RegAt) (v mask trig : Nat) (f : State → Nat → State) : State :=
  let x := fieldBits a.info (mergeMask (rget s a.info.reg a.i a.j) v mask)
  let s := rset s a.info.reg x a.i a.j
  if bitOf mask trig then f s x else s

/-- Agate and Topaz registers. [10_attention_kv.md R242 to R246, R253, R255] -/
def agateRegWrite (s : State) (a : RegAt) (off v mask : Nat) : State :=
  let r := a.info.reg
  let x := mergeMask (rget s r a.i a.j) v mask
  if r = AGATE_CTRL then agateCtrlWrite s v mask
  else if r = AGATE_UPD_DATA then updWrite s (mergeMask (agateShown s false) v mask)
  else if r = AGATE_SHD_DATA then shdWrite s (mergeMask (agateShown s true) v mask)
  else if r = AGATE_RETARGET then retargetWrite s (x % 2 ^ 32 + (v &&& mask) / 2 ^ 32 * 2 ^ 32)
  else if r = AGATE_GEN then swapWrite s x
  else if r = TOPAZ_CMD then wideWrite s a v mask 0 topazCmdWrite
  else if r = TOPAZ_POOL_PUSH then wideWrite s a v mask 32 fun s x => poolPush s a.i (bitsOf x 16 32)
  else writeCodes s off v mask

/-- A write of KELPIE_CTX_CMD. [13_network.md R321] -/
def ctxCmdWrite (s : State) (off v mask : Nat) : State :=
  let s := writeCodes s off v mask
  let x := fget s KELPIE_CTX_CMD__INDEX
  if 40960 ≤ x then s
  else match bitsOf (v &&& mask) 16 2 with
    | 1 => loadCtx s x
    | 2 => readCtx s x
    | 3 => ctxResetCmd s x
    | _ => s

/-- A write of KELPIE_KQ_PTR: HEAD, TAIL and CLEAR. [13_network.md R328, R330] -/
def kqPtrWrite (s : State) (q v mask : Nat) : State :=
  let x := mergeMask (rget s KELPIE_KQ_PTR q) v mask
  let s := fset s KELPIE_KQ_PTR__TRIG_FAIL (if wrote1 v mask 35 then 0 else fget s KELPIE_KQ_PTR__TRIG_FAIL q) q
  let s := if mask % 2 = 1 then kqTail (kqHead s q (bitsOf x 0 16)) q (bitsOf x 16 16) else s
  if wrote1 v mask 34 then kqClearWrite s q else s

/-- A write of KELPIE_SYNC_CTRL: the stored bits, then ARM, DISARM and DRIVE. [13_network.md R341] -/
def syncCtrlWrite (s : State) (off v mask : Nat) : State :=
  let s := writeCodes s off v mask
  let s := if wrote1 v mask 0 then armSync s else s
  let s := if wrote1 v mask 1 then fset s KELPIE_SYNC_CTRL__ARM 0 else s
  if wrote1 v mask 3 then driveSync s else s

/-- Kelpie registers. [13_network.md R321, R328, R330, R339, R341] -/
def kelpieRegWrite (s : State) (a : RegAt) (off v mask : Nat) : State :=
  let r := a.info.reg
  if r = KELPIE_CTX_CMD then ctxCmdWrite s off v mask
  else if r = KELPIE_KQ_PTR then kqPtrWrite s a.i v mask
  else if r = KELPIE_SYNC_CTRL then syncCtrlWrite s off v mask
  else if r = KELPIE_PTP_STEP then wideWrite s a v mask 32 fun s x => ptpMove s (sext 64 x * (2 ^ 44 : Nat))
  else writeCodes s off v mask

/-- A write of HOST_NEG_CTRL. [18_host_firmware.md R441] -/
def negRegWrite (s : State) (off v mask : Nat) : State :=
  let s := writeCodes s off v mask
  if wrote1 v mask 16 ∧ compUp s 3 then negotiate s else s

/-- A write of MBX_CTRL. [19_security.md R466, R469] -/
def mbxRegWrite (s : State) (v mask : Nat) : State :=
  let s := if wrote1 v mask 0 then verifyStaged s else s
  if wrote1 v mask 1 then reportWrite s else s

/-- Host interface, mailbox and doorbell registers. [18_host_firmware.md R438 to R441; 19_security.md R466, R469] -/
def hostRegWrite (s : State) (a : RegAt) (off v mask : Nat) : State :=
  let r := a.info.reg
  let x := mergeMask (rget s r a.i a.j) v mask
  if r = HOST_RING_CFG then ringCfgWrite s a.i v mask
  else if r = HOST_EVT_CFG then evtCfgWrite s v mask
  else if r = HOST_NEG_CTRL then negRegWrite s off v mask
  else if r = DB_SQ_TAIL then sqTailWrite s a.i (x % 2 ^ 16)
  else if r = DB_CQ_HEAD then cqHeadWrite s a.i (x % 2 ^ 16)
  else if r = DB_EVT_HEAD then eventHeadWrite s (x % 2 ^ 16)
  else if r = MBX_CTRL then mbxRegWrite s v mask
  else if r = MBX_NONCE then if fbit s MBX_STATUS__BUSY then s else writeCodes s off v mask
  else writeCodes s off v mask

/-- Region registers. [15_fault_tolerance.md R365] -/
def regionRegWrite (s : State) (a : RegAt) (off v mask : Nat) : State :=
  let r := a.info.reg
  let x := mergeMask (rget s r a.i a.j) v mask
  if r = REGION_BIND then bindWrite s a.i a.j x
  else if r = REGION_STANDBY then standbyWrite s a.i x
  else writeCodes s off v mask

/-! ### The write -/

/-- A write to a counter: zero to the whole, or to its low half, clears it; any other is discarded.
[18_host_firmware.md R455, R456] -/
def counterWrite (s : State) (off v mask : Nat) : State :=
  if mask % 2 = 1 ∧ v &&& mask = 0 then counterClear s off else unlatch s 0 off

/-- The bits `mask` hold a bit of some field of the register; a write of a half that holds none changes and triggers nothing.
[00_scope.md R15, R18] -/
def touches (info : RegInfo) (mask : Nat) : Bool := info.fields.any fun f => bitsOf mask f.1.lo f.1.w ≠ 0

/-- A write of `v` to the bits `mask` of the register at an offset. [00_scope.md R15 to R19; 01_architecture.md R34] -/
def regWrite (s : State) (off v mask : Nat) : State :=
  match regAt off with
  | none => s
  | some a =>
    if !blockOn s off then s
    else if a.info.counter then counterWrite s off v mask
    else if !touches a.info mask then s
    else if 0x02000000 ≤ off then tileRegWrite s off v mask
    else if 0x01000000 ≤ off then regionRegWrite s a off v mask
    else if 0x00700000 ≤ off then hostRegWrite s a off v mask
    else if 0x00600000 ≤ off then kelpieRegWrite s a off v mask
    else if 0x00400000 ≤ off then agateRegWrite s a off v mask
    else if 0x00300000 ≤ off then bloodRegWrite s a.info.reg off v mask
    else if 0x00100000 ≤ off then huskyRegWrite s a.info.reg off v mask
    else hubRegWrite s a.info.reg off v mask

/-- A 64-bit access at a multiple of 8, or a 32-bit access to either half of a register; an access that is not aligned has no
effect. [00_scope.md R15] -/
def registerAccess (s : State) (off : Nat) (half : Bool) (v : Nat) : State :=
  if half then
    if off % 8 = 0 then regWrite s off (v % 2 ^ 32) (2 ^ 32 - 1)
    else if off % 8 = 4 then regWrite s (off - 4) (v % 2 ^ 32 * 2 ^ 32) (fullMask - (2 ^ 32 - 1))
    else s
  else if off % 8 = 0 then regWrite s off v fullMask
  else s

/-- REGISTER_WRITE. [00_scope.md R15 to R19] -/
def execRegisterWrite (off : Nat) (half : Bool) (v : BitVec 64) (s : State) : Host.Outcome State Fault Refusal :=
  if off < 0x4000000 then .next (registerAccess s off half v.toNat) else .fault .outsideBar0

end Sys2Proof.Machine
end

