-- ==== Sys2Proof/Machine/Dispatch.lean ====
section
/-! DEFINITION. One arm for each command. -/

namespace Sys2Proof.Machine

/-- The effect of a command on everything but the queue. -/
def exec (i : Instr) (s : State) : Host.Outcome State Fault Refusal :=
  match i with
  | .dispatch p => Sys2Proof.Machine.execDispatch p s
  | .descFetch p k => Sys2Proof.Machine.execDescFetch p k s
  | .collieNop p => Sys2Proof.Machine.execNop p s
  | .tokenWait p => Sys2Proof.Machine.execTokenWait p s
  | .tokenSet p => Sys2Proof.Machine.execTokenSet p s
  | .collieLoop p => Sys2Proof.Machine.execLoop p s
  | .collieStop p => Sys2Proof.Machine.execStop p s
  | .commandComplete p u => Sys2Proof.Machine.execCommandComplete p u s
  | .tileStopped p => Sys2Proof.Machine.execTileStopped p s
  | .tileRun p => Sys2Proof.Machine.execTileRun p s
  | .tileAbort p => Sys2Proof.Machine.execTileAbort p s
  | .clrFault p => Sys2Proof.Machine.execClrFault p s
  | .tileArm p => Sys2Proof.Machine.execArm p s
  | .streamTailWrite p k v => Sys2Proof.Machine.execStreamTailWrite p k v s
  | .streamHeadWrite p k v => Sys2Proof.Machine.execStreamHeadWrite p k v s
  | .tokenTimeout p k => Sys2Proof.Machine.execTokenTimeout p k s
  | .deadlockEval p => Sys2Proof.Machine.execDeadlockEval p s
  | .heldWriteRelease p => Sys2Proof.Machine.execHeldWriteRelease p s
  | .garnetLoad p => Sys2Proof.Machine.execGarnetLoad p s
  | .garnetLoadEnd p => Sys2Proof.Machine.execGarnetLoadEnd p s
  | .garnetSwap p => Sys2Proof.Machine.execGarnetSwap p s
  | .garnetRun p => Sys2Proof.Machine.execGarnetRun p s
  | .resultWrite p => Sys2Proof.Machine.execResultWrite p s
  | .vCopy p => Sys2Proof.Machine.execCopy p s
  | .vAdd p => Sys2Proof.Machine.execAdd p s
  | .vSub p => Sys2Proof.Machine.execSub p s
  | .vMul p => Sys2Proof.Machine.execMul p s
  | .vFma p => Sys2Proof.Machine.execFma p s
  | .vScale p => Sys2Proof.Machine.execScale p s
  | .vMax p => Sys2Proof.Machine.execMax p s
  | .vMin p => Sys2Proof.Machine.execMin p s
  | .vRelu p => Sys2Proof.Machine.execRelu p s
  | .vExp p => Sys2Proof.Machine.execExp p s
  | .vLog p => Sys2Proof.Machine.execLog p s
  | .vRecip p => Sys2Proof.Machine.execRecip p s
  | .vRsqrt p => Sys2Proof.Machine.execRsqrt p s
  | .vSqrt p => Sys2Proof.Machine.execSqrt p s
  | .vSigmoid p => Sys2Proof.Machine.execSigmoid p s
  | .vSilu p => Sys2Proof.Machine.execSilu p s
  | .vTanh p => Sys2Proof.Machine.execTanh p s
  | .vGlu p => Sys2Proof.Machine.execGlu p s
  | .vSum p => Sys2Proof.Machine.execSum p s
  | .vSumsq p => Sys2Proof.Machine.execSumsq p s
  | .vMaxr p => Sys2Proof.Machine.execMaxr p s
  | .vArgmax p => Sys2Proof.Machine.execArgmax p s
  | .vSoftmax p => Sys2Proof.Machine.execSoftmax p s
  | .vRmsnorm p => Sys2Proof.Machine.execRmsnorm p s
  | .vLayernorm p => Sys2Proof.Machine.execLayernorm p s
  | .vQuant p => Sys2Proof.Machine.execQuant p s
  | .vCombine p => Sys2Proof.Machine.execCombine p s
  | .vSample p => Sys2Proof.Machine.execSample p s
  | .dmaRead p => Sys2Proof.Machine.execDmaRead p s
  | .dmaWrite p => Sys2Proof.Machine.execDmaWrite p s
  | .dmaGather p => Sys2Proof.Machine.execDmaGather p s
  | .dmaScatter p => Sys2Proof.Machine.execDmaScatter p s
  | .dmaMulticast p => Sys2Proof.Machine.execDmaMulticast p s
  | .kvAppend p => Sys2Proof.Machine.execKvAppend p s
  | .partTimeout p => Sys2Proof.Machine.execPartTimeout p s
  | .jasperStart p => Sys2Proof.Machine.execJasperStart p s
  | .jasperLock p => Sys2Proof.Machine.execJasperLock p s
  | .jRowop p n => Sys2Proof.Machine.execJRowop p n s
  | .jLoada p n => Sys2Proof.Machine.execJLoada p n s
  | .jLoade p n => Sys2Proof.Machine.execJLoade p n s
  | .jPop p n => Sys2Proof.Machine.execJPop p n s
  | .jBlock p n => Sys2Proof.Machine.execJBlock p n s
  | .jOut p n => Sys2Proof.Machine.execJOut p n s
  | .jSeal p n => Sys2Proof.Machine.execJSeal p n s
  | .jVec p n => Sys2Proof.Machine.execJVec p n s
  | .programEnd p => Sys2Proof.Machine.execProgramEnd p s
  | .jasperTimeout p => Sys2Proof.Machine.execJasperTimeout p s
  | .slotBoundary p c => Sys2Proof.Machine.execSlotBoundary p c s
  | .refresh p c => Sys2Proof.Machine.execRefresh p c s
  | .burstParity p c ok => Sys2Proof.Machine.execBurstParity p c ok s
  | .rowRecovery p c => Sys2Proof.Machine.execRowRecovery p c s
  | .eccStormPeriod p => Sys2Proof.Machine.execEccStormPeriod p s
  | .rowRemapped p c => Sys2Proof.Machine.execRowRemapped p c s
  | .scrub p c => Sys2Proof.Machine.execScrub p c s
  | .fieldLogAppend => Sys2Proof.Machine.execFieldLogAppend s
  | .bandDown g => Sys2Proof.Machine.execBandDown g s
  | .msgRd m => Sys2Proof.Machine.execMsgRd m s
  | .msgWr m => Sys2Proof.Machine.execMsgWr m s
  | .msgRdata m hdr bad => Sys2Proof.Machine.execMsgRdata m hdr bad s
  | .msgWack m => Sys2Proof.Machine.execMsgWack m s
  | .msgNoep m => Sys2Proof.Machine.execMsgNoep m s
  | .msgSpw m => Sys2Proof.Machine.execMsgSpw m s
  | .msgVrd m => Sys2Proof.Machine.execMsgVrd m s
  | .msgVwr m => Sys2Proof.Machine.execMsgVwr m s
  | .msgMgmt m => Sys2Proof.Machine.execMsgMgmt m s
  | .flitReceive l x => Sys2Proof.Machine.execFlitReceive l x s
  | .linkReplay l => Sys2Proof.Machine.execLinkReplay l s
  | .retryTimeout l => Sys2Proof.Machine.execRetryTimeout l s
  | .linkRetrain l ok rate => Sys2Proof.Machine.execLinkRetrain l ok rate s
  | .mcStall p => Sys2Proof.Machine.execMcStall p s
  | .accountingPeriod link => Sys2Proof.Machine.execAccountingPeriod link s
  | .overMask g => Sys2Proof.Machine.execOverMask g s
  | .qosWrite off v => Sys2Proof.Machine.execQosWrite off v s
  | .wctData pk => Sys2Proof.Machine.execWctData pk s
  | .wctAck pk => Sys2Proof.Machine.execWctAck pk s
  | .wctNak pk => Sys2Proof.Machine.execWctNak pk s
  | .collPacket pk => Sys2Proof.Machine.execCollPacket pk s
  | .ackTimer x => Sys2Proof.Machine.execAckTimer x s
  | .wctRto x => Sys2Proof.Machine.execWctRto x s
  | .rnrWait x => Sys2Proof.Machine.execRnrWait x s
  | .wctHold x => Sys2Proof.Machine.execWctHold x s
  | .ccPeriod x => Sys2Proof.Machine.execCcPeriod x s
  | .rdmaWrite pk => Sys2Proof.Machine.execRdmaWrite pk s
  | .rdmaReadRequest pk => Sys2Proof.Machine.execRdmaReadRequest pk s
  | .pause j pri q => Sys2Proof.Machine.execPause j pri q s
  | .ptpEvent j rx ty sq corr => Sys2Proof.Machine.execPtpEvent j rx ty sq corr s
  | .netLinkDown j => Sys2Proof.Machine.execNetLinkDown j s
  | .portRetrain j up => Sys2Proof.Machine.execPortRetrain j up s
  | .ctxLoad x => Sys2Proof.Machine.execKelpieCtxLoad x s
  | .ctxRead x => Sys2Proof.Machine.execKelpieCtxRead x s
  | .ctxReset x => Sys2Proof.Machine.execKelpieCtxReset x s
  | .kqTailWrite q v => Sys2Proof.Machine.execKqTailWrite q v s
  | .wqeWrite q => Sys2Proof.Machine.execWqeWrite q s
  | .wqeColl q => Sys2Proof.Machine.execWqeColl q s
  | .wqeWait q => Sys2Proof.Machine.execWqeWait q s
  | .wqeComplete q => Sys2Proof.Machine.execWqeComplete q s
  | .kqClear q => Sys2Proof.Machine.execKqClear q s
  | .syncArm => Sys2Proof.Machine.execSyncArm s
  | .syncDisarm => Sys2Proof.Machine.execSyncDisarm s
  | .syncDrive => Sys2Proof.Machine.execSyncDrive s
  | .syncInEdge => Sys2Proof.Machine.execSyncInEdge s
  | .ptpStartTime => Sys2Proof.Machine.execPtpStartTime s
  | .ptpStep v => Sys2Proof.Machine.execPtpStep v s
  | .ptpSecRead => Sys2Proof.Machine.execPtpSecRead s
  | .hubStartGo => Sys2Proof.Machine.execHubStartGo s
  | .regionStart g => Sys2Proof.Machine.execRegionStart g s
  | .hubModeWrite v => Sys2Proof.Machine.execHubModeWrite v s
  | .opalOpen => Sys2Proof.Machine.execOpalOpen s
  | .opalClose => Sys2Proof.Machine.execOpalClose s
  | .opalSignDone => Sys2Proof.Machine.execOpalSignDone s
  | .liveUpdate v => Sys2Proof.Machine.execLiveUpdate v s
  | .updAck => Sys2Proof.Machine.execUpdAck s
  | .agateRebuild => Sys2Proof.Machine.execAgateRebuild s
  | .agateCopyEnd => Sys2Proof.Machine.execAgateCopyEnd s
  | .agateAbort => Sys2Proof.Machine.execAgateAbort s
  | .agateShdDataWrite v => Sys2Proof.Machine.execAgateShdDataWrite v s
  | .agateRetarget v => Sys2Proof.Machine.execAgateRetarget v s
  | .sweepEnd => Sys2Proof.Machine.execSweepEnd s
  | .agateSwap v => Sys2Proof.Machine.execAgateSwap v s
  | .agateExchange => Sys2Proof.Machine.execAgateExchange s
  | .agateSwapped => Sys2Proof.Machine.execAgateSwapped s
  | .topazOpen => Sys2Proof.Machine.execTopazOpen s
  | .topazClose => Sys2Proof.Machine.execTopazClose s
  | .topazRead => Sys2Proof.Machine.execTopazRead s
  | .topazTruncate => Sys2Proof.Machine.execTopazTruncate s
  | .topazPoolPush t v => Sys2Proof.Machine.execTopazPoolPush t v s
  | .appendResolve p a => Sys2Proof.Machine.execAppendResolve p a s
  | .appendDone p a => Sys2Proof.Machine.execAppendDone p a s
  | .fence p => Sys2Proof.Machine.execFence p s
  | .quiesce => Sys2Proof.Machine.execQuiesce s
  | .bhBind => Sys2Proof.Machine.execBhBind s
  | .bhRebuild => Sys2Proof.Machine.execBhRebuild s
  | .bhRelease => Sys2Proof.Machine.execBhRelease s
  | .parityBuild => Sys2Proof.Machine.execParityBuild s
  | .parityVerify => Sys2Proof.Machine.execParityVerify s
  | .regionBindWrite g k v => Sys2Proof.Machine.execRegionBindWrite g k v s
  | .regionStandbyWrite g v => Sys2Proof.Machine.execRegionStandbyWrite g v s
  | .regionFault g code => Sys2Proof.Machine.execRegionFault g code s
  | .dieDrain d => Sys2Proof.Machine.execDieDrain d s
  | .dieDrained d => Sys2Proof.Machine.execDieDrained d s
  | .dieReset d full => Sys2Proof.Machine.execDieReset d full s
  | .dieReady d up bad ecc rows => Sys2Proof.Machine.execDieReady d up bad ecc rows s
  | .clockLoss d => Sys2Proof.Machine.execClockLoss d s
  | .dieLost d cause => Sys2Proof.Machine.execDieLost d cause s
  | .thermalSample raw => Sys2Proof.Machine.execThermalSample raw s
  | .sensorSelfCheck j base swapped => Sys2Proof.Machine.execSensorSelfCheck j base swapped s
  | .modelStep => Sys2Proof.Machine.execModelStep s
  | .powerEstimate => Sys2Proof.Machine.execPowerEstimate s
  | .railTelemetry rd => Sys2Proof.Machine.execRailTelemetry rd s
  | .trayReport f => Sys2Proof.Machine.execTrayReport f s
  | .demand => Sys2Proof.Machine.execDemand s
  | .trayReportMissing => Sys2Proof.Machine.execTrayReportMissing s
  | .huskyStop => Sys2Proof.Machine.execHuskyStop s
  | .stopComplete => Sys2Proof.Machine.execStopComplete s
  | .huskyResume => Sys2Proof.Machine.execHuskyResume s
  | .powerOn n => Sys2Proof.Machine.execPowerOn n s
  | .powerOff n => Sys2Proof.Machine.execPowerOff n s
  | .domainOn n => Sys2Proof.Machine.execDomainOn n s
  | .supplyFault n => Sys2Proof.Machine.execSupplyFault n s
  | .thermtrip => Sys2Proof.Machine.execThermtrip s
  | .coldReset strap => Sys2Proof.Machine.execColdReset strap s
  | .warmReset strap => Sys2Proof.Machine.execWarmReset strap s
  | .perst => Sys2Proof.Machine.execPerst s
  | .mbxVerify img => Sys2Proof.Machine.execMbxVerify img s
  | .mbxReport => Sys2Proof.Machine.execMbxReport s
  | .reportDone => Sys2Proof.Machine.execReportDone s
  | .debugInstruction burnt => Sys2Proof.Machine.execDebugInstruction burnt s
  | .powerCheck rails broken rep => Sys2Proof.Machine.execPowerCheck rails broken rep s
  | .clocks pll deskew => Sys2Proof.Machine.execClocks pll deskew s
  | .fuses ok => Sys2Proof.Machine.execFuses ok s
  | .dieLinks up onyxBad site rate half rep => Sys2Proof.Machine.execDieLinks up onyxBad site rate half rep s
  | .vaultTrain bad => Sys2Proof.Machine.execVaultTrain bad s
  | .eccSelftest bad => Sys2Proof.Machine.execEccSelftest bad s
  | .memtest rows low stopped => Sys2Proof.Machine.execMemtest rows low stopped s
  | .floorplan => Sys2Proof.Machine.execFloorplan s
  | .netTrain up => Sys2Proof.Machine.execNetTrain up s
  | .seqReady => Sys2Proof.Machine.execSeqReady s
  | .stepDone => Sys2Proof.Machine.execStepDone s
  | .stepLimit => Sys2Proof.Machine.execStepLimit s
  | .cfgWrite flashOk => Sys2Proof.Machine.execCfgWrite flashOk s
  | .cfgSwap => Sys2Proof.Machine.execCfgSwap s
  | .quietPoint => Sys2Proof.Machine.execQuietPoint s
  | .sqTail r v ents => Sys2Proof.Machine.execSqTail r v ents s
  | .cqHead r v => Sys2Proof.Machine.execCqHead r v s
  | .eventHead v => Sys2Proof.Machine.execEventHead v s
  | .hostNop r => Sys2Proof.Machine.execHostNop r s
  | .planLoad r => Sys2Proof.Machine.execPlanLoad r s
  | .planUnload r => Sys2Proof.Machine.execPlanUnload r s
  | .planRun r => Sys2Proof.Machine.execPlanRun r s
  | .planRunDone r => Sys2Proof.Machine.execPlanRunDone r s
  | .hostAbort r => Sys2Proof.Machine.execHostAbort r s
  | .hostCopy r data ok => Sys2Proof.Machine.execHostCopy r data ok s
  | .fwUpdate r ok => Sys2Proof.Machine.execFwUpdate r ok s
  | .ringEnable r v => Sys2Proof.Machine.execRingEnable r v s
  | .evtEnable v => Sys2Proof.Machine.execEvtEnable v s
  | .negGo => Sys2Proof.Machine.execNegGo s
  | .coalesceTimer r => Sys2Proof.Machine.execCoalesceTimer r s
  | .bar2Read o n => Sys2Proof.Machine.execBar2Read o n s
  | .bar2Write o data ep => Sys2Proof.Machine.execBar2Write o data ep s
  | .pcieLinkDown bmeOnly => Sys2Proof.Machine.execPcieLinkDown bmeOnly s
  | .trap k => Sys2Proof.Machine.execTrap k s
  | .checkInTimeout k => Sys2Proof.Machine.execCheckInTimeout k s
  | .fwRestart k => Sys2Proof.Machine.execFwRestart k s
  | .counterClear off => Sys2Proof.Machine.execCounterClear off s
  | .counterLowRead rq off => Sys2Proof.Machine.execCounterLowRead rq off s
  | .registerWrite off half v => Sys2Proof.Machine.execRegisterWrite off half v s
  | .retxGap x => Sys2Proof.Machine.execRetxGap x s
  | .pauseEnd j pri => Sys2Proof.Machine.execPauseEnd j pri s
  | .syncOutPulseEnd => Sys2Proof.Machine.execSyncOutPulseEnd s
  | .resetAsserted => Sys2Proof.Machine.execResetAsserted s
  | .mgmtRailRemoved => Sys2Proof.Machine.execMgmtRailRemoved s
  | .pcieLinkUp => Sys2Proof.Machine.execPcieLinkUp s
  | .mastiffFault => Sys2Proof.Machine.execMastiffFault s

end Sys2Proof.Machine
end

