-- ==== Sys2Proof/Machine/Tick.lean ====
section
/-! DEFINITION. What passes while no command waits: the device-time counter, the PTP clock, and the host accesses that waited for a lock
or for the hub's regulator (18_host_firmware.md R435, R457; 13_network.md R339; 12_regulation.md R308; 09_jasper.md R228). -/

namespace Sys2Proof.Machine

/-- NCLK cycles that have passed after `t` HCLK cycles: 1.6 GHz against 1 GHz. [00_scope.md Table 0.4] -/
def nclkAt (t : Nat) : Nat := 8 * t / 5

/-- What one NCLK adds to the PTP clock, in units of 2^-44 ns. [13_network.md R339] -/
def ptpStepUnits (s : State) : Int := (625 * 2 ^ 44 / 1000 : Nat) + sext 32 (fget s KELPIE_PTP_RATE__RATE)

/-- One HCLK passes: HUB_TIME counts a nanosecond and the PTP clock its NCLK. [18_host_firmware.md R457; 13_network.md R339] -/
def hclk (s : State) : State :=
  let n := nclkAt (now s + 1) - nclkAt (now s)
  let s := rset s HUB_TIME (now s + 1)
  ptpMove s ((n : Int) * ptpStepUnits s)

/-- The block idles: HCLK passes while the device is powered and not held in reset, and host accesses that waited go on.
[18_host_firmware.md R435, R457; 20_signals_package.md R478, R481] -/
def idle (s : State) : State := if s.boot.powered && s.boot.resetLow.isNone then bar2Go (hclk s) else s

end Sys2Proof.Machine
end

