-- ==== Sys2Proof/Machine/RegRead.lean ====
section
/-! DEFINITION. What a read of a BAR0 register returns: the registers as they stand, and those that show state which the
model holds elsewhere (00_scope.md R15, R18, R19; 01_architecture.md R34; 18_host_firmware.md R456). -/

namespace Sys2Proof.Machine

/-- PREC of a bank: 0 while it is not loaded. [03_garnet_array.md R89] -/
def shownPrec (b : Bank) : Nat := if b.loaded then b.prec else 0

/-- TILE_GARNET_STATUS. [03_garnet_array.md R89, Table 3.8] -/
def garnetStatus (t : Tile) : Nat :=
  let g := t.garnet
  let a := activeOf g
  let h := shadowOf g
  let loadBusy := t.qLoad.any fun c => c.phase = .active
  let swap := t.qExec.any fun c => dOp c.desc = 0x11 && c.phase = .queued
  let run := t.qExec.any fun c => dOp c.desc = 0x12 && c.phase = .active
  let grp := match g.group with
    | some x => 2 ^ 35 + x.tokens * 2 ^ 36 + x.ncols * 2 ^ 43
    | none => 0
  flag a.loaded + flag h.loaded * 2 + shownPrec a * 2 ^ 2 + flag a.int1 * 2 ^ 6 + flag a.page * 2 ^ 7
    + shownPrec h * 2 ^ 8 + flag h.int1 * 2 ^ 12 + flag h.page * 2 ^ 13 + bankPlanes a * 2 ^ 16 + bankPlanes h * 2 ^ 24
    + flag loadBusy * 2 ^ 32 + flag swap * 2 ^ 33 + flag run * 2 ^ 34 + grp + flag g.halted * 2 ^ 51 + flag g.active1 * 2 ^ 52

/-- TILE_DMA_STATUS. [06_spinel_dma.md Table 6.12] -/
def dmaShown (t : Tile) : Nat :=
  let active := (t.qDma.filter fun c => c.phase ≠ .queued).length
  flag (!t.qDma.isEmpty) + (t.qDma.length - active) * 2 + active * 2 ^ 6

/-- TILE_VAULT_REPAIR_DATA of a channel: the spare that SEL names. [07_vaults.md Table 7.12] -/
def repairShown (s : State) (p c : Nat) : Nat :=
  match smFind (chanOf s p c).conns (fget s TILE_VAULT_REPAIR_SEL__ENTRY p c) with
  | some x => x % 2 ^ 11 + 2 ^ 11 + x / 2048 % 2 * 2 ^ 12
  | none => 0

/-- ELAPSED of a Jasper program, in units of 64 FCLK: 32 ns. [09_jasper.md Table 9.9] -/
def jasperElapsed (s : State) (p : Nat) : Nat :=
  match (tileOf s p).jprog with
  | some j => if j.locked then min ((now s - j.lockAt) / 32) 1023 else 0
  | none => 0

/-- The lowest duty of a region. [16_thermal_power.md Table 16.6] -/
def regionDuty (s : State) (g : Nat) : Nat :=
  (List.range 18).foldl (fun m k => min m (fget s HUSKY_TILE__DUTY (g * 18 + k))) 64

/-- The value of a register with its write-only fields at zero. [00_scope.md Table 0.5] -/
def hideWo (info : RegInfo) (v : Nat) : Nat :=
  (info.fields.filter fun f => f.2 = .wo).foldl (fun x f => setBits x f.1.lo f.1.w 0) v

/-- A register as a read finds it. BUSY of Beryl reads 1 from the row of a command until COMMAND_COMPLETE (log 15).
[00_scope.md R15, Table 0.5; 05_beryl_vector.md R140] -/
def readValue (s : State) (a : RegAt) : Nat :=
  let r := a.info.reg
  let v := hideWo a.info (rget s r a.i a.j)
  if r = TILE_GARNET_STATUS then garnetStatus (tileOf s a.i)
  else if r = TILE_DMA_STATUS then dmaShown (tileOf s a.i)
  else if r = TILE_BERYL_STATUS then setBits v 5 1 (flag ((tileOf s a.i).qBeryl.any fun c => c.phase ≠ .queued))
  else if r = TILE_STREAM_STATUS then if fbit s TILE_STREAM_CFG__ENABLE a.i a.j then v else 0
  else if r = AGATE_UPD_DATA then agateShown s false
  else if r = AGATE_SHD_DATA then agateShown s true
  else if r = KELPIE_PTP_NS then s.kelpie.ptpLatch.getD v
  else if r = TILE_VAULT_REPAIR_DATA then repairShown s a.i a.j
  else if r = REGION_JASPER_STATUS then setBits v 0 1 (flag (jasperRegion s a.i && domOn s (309 + a.i)))
  else if r = REGION_JASPER_CTX then setBits v 16 10 (jasperElapsed s (a.i * 18 + a.j))
  else if r = REGION_THERM then setBits v 24 7 (regionDuty s a.i)
  else v

/-- The register at an offset, or 0 where none is implemented or its block does not answer. [00_scope.md R19; 01_architecture.md R34] -/
def readAt (s : State) (off : Nat) : Nat :=
  match regAt off with
  | some a => if blockOn s off then readValue s a else 0
  | none => 0

/-- The high half that the host link's latch of a counter holds. [18_host_firmware.md R456] -/
def latched (s : State) (off : Nat) : Option Nat := smFind s.host.latch (latchKey 0 off)

/-- What the host reads at an offset, with a 64-bit access or (`half`) a 32-bit one; an access that is not aligned to its own
size reads zero. [00_scope.md R15; 18_host_firmware.md R456] -/
def hostRead (s : State) (off : Nat) (half : Bool) : Nat :=
  if half then
    if off % 8 = 0 then readAt s off % 2 ^ 32
    else if off % 8 = 4 then (latched s (off - 4)).getD (readAt s (off - 4) / 2 ^ 32)
    else 0
  else if off % 8 = 0 then readAt s off
  else 0

/-! ### The identity in configuration space (R433) -/

/-- Device ID. [18_host_firmware.md R433] -/
def pciDeviceId : Nat := 0x0288

/-- Class code, a processing accelerator. [18_host_firmware.md R433] -/
def pciClass : Nat := 0x120000

/-- Revision ID. [18_host_firmware.md R433] -/
def pciRevision (s : State) : Nat := fget s HUB_ID__STEP_MINOR

/-- Device Serial Number. [18_host_firmware.md Table 18.1; 19_security.md Table 19.1] -/
def pciSerial (s : State) : Nat := s.fuses.serial

/-- Vendor ID, Subsystem Vendor ID and Subsystem ID. [18_host_firmware.md R433] -/
def pciIdsOf (s : State) : Nat × Nat × Nat := s.flash.pciIds

/-! ### The test port (R488, R489) -/

/-- IDCODE of the hub. [20_signals_package.md R489] -/
def hubIdcode (s : State) : Nat := fget s HUB_ID__STEP_MAJOR % 16 * 2 ^ 28 + 0x028856F

/-- IDCODE of compute die `d`. [20_signals_package.md R489] -/
def dieIdcode (s : State) (d : Nat) : Nat := fget s HUB_ID__STEP_MAJOR % 16 * 2 ^ 28 + 0x028956F + d * 0x1000

/-- Bits of the chain with every TAP in BYPASS: the hub, four dies, and the customer die where the part has the site and a die
stands in it. [20_signals_package.md R488] -/
def chainBits (s : State) : Nat := 5 + flag (partU s && decide (2 ≤ s.boot.site))

end Sys2Proof.Machine
end

