-- ==== Sys2Proof/WellFormed.lean ====
section
/-! DEFINITION. Well-formed commands: the operands that a row can have. Nothing else in the model refuses or faults. -/

namespace Sys2Proof

/-- The operands of a command have the shape its row can have: one reading per sensor and per rail, sensors that exist, an
image that fits the ring SRAM, at most one ring of entries, memory requests within one 4 KiB page and one payload
(18_host_firmware.md Table 18.1), and offsets within BAR0 (18_host_firmware.md Table 18.2). -/
def Instr.wf (i : Instr) : Bool :=
  match i with
  | .dispatch _ => true
  | .descFetch _ _ => true
  | .collieNop _ => true
  | .tokenWait _ => true
  | .tokenSet _ => true
  | .collieLoop _ => true
  | .collieStop _ => true
  | .commandComplete _ _ => true
  | .tileStopped _ => true
  | .tileRun _ => true
  | .tileAbort _ => true
  | .clrFault _ => true
  | .tileArm _ => true
  | .streamTailWrite _ _ _ => true
  | .streamHeadWrite _ _ _ => true
  | .tokenTimeout _ _ => true
  | .deadlockEval _ => true
  | .heldWriteRelease _ => true
  | .garnetLoad _ => true
  | .garnetLoadEnd _ => true
  | .garnetSwap _ => true
  | .garnetRun _ => true
  | .resultWrite _ => true
  | .vCopy _ => true
  | .vAdd _ => true
  | .vSub _ => true
  | .vMul _ => true
  | .vFma _ => true
  | .vScale _ => true
  | .vMax _ => true
  | .vMin _ => true
  | .vRelu _ => true
  | .vExp _ => true
  | .vLog _ => true
  | .vRecip _ => true
  | .vRsqrt _ => true
  | .vSqrt _ => true
  | .vSigmoid _ => true
  | .vSilu _ => true
  | .vTanh _ => true
  | .vGlu _ => true
  | .vSum _ => true
  | .vSumsq _ => true
  | .vMaxr _ => true
  | .vArgmax _ => true
  | .vSoftmax _ => true
  | .vRmsnorm _ => true
  | .vLayernorm _ => true
  | .vQuant _ => true
  | .vCombine _ => true
  | .vSample _ => true
  | .dmaRead _ => true
  | .dmaWrite _ => true
  | .dmaGather _ => true
  | .dmaScatter _ => true
  | .dmaMulticast _ => true
  | .kvAppend _ => true
  | .partTimeout _ => true
  | .jasperStart _ => true
  | .jasperLock _ => true
  | .jRowop _ _ => true
  | .jLoada _ _ => true
  | .jLoade _ _ => true
  | .jPop _ _ => true
  | .jBlock _ _ => true
  | .jOut _ _ => true
  | .jSeal _ _ => true
  | .jVec _ _ => true
  | .programEnd _ => true
  | .jasperTimeout _ => true
  | .slotBoundary _ _ => true
  | .refresh _ _ => true
  | .burstParity _ _ _ => true
  | .rowRecovery _ _ => true
  | .eccStormPeriod _ => true
  | .rowRemapped _ _ => true
  | .scrub _ _ => true
  | .fieldLogAppend => true
  | .bandDown _ => true
  | .msgRd _ => true
  | .msgWr _ => true
  | .msgRdata _ _ _ => true
  | .msgWack _ => true
  | .msgNoep _ => true
  | .msgSpw _ => true
  | .msgVrd _ => true
  | .msgVwr _ => true
  | .msgMgmt _ => true
  | .flitReceive _ _ => true
  | .linkReplay _ => true
  | .retryTimeout _ => true
  | .linkRetrain _ _ _ => true
  | .mcStall _ => true
  | .accountingPeriod _ => true
  | .overMask _ => true
  | .qosWrite _ _ => true
  | .wctData _ => true
  | .wctAck _ => true
  | .wctNak _ => true
  | .collPacket _ => true
  | .ackTimer _ => true
  | .wctRto _ => true
  | .rnrWait _ => true
  | .wctHold _ => true
  | .ccPeriod _ => true
  | .rdmaWrite _ => true
  | .rdmaReadRequest _ => true
  | .pause _ _ _ => true
  | .ptpEvent _ _ _ _ _ => true
  | .netLinkDown _ => true
  | .portRetrain _ _ => true
  | .ctxLoad _ => true
  | .ctxRead _ => true
  | .ctxReset _ => true
  | .kqTailWrite _ _ => true
  | .wqeWrite _ => true
  | .wqeColl _ => true
  | .wqeWait _ => true
  | .wqeComplete _ => true
  | .kqClear _ => true
  | .syncArm => true
  | .syncDisarm => true
  | .syncDrive => true
  | .syncInEdge => true
  | .ptpStartTime => true
  | .ptpStep _ => true
  | .ptpSecRead => true
  | .hubStartGo => true
  | .regionStart _ => true
  | .hubModeWrite _ => true
  | .opalOpen => true
  | .opalClose => true
  | .opalSignDone => true
  | .liveUpdate _ => true
  | .updAck => true
  | .agateRebuild => true
  | .agateCopyEnd => true
  | .agateAbort => true
  | .agateShdDataWrite _ => true
  | .agateRetarget _ => true
  | .sweepEnd => true
  | .agateSwap _ => true
  | .agateExchange => true
  | .agateSwapped => true
  | .topazOpen => true
  | .topazClose => true
  | .topazRead => true
  | .topazTruncate => true
  | .topazPoolPush _ _ => true
  | .appendResolve _ _ => true
  | .appendDone _ _ => true
  | .fence _ => true
  | .quiesce => true
  | .bhBind => true
  | .bhRebuild => true
  | .bhRelease => true
  | .parityBuild => true
  | .parityVerify => true
  | .regionBindWrite _ _ _ => true
  | .regionStandbyWrite _ _ => true
  | .regionFault _ _ => true
  | .dieDrain _ => true
  | .dieDrained _ => true
  | .dieReset _ _ => true
  | .dieReady _ _ _ _ _ => true
  | .clockLoss _ => true
  | .dieLost _ _ => true
  | .thermalSample raw => decide (raw.length = 1000)
  | .sensorSelfCheck _ _ _ => true
  | .modelStep => true
  | .powerEstimate => true
  | .railTelemetry rd => decide (rd.length = 8)
  | .trayReport _ => true
  | .demand => true
  | .trayReportMissing => true
  | .huskyStop => true
  | .stopComplete => true
  | .huskyResume => true
  | .powerOn _ => true
  | .powerOff _ => true
  | .domainOn _ => true
  | .supplyFault _ => true
  | .thermtrip => true
  | .coldReset _ => true
  | .warmReset _ => true
  | .perst => true
  | .mbxVerify img => decide (img.length < 2 ^ 25)
  | .mbxReport => true
  | .reportDone => true
  | .debugInstruction _ => true
  | .powerCheck rails broken _ => decide (rails.length = 8) && broken.all fun i => decide (i < 1000)
  | .clocks _ _ => true
  | .fuses _ => true
  | .dieLinks _ _ _ _ _ _ => true
  | .vaultTrain _ => true
  | .eccSelftest _ => true
  | .memtest _ _ _ => true
  | .floorplan => true
  | .netTrain _ => true
  | .seqReady => true
  | .stepDone => true
  | .stepLimit => true
  | .cfgWrite _ => true
  | .cfgSwap => true
  | .quietPoint => true
  | .sqTail _ _ ents => decide (ents.length < 65536)
  | .cqHead _ _ => true
  | .eventHead _ => true
  | .hostNop _ => true
  | .planLoad _ => true
  | .planUnload _ => true
  | .planRun _ => true
  | .planRunDone _ => true
  | .hostAbort _ => true
  | .hostCopy _ _ _ => true
  | .fwUpdate _ _ => true
  | .ringEnable _ _ => true
  | .evtEnable _ => true
  | .negGo => true
  | .coalesceTimer _ => true
  | .bar2Read o n => decide (o.toNat % 4096 + n ≤ 4096)
  | .bar2Write o data _ => decide (o.toNat % 4096 + data.length ≤ 4096) && decide (data.length ≤ 512)
  | .pcieLinkDown _ => true
  | .trap _ => true
  | .checkInTimeout _ => true
  | .fwRestart _ => true
  | .counterClear off => decide (off < 0x4000000)
  | .counterLowRead _ off => decide (off < 0x4000000)
  | .registerWrite off _ _ => decide (off < 0x4000000)
  | .retxGap _ => true
  | .pauseEnd _ _ => true
  | .syncOutPulseEnd => true
  | .resetAsserted => true
  | .mgmtRailRemoved => true
  | .pcieLinkUp => true
  | .mastiffFault => true

end Sys2Proof
end

