-- ==== Sys2Proof/Safety.lean ====
section
/-! DEFINITION. What counts as a safe step, the canonical form of the memories, and the terms in which statements say what a
command changes and what it leaves. -/

namespace Sys2Proof

open Machine

/-- A step that neither faults nor refuses. -/
def SafeStep (s : State) : Prop := ∃ t, Machine.step s = .next t

/-- Every memory of the block is in canonical form: addresses rising, no entry equal to the byte an unlisted address reads
as; the tables of registers, tiles, channels, regions, links, network contexts, pauses, sensor histories and missed
rail reads are sorted by number; and what waits for power names domains. -/
def MemsCanonical (s : State) : Prop :=
  s.vaultData.wf = true ∧ s.vaultChk.wf = true ∧ s.vaultPage.wf = true ∧ s.vaultTag.wf = true ∧ s.unsealed.wf = true
    ∧ s.spData.wf = true ∧ s.spChk.wf = true ∧ s.spTag.wf = true ∧ s.bar4.wf = true
    ∧ smSorted s.regs = true ∧ smSorted s.tiles = true ∧ smSorted s.chans = true ∧ smSorted s.regions = true
    ∧ smSorted s.links = true ∧ smSorted s.kelpie.ctx = true ∧ smSorted s.kelpie.pause = true ∧ smSorted s.husky.hist = true
    ∧ smSorted s.husky.railMiss = true ∧ (∀ r ∈ s.husky.requests, r.domain < 325) ∧ ∀ n ∈ s.husky.resumeOn, n < 325

/-- `t` differs from `s` in registers alone, and in those at the offsets `P` alone. -/
def RegsOnly (s t : State) (P : Nat → Prop) : Prop :=
  ∃ r, t = { s with regs := r } ∧ ∀ off, ¬ P off → smFind r off = smFind s.regs off

/-- The bits of register `r`, instance (i, j), outside bits [lo + w - 1 : lo] are the same in both states. -/
def OtherBits (s t : State) (f : Fld) (i j : Nat) : Prop :=
  ∀ b, b < 64 → b < f.lo ∨ f.lo + f.w ≤ b → (rget t f.reg i j).testBit b = (rget s f.reg i j).testBit b

/-- Field `f`, instance (i, j), holds `v` and nothing else of the block has changed. -/
def FieldWritten (s t : State) (f : Fld) (v i j : Nat) : Prop :=
  fget t f i j = v ∧ OtherBits s t f i j ∧ RegsOnly s t fun off => off = regOff f.reg i j

/-- Register `r`, instance (i, j), holds `v` and nothing else of the block has changed. -/
def RegWritten (s t : State) (r : Reg) (v i j : Nat) : Prop :=
  rget t r i j = v ∧ RegsOnly s t fun off => off = regOff r i j

/-- The registers whose writes do more than store their fields by the access codes: those that start or refuse something, those
that are stored limited, and the guarantees. [00_scope.md R16; 04_tile_commands.md R105, R119; 10_attention_kv.md R266;
12_regulation.md R310; 13_network.md R344; 14_determinism.md R361; 15_fault_tolerance.md R382; 16_thermal_power.md R391, R396,
R397; 17_bringup.md R422; 18_host_firmware.md R438 to R441; 19_security.md R466] -/
def actingRegs : List Reg :=
  [HUB_MODE, HUB_START, HUB_RESET, HUB_CFG_CTRL, OPAL_CTRL, OPAL_PLAN_HASH, OPAL_WEIGHT_HASH, OPAL_INPUT_HASH, OPAL_SEED,
    OPAL_P_FORMAT_MODE, OPAL_IN_REST, FAB_QOS_LMIN, SEQ_CMD, HUSKY_CTRL, HUSKY_THRESH, HUSKY_PCAP, HUSKY_RAMP, HUSKY_PD_CMD,
    HUSKY_TRAY_CFG, HUSKY_TRAY_ADDR, BH_PARITY_CMD, BH_DIE_CMD]
  ++ [AGATE_CTRL, AGATE_UPD_DATA, AGATE_SHD_DATA, AGATE_RETARGET, AGATE_GEN, TOPAZ_CMD, TOPAZ_POOL_PUSH, KELPIE_CTX_CMD,
    KELPIE_KQ_PTR, KELPIE_SYNC_CTRL, KELPIE_PTP_STEP, HOST_RING_CFG, HOST_EVT_CFG, HOST_NEG_CTRL, DB_SQ_TAIL, DB_CQ_HEAD,
    DB_EVT_HEAD, MSIX_DATA, MBX_CTRL, MBX_NONCE]
  ++ [REGION_BIND, REGION_STANDBY, REGION_QOS_VMIN, REGION_QOS_LMIN, TILE_COLLIE_CTRL, TILE_STREAM_HEAD, TILE_STREAM_CFG,
    TILE_SLOT_CFG]

/-- The offsets that posting an event or signalling a ring may change: the state of the event ring, its drop counter and
the pending bits of the interrupts. [18_host_firmware.md R440, R449] -/
def EventReg (off : Nat) : Prop :=
  off = regOff HOST_EVT_STATE 0 0 ∨ off = regOff HOST_EVT_DROP_COUNT 0 0 ∨ ∃ v, off = regOff MSIX_PBA v 0

/-- `t` differs from `s` in the registers at the offsets `P` and in what posting events changes alone. -/
def RegsAndEvents (s t : State) (P : Nat → Prop) : Prop :=
  ∃ r h b, t = { s with regs := r, host := h, bar4 := b }
    ∧ ∀ off, ¬ P off → ¬ EventReg off → smFind r off = smFind s.regs off

/-- Where the event ring is disabled and the firmware's buffer has room, the event is held there as the last one.
[18_host_firmware.md R449] -/
def EventHeld (s t : State) (code payload : Nat) : Prop :=
  fbit s HOST_EVT_CFG__ENABLE = false → s.host.evtBuf.length < 256 →
    t.host.evtBuf = s.host.evtBuf ++ [⟨code, s.host.evtSeq, now s, payload⟩]

/-- Every word of Spinel of tile `p` outside `ws`, and of every other tile, holds the bytes and the tag it held.
[06_spinel_dma.md R142, R149] -/
def SpinelKept (s t : State) (p : Nat) (ws : List Nat) : Prop :=
  ∀ q w, w < spWords → q ≠ p ∨ w ∉ ws → spRaw t q w = spRaw s q w ∧ spTagOf t q w = spTagOf s q w

/-- The words carry no tag and pass their code. [06_spinel_dma.md R149] -/
def CleanWords (s : State) (p : Nat) (ws : List Nat) : Prop :=
  ∀ w ∈ ws, spTagOf s p w = 0 ∧ ∀ y ∈ spDecode s p w, y.2 = .clean

/-- The bytes of words, in order. [06_spinel_dma.md R142] -/
def wordsRaw (s : State) (p : Nat) (ws : List Nat) : List Byte := ws.flatMap (spRaw s p)

/-- Word `i` of a byte list, the last word filled up with zeros. [05_beryl_vector.md R122] -/
def pieceOf (bs : List Byte) (i : Nat) : List Byte :=
  let here := (bs.drop (32 * i)).take 32
  here ++ List.replicate (32 - here.length) 0

/-- Every byte of the vaults, with its check bytes, page codes, tags and marks, is as it was. [07_vaults.md R163] -/
def VaultsKept (s t : State) : Prop :=
  t.vaultData = s.vaultData ∧ t.vaultChk = s.vaultChk ∧ t.vaultPage = s.vaultPage ∧ t.vaultTag = s.vaultTag
    ∧ t.unsealed = s.unsealed

/-- No word of Spinel of any tile has changed. [06_spinel_dma.md R142] -/
def SpinelSame (s t : State) : Prop := t.spData = s.spData ∧ t.spChk = s.spChk ∧ t.spTag = s.spTag

/-- The command `c` of tile `p` in queue `u` has executed to its end with status `ok`. [04_tile_commands.md R100] -/
def Ended (t : State) (p : Nat) (u : TUnit) (c : Cmd) (ok : Bool) : Prop :=
  ∃ y, cmdBy (tileOf t p) u c.serial = some y ∧ y.phase = .done ∧ y.ok = ok

/-- The burst `b` of command `y` has left tile `p`: accepted by a channel of the tile's own vault, or as a request message,
sent or waiting for the regulator, or as a request answered by NOEP. [06_spinel_dma.md R152; 11_fabric.md R282; 12_regulation.md R308] -/
def Issued (t : State) (p : Nat) (y : Cmd) (write : Bool) (b : OBurst) : Prop :=
  let secs := if write then burstSecs b else []
  let sent := fun (P : Msg → Prop) => ∃ m ∈ t.msgs ++ (tileOf t p).waiting,
    (m.typ = .noep ∧ ∃ z ∈ y.pend, z.id = m.txn) ∨ (m.mask = burstMask b ∧ m.sectors = secs ∧ P m)
  match b.dst with
  | .vault q ch w =>
    if q = p then ∃ u ∈ (chanOf t p ch).queue, u.write = write ∧ u.win = w ∧ u.mask = burstMask b ∧ u.secs = secs
    else sent fun m => m.typ = (if write then .wr else .rd) ∧ m.dst = .tile q ∧ m.chan = ch ∧ m.win = w
  | .cust va => sent fun m => m.typ = (if write then .vwr else .vrd) ∧ m.dst = .cust ∧ m.va = va

/-- The tags of a stored row. [08_ecc_repair.md Table 8.3] -/
def rowTags (s : State) (p c r : Nat) : List Nat :=
  (memRead s.vaultTag (chNo p c * 2 ^ 24 + r * 64) 64).map tagRead

/-- The check bytes of a stored row. [08_ecc_repair.md R190] -/
def rowChecks (s : State) (p c r : Nat) : List Nat :=
  (memRead s.vaultChk (chNo p c * 2 ^ 26 + r * 256) 256).map BitVec.toNat

/-- Every stored row of every channel but the rows `rs` of channel `c` of tile `p` holds the data, check bytes, page code,
tags and seal it held. [08_ecc_repair.md R188] -/
def RowsKept (s t : State) (p c : Nat) (rs : List Nat) : Prop :=
  ∀ q ch r, ch < 8 → r < 2 ^ 18 → q ≠ p ∨ ch ≠ c ∨ r ∉ rs →
    rowBytes t q ch r = rowBytes s q ch r ∧ rowChecks t q ch r = rowChecks s q ch r ∧ rowCode t q ch r = rowCode s q ch r
      ∧ rowTags t q ch r = rowTags s q ch r ∧ rowUnsealed t q ch r = rowUnsealed s q ch r

/-- The row behind window `w` is sealed, carries no tag and passes the light code. [08_ecc_repair.md R190; 09_jasper.md R215] -/
def CleanRow (s : State) (p c w : Nat) : Prop :=
  let v := viewRow s p c w
  v.unsealed = false ∧ (∀ x ∈ v.tags, x = 0) ∧ ∀ y ∈ lightRow v, y.2 = .clean

/-- A read of window `w` that is served whole meets a clean row, no announced parity failure and no move of the row.
[07_vaults.md R180; 08_ecc_repair.md R190, R201] -/
def PlainRead (s : State) (p c w : Nat) : Prop :=
  CleanRow s p c w ∧ (chanOf s p c).armFail = 0 ∧ moveOf s p c w = none

/-- A slot of channel `h` has issued what was picked: the burst has left its place for the DRAM, and its bank is activated.
[07_vaults.md R169, R176, R180; 08_ecc_repair.md R193, R201] -/
def PickIssued (h h' : Chan) (k : Pick) : Prop :=
  let out := fun (b : Burst) => h'.flight = h.flight ++ [b] ∧ b.issued = h.now ∧ smFind h'.lastAct (b.win % 16) = some h.now
  match k with
  | .burst b _ => h'.queue = h.queue.filter (fun y => y.id ≠ b.id)
      ∧ out { b with issued := h.now, late := false, counted := b.counted || b.late }
  | .fetch r => h'.queue = h.queue ∧ h'.recov = h.recov ∧ out { pageBurst r with issued := h.now }
  | .move j => h'.queue = h.queue ∧ h'.remapQ = h.remapQ ∧ ∃ n, out { moveBurst n j with issued := h.now }

/-- Step `n`, `x`, of code `op` is the next of the running program `j` of tile `p`, whose bank-edge unit may act.
[09_jasper.md R212, R223] -/
def JasperNext (s : State) (p : Nat) (j : JProg) (n x op : Nat) : Prop :=
  tileUp s p = true ∧ 0 < fget s HUSKY_TILE__DUTY p ∧ jasperAbsent s p = false ∧ (tileOf s p).jprog = some j
    ∧ j.locked = true ∧ j.ended.length = n ∧ j.steps[n]? = some x ∧ stOp x = op

/-- Step `n` of the program `j` has ended, and the program goes on with block registers and accumulation group as given.
[09_jasper.md R223] -/
def JasperStepped (t : State) (p : Nat) (j : JProg) (n : Nat) (blk : SMap Int) (acc : SMap Acc) : Prop :=
  (tileOf t p).jprog = some { j with ended := j.ended ++ [n], blk := blk, acc := acc }
    ∧ fget t REGION_JASPER_CTX__STEP (p / 18) (p % 18) = (n + 1) % 1024

/-- A UDP frame with `n` bytes behind its UDP header arrives whole on a port that is up, with nothing corrected.
[13_network.md R315, R317] -/
def FrameArrives (s : State) (net : NetHdr) (n : Nat) : Prop :=
  portUp s net.port = true ∧ net.fecCorr = 0 ∧ frameOk net n = true ∧ net.isUdp = true

/-- A good WCT packet of type `op` for the connection of a WCT context that has not failed arrives on a port that is up, and
the receive buffer takes it below XOFF. [13_network.md R318, R320, R321] -/
def WctArrives (s : State) (pk : WctPkt) (op : Nat) : Prop :=
  let n := pk.net.port
  let c := ctxOf s (hDctx pk.hdr)
  FrameArrives s pk.net (36 + pk.payload.length) ∧ pk.net.dport = fget s KELPIE_CTRL__WCT_PORT ∧ hOp pk.hdr = op ∧ wctGood pk = true
    ∧ hDctx pk.hdr < ctxCount ∧ ctxMatches c pk.net = true ∧ ctxRoce c = false ∧ ctxFailed c = false
    ∧ rxOccOf s (n / 8) (ctxPcp c) + (32 + pk.payload.length) ≤ fget s KELPIE_PFC_CTRL__XOFF_KIB * 1024
    ∧ xoffOn s (n / 8) (ctxPcp c) = false

/-- The state in which an arriving DATA or COLL packet is placed: it is in the receive buffer and its CE mark is noted.
[13_network.md R318, R319] -/
def rxEntered (s : State) (pk : WctPkt) : State :=
  let x := hDctx pk.hdr
  let e := rxEnter s (pk.net.port / 8) (ctxPcp (ctxOf s x)) (32 + pk.payload.length)
  if pk.net.ce then onCtx e x fun c => { c with ceSeen := true } else e

/-- What context `x` sends with a header and payload. [13_network.md R320] -/
def wctOut (s : State) (x hdr : Nat) (payload : List Byte) : NetOut :=
  .wct (wctPkt s (ctxOf s x) hdr payload)

/-- Outstanding packets of context `x` that `p` selects and no RNR holds, as they are sent again. [13_network.md R324, R325] -/
def resent (s : State) (x : Nat) (p : TxPkt → Bool) : List NetOut :=
  ((outstanding (ctxOf s x)).filter fun t => p t && !rnrHeld (ctxOf s x) t.msn).map fun t => wctOut s x t.hdr t.payload

/-- A RoCE v2 packet with a right ICRC for the connection of a RoCE context arrives on a port that is up, and the receive
buffer takes it below XOFF. [13_network.md R318, R321, R336] -/
def RoceArrives (s : State) (pk : RocePkt) : Prop :=
  let n := pk.net.port
  let c := ctxOf s pk.qpn
  FrameArrives s pk.net (16 + (if roceReth pk.opcode then 16 else 0) + pk.payload.length) ∧ pk.net.dport = 4791
    ∧ pk.icrcOk = true ∧ pk.net.ipOk = true ∧ pk.qpn < ctxCount ∧ ctxRoce c = true
    ∧ ctxMatches c pk.net = true
    ∧ rxOccOf s (n / 8) (ctxPcp c) + pk.payload.length ≤ fget s KELPIE_PFC_CTRL__XOFF_KIB * 1024
    ∧ xoffOn s (n / 8) (ctxPcp c) = false

/-- The state in which an arriving RoCE v2 packet acts: it is in the receive buffer and its CE mark has been answered.
[13_network.md R318, R338] -/
def roceEntered (s : State) (pk : RocePkt) : State :=
  roceCe (rxEnter s (pk.net.port / 8) (ctxPcp (ctxOf s pk.qpn)) pk.payload.length) pk.qpn pk.net.ce

/-- A response of RoCE context `x`. [13_network.md R336] -/
def roceOut (s : State) (x op psn syn : Nat) (payload : List Byte) : NetOut :=
  .roce ⟨ctxHdr s (ctxOf s x) 4791, true, op, bitsOf (ctxOf s x).bits 32 24, psn % 2 ^ 24, false, 0, 0, 0, syn, payload⟩

/-- Read of the next WQE of queue `q`. [13_network.md R328] -/
def wqeRead (s : State) (q : Nat) : State × HubData := hubRead s kqCls (fget s KELPIE_KQ_CFG__BASE q + kqNext s q * 64) 64

/-- The WQE that queue `q` has next. [13_network.md R328] -/
def wqeBits (s : State) (q : Nat) : Nat := leNat (wqeRead s q).2.bytes

/-- Queue `q` may look at its next WQE, which is read, usable and of type `op`. [13_network.md R328, Table 13.5] -/
def WqeReady (s : State) (q op : Nat) : Prop :=
  kqMayStart s q = true ∧ (wqeRead s q).2.cause = 0 ∧ (wqeRead s q).2.tag = 0 ∧ wqeOk (wqeBits s q) = true
    ∧ bitsOf (wqeBits s q) 0 8 = op

/-- Its fence and its triggers let the WQE start. [13_network.md R328, R329] -/
def WqeMayRun (s : State) (q : Nat) : Prop :=
  let w := wqeBits s q
  (bitOf w 11 = true → kqStarted s q = [])
    ∧ (bitOf w 10 = true → fbit s KELPIE_KQ_PTR__TRIG_FAIL q = false ∧ bitsOf w 32 16 ≤ trigLeft s q)

/-- The next WQE of queue `q` has started, its triggers are used up, and its work is to be done. [13_network.md R328] -/
def wqeStarted (s : State) (q : Nat) : State :=
  let w := wqeBits s q
  let u := (wqeRead s q).1
  addWqe (if bitOf w 10 then
    fset u KELPIE_KQ_TRIG__TRIG_USED ((fget u KELPIE_KQ_TRIG__TRIG_USED q + bitsOf w 32 16) % 2 ^ 32) q else u) q w

/-- `t` is `s` after a device start from a source that fires now, everything but registers, events and messages alike:
refused while one is pending. [14_determinism.md R353] -/
def DeviceStarts (s t : State) : Prop :=
  let c := aclkCount s + 64
  (fbit s HUB_START__PENDING = false →
    t.start = { s.start with s := some c, left := 65535 } ∧ fbit t HUB_START__PENDING = true
      ∧ fget t HUB_START__LATE_MASK = 0
      ∧ rget t HUB_START_COUNT = counterNext (rget s HUB_START_COUNT) 1 % 2 ^ 64
      ∧ ∀ g, g < 16 → (routeOf s .hub (.region g)).any (fun l => linkDown s l) = false →
          ∃ m ∈ t.msgs, m.typ = .mgmt ∧ m.src = .hub ∧ m.dst = .region g ∧ m.mg = .start c)
    ∧ (fbit s HUB_START__PENDING = true →
      t.start = s.start ∧ t.msgs = s.msgs ∧ fbit t HUB_START__DOUBLE = true
        ∧ rget t HUB_START_IGNORED_COUNT = counterNext (rget s HUB_START_IGNORED_COUNT) 1 % 2 ^ 64)

/-- The barrier has fired. [13_network.md R341] -/
def SyncFired (s t : State) (late : Bool) : Prop :=
  fbit t KELPIE_SYNC_CTRL__ARM = false ∧ rget t KELPIE_SYNC_FIRED_COUNT = counterNext (rget s KELPIE_SYNC_FIRED_COUNT) 1 % 2 ^ 64
    ∧ (late = true → fbit t KELPIE_SYNC_CTRL__LATE = true) ∧ t.kelpie = s.kelpie ∧ DeviceStarts s t

/-- Agate accepts the entry: it is not valid, or no reserved bit is set, its tile is good, its channel is in use and its page
lies below the vault's 192, or 144 behind a Jasper layer. [10_attention_kv.md R240] -/
def EntryAccepted (s : State) (e : Nat) : Prop :=
  e.testBit 0 = false ∨
    (e < 2 ^ 24 ∧ entTile e < 288 ∧ tileGood s (entTile e) = true ∧ chanOut s (entTile e) (entChan e) = false
      ∧ entPage e < (if jasperVault s (entTile e) then 144 else 192))

/-- Every entry of Agate's active (`shadow` false) or shadow bank at the indices `P` is the one it was, each bank by its role
in its state. [10_attention_kv.md R241] -/
def BankKept (s t : State) (shadow : Bool) (P : Nat → Prop) : Prop := ∀ i, P i → bankGet t shadow i = bankGet s shadow i

/-- `t` differs from `s` in Agate, in the registers at the offsets `P` and in what posting events changes alone. -/
def AgateOnly (s t : State) (P : Nat → Prop) : Prop := RegsAndEvents { s with agate := t.agate } t P

/-- Every running tile has been aborted and no tile is armed: one that ran is STOPPING with ABORTED set, any other keeps its
state. [15_fault_tolerance.md R370] -/
def TilesAborted (s t : State) : Prop :=
  ∀ p, p < 288 → fbit t TILE_COLLIE_CTRL__ARM p = false
    ∧ (tileState s p = 1 → tileState t p ≠ 1 ∧ fbit t TILE_COLLIE_STATUS__ABORTED p = true)
    ∧ (tileState s p ≠ 1 → tileState t p = tileState s p)

/-- The lowest slot of the standby set of region `g` whose tile is not fenced is `k`. [15_fault_tolerance.md R366] -/
def LowestStandby (s : State) (g k : Nat) : Prop :=
  k < 18 ∧ bitOf (fget s REGION_STANDBY__MASK g) k = true ∧ fenced s (g * 18 + k) = false
    ∧ ∀ j, j < k → bitOf (fget s REGION_STANDBY__MASK g) j = true → fenced s (g * 18 + j) = true

/-- The two tables of region `g` break a rule of R365: a bound or standby slot that is not good or is fenced, one slot bound
twice, one both bound and standby, or a standby whose vault is not trained. [15_fault_tolerance.md R365] -/
def BindingBroken (s : State) (g : Nat) : Prop :=
  let bound := fun (k : Nat) => k < 18 ∧ fbit s REGION_BIND__BOUND g k = true
  let slot := fun (k : Nat) => fget s REGION_BIND__SLOT g k
  let standby := fun (x : Nat) => x < 18 ∧ bitOf (fget s REGION_STANDBY__MASK g) x = true
  let bad := fun (x : Nat) => tileGood s (g * 18 + x) = false ∨ fenced s (g * 18 + x) = true
  (∃ k, bound k ∧ bad (slot k)) ∨ (∃ x, standby x ∧ bad x)
    ∨ (∃ j k, bound j ∧ bound k ∧ j ≠ k ∧ slot j = slot k)
    ∨ (∃ k, bound k ∧ standby (slot k))
    ∨ ∃ x, standby x ∧ fbit s TILE_VAULT_STATUS__TRAINED (g * 18 + x) = false

/-- No binding of region `g` may change now. [15_fault_tolerance.md R365] -/
def BindingHeld (s : State) (g : Nat) : Prop :=
  fget s BH_STATUS__STATE ≠ 0 ∨ ∃ k, k < 18 ∧ (tileState s (g * 18 + k) = 1 ∨ tileState s (g * 18 + k) = 2
    ∨ fbit s TILE_COLLIE_CTRL__ARM (g * 18 + k) = true)

/-- The orderly stop has begun: it is noted and counted, every running tile is aborted, no tile is armed, no start is pending
anywhere, every tile has duty 0, and a recovery is cut short, its report queued again. [16_thermal_power.md R405, R406] -/
def StopBegun (s t : State) : Prop :=
  t.husky.stopAt = some (now s) ∧ rget t HUSKY_STOP_COUNT = counterNext (rget s HUSKY_STOP_COUNT) 1 % 2 ^ 64
    ∧ TilesAborted s t ∧ fbit t HUB_START__PENDING = false ∧ t.start.s = none
    ∧ (∀ m ∈ t.msgs, ∀ c, m.mg ≠ .start c) ∧ (∀ g, g < 16 → (regionOf t g).startS = none)
    ∧ (∀ p, p < 288 → fget t HUSKY_TILE__DUTY p = 0) ∧ t.blood.recov = none
    ∧ ∀ r, s.blood.recov = some r → fget t BH_STATUS__STATE = 0
      ∧ ∃ x, t.blood.reports = x :: s.blood.reports ∧ x.region = r.rep.region ∧ x.slot = r.rep.slot

/-- Sensor `i` has the highest reading of the valid sensors that `P` selects, the lowest index of equals.
[16_thermal_power.md R388] -/
def Hottest (t : State) (P : Nat → Prop) (i : Nat) : Prop :=
  P i ∧ sensorValid t i = true ∧ ∀ j, P j → sensorValid t j = true → tempOf t j < tempOf t i ∨ (tempOf t j = tempOf t i ∧ i ≤ j)

/-- Sensor `i` meets a stop condition that sets bit `k` of STOP_CAUSE: 0 TJ_STOP, 1 rate, 2 DRAM, 3 broken.
[16_thermal_power.md Table 16.2, Table 16.6] -/
def StopSensor (t : State) (k i : Nat) : Prop :=
  let dram := 864 ≤ i ∧ i < 992
  i < 1000 ∧ sensorValid t i = true ∧ match k with
    | 0 => fbit t HUSKY_SENSOR__BROKEN i = false ∧ ¬ dram ∧ 8 * (fget t HUSKY_THRESH__TJ_STOP : Int) ≤ tempOf t i
    | 1 => (fget t HUSKY_THRESH__RATE_STOP : Int) < rateOf t i
    | 2 => fbit t HUSKY_SENSOR__BROKEN i = false ∧ dram ∧ 8 * 105 < tempOf t i
    | _ => fbit t HUSKY_SENSOR__BROKEN i = true

/-- Sensor `i` meets a throttle condition. [16_thermal_power.md Table 16.2] -/
def ThrottleSensor (t : State) (i : Nat) : Prop :=
  i < 1000 ∧ sensorValid t i = true ∧ ((fget t HUSKY_THRESH__RATE_THR : Int) < rateOf t i
    ∨ (¬ (864 ≤ i ∧ i < 992) ∧ 8 * (fget t HUSKY_THRESH__TJ_THROTTLE : Int) ≤ tempOf t i))

/-- The MSI-X message of vector `v` has been sent, its PBA bit set while it is masked, or it waits for the link.
[18_host_firmware.md R436, R440] -/
def IrqSent (s t : State) (v : Nat) : Prop :=
  (hostReady s = false → t.host.waiting = s.host.waiting ++ [.irq v] ∧ t.host.msix = s.host.msix)
    ∧ (hostReady s = true → t.host.waiting = s.host.waiting ∧
      (irqMasked s v = true → bitOf (rget t MSIX_PBA (v / 64)) (v % 64) = true ∧ t.host.msix = s.host.msix)
      ∧ (irqMasked s v = false → t.host.msix = s.host.msix ++ [(rget s MSIX_ADDR v, fget s MSIX_DATA__DATA v)]))

/-- A completion of command `c` has been posted at the CQ tail of its ring, with the PHASE of the pass, or waits for the link.
[18_host_firmware.md R436, R440, R443] -/
def CqePosted (s t : State) (c : HostCmd) (status cause result : Nat) : Prop :=
  let r := c.ring
  let e := cqeBits c.cid r status cause (fget s HOST_RING_STATE__SQ_HEAD r) result (now s)
  let tail := fget s HOST_RING_STATE__CQ_TAIL r
  (hostReady s = false → t.host.waiting = s.host.waiting ++ [.cqe r e (bitOf c.entry 9)] ∧ t.bar4 = s.bar4)
    ∧ (hostReady s = true → s.bar4.wf = true →
      memRead t.bar4 (fget s HOST_RING_CFG__CQ_BASE r * 4096 + tail * 32) 32
        = leBytes 32 (e % 2 ^ 255 + fget s HOST_RING_STATE__CQ_PHASE r * 2 ^ 255)
      ∧ fget t HOST_RING_STATE__CQ_TAIL r = (tail + 1) % 2 ^ fget s HOST_RING_CFG__CQ_LOG2 r % 2 ^ 16)

/-- Command `c` has completed: it is no longer in progress, its status is kept, and its completion is posted.
[18_host_firmware.md R442, R443, R448] -/
def CmdEnded (s t : State) (c : HostCmd) (status cause result : Nat) : Prop :=
  CqePosted s t c status cause result ∧ (∀ x ∈ t.host.cmds, x.ring ≠ c.ring ∨ x.cid ≠ c.cid)
    ∧ (∀ x ∈ s.host.cmds, x.ring ≠ c.ring ∨ x.cid ≠ c.cid → x ∈ t.host.cmds)
    ∧ t.host.finals.head? = some (c.ring, c.cid, status)

/-- Sheltie serves ring `r` next and finds an entry there whose opcode `P` selects. [18_host_firmware.md R442] -/
def Served (s : State) (r : Nat) (P : Nat → Prop) : Prop :=
  compUp s 3 = true ∧ nextRing s = some r ∧ P (entOp (headEntry s r))

/-- The entry that ring `r` has next passes its checks: no reserved bit or value, a granted feature, and no command of the ring in
progress with its CID. [18_host_firmware.md R441, R442, Table 18.7] -/
def EntryGood (s : State) (r : Nat) : Prop :=
  let e := headEntry s r
  badEntry e = false ∧ featGranted s (entOp e) = true ∧ ∀ c ∈ s.host.cmds, c.ring = r → c.cid ≠ entCid e

/-- The state in which a command that has passed its checks acts: it is in progress and its entry has been read.
[18_host_firmware.md R442] -/
def hostStarted (s : State) (r : Nat) : State :=
  let u := popEntry s r
  updStalled { u with host := { u.host with cmds := u.host.cmds ++ [newCmd r (headEntry s r)] } } r

/-- No plan is loaded. [18_host_firmware.md R444] -/
def NoPlan (t : State) : Prop := fbit t OPAL_STATUS__PLAN_VALID = false ∧ t.host.plan = []

/-- In `s` the command row `i` answers a next state, in which the command `c` has completed, all else being `base`, and `P` holds.
[18_host_firmware.md R442, R443] -/
def EndsWith (c : HostCmd) (s : State) (i : Instr) (base : State) (status cause result : Nat) (P : State → Prop) : Prop :=
  ∃ t, exec i s = .next t ∧ CmdEnded base t c status cause result ∧ P t

/-- What PLAN_LOAD does in `s` once it has passed its checks, `b` being `s` with the command in progress: refused while a tile
runs or is armed in strict mode, otherwise it fails on a read, an unreadable section table, its features or its tiles, or, with
CLR_FAULT written first, on a copy, or loads the plan. [18_host_firmware.md R444, R445] -/
def PlanLoadActs (s : State) (r : Fin 64) (b : State) : Prop :=
  let e := headEntry s r
  let c := newCmd r e
  let x := hubRead (dropPlan b) 7 (bitsOf e 64 48) (bitsOf e 128 32)
  let img := x.2.bytes
  let f := planFeatures img
  let u := putWords x.1 OPAL_PLAN_HASH (sha3_512 img)
  let hashed := fun (t : State) => ∀ w, w < 8 → rget t OPAL_PLAN_HASH w = leNat (((sha3_512 img).drop (8 * w)).take 8)
  (strictBusy s = true → EndsWith c s (.planLoad r) b 3 1 0 fun t => t.host.plan = s.host.plan)
  ∧ (strictBusy s = false → x.2.cause ≠ 0 ∨ x.2.tag ≠ 0 → EndsWith c s (.planLoad r) x.1 4 6 0 NoPlan)
  ∧ (strictBusy s = false → x.2.cause = 0 → x.2.tag = 0 →
    (planSects img = none → EndsWith c s (.planLoad r) x.1 3 3 0 fun t => NoPlan t ∧ hashed t)
    ∧ ∀ l, planSects img = some l →
      let y := sectsOk u l
      let dup := (l.map fun z => z.lt).eraseDups.length ≠ l.length
      let bad := f / 16 ≠ 0 ∨ (fbit s HUB_MODE__STRICT = true ∧ f ≠ 0)
      (bad → EndsWith c s (.planLoad r) x.1 3 4 0 fun t => NoPlan t ∧ hashed t)
      ∧ (¬ bad → dup → EndsWith c s (.planLoad r) x.1 3 5 0 fun t => NoPlan t ∧ hashed t)
      ∧ (¬ bad → ¬ dup → y.2 = false → EndsWith c s (.planLoad r) y.1 3 5 0 fun t => NoPlan t ∧ hashed t)
      ∧ (¬ bad → ¬ dup → y.2 = true →
        let lts := (List.range 288).filter fun lt => l.any fun z => z.lt = lt
        let w := planCopies img (planClear y.1 lts) (l.flatMap fun z => z.copies)
        (w.2 = false → EndsWith c s (.planLoad r) w.1 4 6 0 NoPlan)
        ∧ (w.2 = true → ∃ q, EndsWith c s (.planLoad r) q 0 0 l.length fun t => fbit t OPAL_STATUS__PLAN_VALID = true
          ∧ (∀ lt, lt ∈ t.host.plan ↔ lt < 288 ∧ ∃ z ∈ l, z.lt = lt) ∧ t.host.planFeat = f ∧ hashed t)))

/-- The status of a command that ends with `cause`: success without one, device error with one. [18_host_firmware.md Table 18.7] -/
def causeStatus (cause : Nat) : Nat := if cause = 0 then 0 else 4

/-- The access of a HOST_COPY whose host bus moves `data`, all of it where `ok`. [18_host_firmware.md R442] -/
def copyAcc (c : HostCmd) (data : List Byte) (ok : Bool) : Bar2Acc :=
  let n := bitsOf c.entry 256 32
  let va := bitsOf c.entry 128 48
  let toHost := bitOf c.entry 64
  let moved := if toHost && ok then n else min n (data.length / 32 * 32)
  ⟨moved, !toHost, if toHost then [] else data.take moved, vaPieces (moved / 2048 + 2) va moved, none, [], false, va, [],
    some ⟨c.ring, c.cid, bitsOf c.entry 192 64, if moved < n then 7 else 0⟩, false⟩

/-- What HOST_COPY does in `s` once it has passed its checks, `b` being `s` with the command in progress: it fails without the host
link; else it enters behind the accesses that wait, and is served when it is the oldest, unless it meets a lock or the hub's
regulator. What a copy of one window moves, and how it ends, is given whole. [18_host_firmware.md R436, R442] -/
def HostCopyActs (s : State) (r : Fin 64) (data : List Byte) (ok : Bool) (b : State) : Prop :=
  let c := newCmd r (headEntry s r)
  let a := copyAcc c data ok
  let va := a.va
  let bus := if a.n < bitsOf c.entry 256 32 then 7 else 0
  let w := { b with host := { b.host with bar2 := b.host.bar2 ++ [a] } }
  let i := Instr.hostCopy r data ok
  let one := b.host.bar2 = [] ∧ vaCust va = false ∧ 0 < a.n ∧ a.n ≤ 2048 - va % 2048
  let rd := copyRead w va a.n
  let wr := hubWritePiece w va a.data 0 (hostClass s)
  let cr := if rd.2.2 then 6 else bus
  (hostReady s = false → EndsWith c s i b 4 7 0 fun t => t.host.out = s.host.out ∧ VaultsKept s t)
  ∧ (hostReady s = true →
    (∀ x l, b.host.bar2 = x :: l → x.wait.isSome = true → linkDown s 16 = false → exec i s = .next w)
    ∧ (one → pieceWaits w a (va, a.n) = true → ∃ t, exec i s = .next t ∧ c ∈ t.host.cmds ∧ t.host.out = s.host.out
      ∧ (∃ y, t.host.bar2 = [y] ∧ y.pieces = a.pieces ∧ y.data = a.data ∧ copyOf c y = true) ∧ VaultsKept s t)
    ∧ (one → pieceWaits w a (va, a.n) = false →
      (a.write = false → EndsWith c s i rd.1 (causeStatus cr) cr rd.2.1.length fun t =>
        t.host.out = s.host.out ++ (if rd.2.1.isEmpty then [] else [(bitsOf c.entry 192 64, rd.2.1)]) ∧ VaultsKept rd.1 t)
      ∧ (a.write = true → wr.2 ≠ 0 → EndsWith c s i wr.1 4 6 0 fun t => t.host.out = s.host.out ∧ VaultsKept wr.1 t)
      ∧ (a.write = true → wr.2 = 0 → EndsWith c s i wr.1 (causeStatus bus) bus a.n fun t =>
        t.host.out = s.host.out ∧ VaultsKept wr.1 t))
    ∧ ∃ t, exec i s = .next t ∧ (c ∈ t.host.cmds → ∃ y ∈ t.host.bar2, copyOf c y = true))

end Sys2Proof
end

