-- ==== Sys2Proof/Certificates/Slice0/Obligations.lean ====
section
/-! DEFINITION. The statements about the model. -/

open Sys2Proof Sys2Proof.Machine

/-- A step with a command at the front of the queue is that command's meaning with the queue's rest (log 1). -/
def Obligations.StepRunsFrontCommand : Prop :=
  ∀ (s : State) (c : Instr) (rest : List Instr),
    step { s with pending := c :: rest } = exec c { s with pending := rest }

/-- An idle step counts HUB_TIME by one while the device is powered and out of reset, and serves the host accesses that wait
(R457; the tick on an empty queue and what it serves are the model's choice, logs 1 and 74). -/
def Obligations.EmptyQueueCountsDeviceTime : Prop :=
  ∀ s : State, s.pending = [] →
    (s.boot.powered = true → s.boot.resetLow = none →
      ∃ h, step s = .next (bar2Go h) ∧ (s.host.bar2 = [] → bar2Go h = h) ∧ now h = (now s + 1) % 2 ^ 64
        ∧ ∃ r k, h = { s with regs := r, kelpie := { s.kelpie with ptpLow := k } }
          ∧ ∀ off, off ≠ regOff HUB_TIME 0 0 → off ≠ regOff KELPIE_PTP_SEC 0 0 → off ≠ regOff KELPIE_PTP_NS 0 0 →
            smFind r off = smFind s.regs off)
    ∧ (s.boot.powered = false ∨ s.boot.resetLow.isSome = true → step s = .next s)

/-- Every well-formed command runs; an ill-formed one stops under its own name. Clauses that are the model's own choice rest on
logs 54, 58 and 59. -/
def Obligations.WellFormedCommandsComplete : Prop :=
  ∀ (c : Instr) (s : State),
    (c.wf = true → ∃ t, exec c s = .next t)
    ∧ (c.wf = false →
      ((∃ off, c = .counterClear off) ∨ (∃ rq off, c = .counterLowRead rq off) ∨ (∃ off h v, c = .registerWrite off h v) →
        exec c s = .fault .outsideBar0)
      ∧ (¬ ((∃ off, c = .counterClear off) ∨ (∃ rq off, c = .counterLowRead rq off) ∨ (∃ off h v, c = .registerWrite off h v)) →
        exec c s = .refused .illFormed))

/-- The state after reset, where the invariant of StepKeepsMemoriesCanonical holds (what the manual gives no value for is the model's choice: logs 2 to 6). -/
def Obligations.ResetStateHoldsResetValues : Prop :=
  (∀ x ∈ regTable, ∀ i j, regOff x.reg i j ∉ partRegs.map Prod.fst → rget State.reset x.reg i j = x.reg.reset)
  ∧ State.reset.pending = [] ∧ State.reset.msgs = []
  ∧ (∀ p, tileOf State.reset p = Tile.reset) ∧ (∀ p c, chanOf State.reset p c = Chan.reset)
  ∧ (∀ g, regionOf State.reset g = Region.reset) ∧ (∀ l, linkOf State.reset l = Link.reset)
  ∧ (∀ m ∈ [State.reset.vaultData, State.reset.vaultChk, State.reset.vaultPage, State.reset.vaultTag, State.reset.unsealed,
      State.reset.spData, State.reset.spChk, State.reset.spTag, State.reset.bar4], m = [])
  ∧ hostReady State.reset = false ∧ now State.reset = 0 ∧ MemsCanonical State.reset

/-- The canonical form of the memories and tables is an invariant of the step, and so is that what waits for power names domains
of the device. -/
def Obligations.StepKeepsMemoriesCanonical : Prop :=
  ∀ s t : State, MemsCanonical s → step s = .next t → MemsCanonical t

/-- A command's meaning leaves the queue and the fuses that are never burnt as they were. Clauses that are the model's own
choice rest on logs 1 and 50. -/
def Obligations.CommandsLeaveQueueAlone : Prop :=
  ∀ (c : Instr) (s t : State), exec c s = .next t →
    t.pending = s.pending ∧ t.fuses.vendorKeyHash = s.fuses.vendorKeyHash ∧ t.fuses.idSeed = s.fuses.idSeed
      ∧ t.fuses.serial = s.fuses.serial ∧ t.fuses.hubId = s.fuses.hubId ∧ t.fuses.mapHash = s.fuses.mapHash

/-- Writes of TAIL (R95), HEAD (R105), CLR_FAULT (R119) and ARM (R352). -/
def Obligations.TileRegisterWritesTakeEffect : Prop :=
  ∀ (s : State) (p : Fin 288) (k : Fin 16) (v : BitVec 20),
    (tileOpen s p = true →
      (∃ t, exec (.streamTailWrite p k v) s = .next t ∧ FieldWritten s t TILE_STREAM_TAIL__TAIL v.toNat p k)
      ∧ (∃ t, exec (.tileArm p) s = .next t ∧ FieldWritten s t TILE_COLLIE_CTRL__ARM 1 p 0)
      ∧ (∃ t, exec (.clrFault p) s = .next t ∧ rget t TILE_FAULT p = 0 ∧ rget t TILE_FAULT_INFO p = 0
          ∧ fget t TILE_COLLIE_STATUS__FAULTED p = 0 ∧ OtherBits s t TILE_COLLIE_STATUS__FAULTED p 0
          ∧ RegsOnly s t fun off => off = regOff TILE_FAULT p 0 ∨ off = regOff TILE_FAULT_INFO p 0
              ∨ off = regOff TILE_COLLIE_STATUS p 0)
      ∧ (tileState s p ≠ 1 → tileState s p ≠ 2 →
          ∃ t, exec (.streamHeadWrite p k v) s = .next t ∧ fget t TILE_STREAM_HEAD__HEAD p k = v.toNat
            ∧ fget t TILE_STREAM_HEAD__LOOP_ACTIVE p k = 0 ∧ fget t TILE_STREAM_HEAD__LOOP_CNT p k = 0
            ∧ (streamOf (tileOf t p) k).buf = []
            ∧ (∀ q, q ≠ p.val → tileOf t q = tileOf s q)
            ∧ ∃ r ts, t = { s with regs := r, tiles := ts }
                ∧ ∀ off, off ≠ regOff TILE_STREAM_HEAD p k → smFind r off = smFind s.regs off)
      ∧ (tileState s p = 1 ∨ tileState s p = 2 → exec (.streamHeadWrite p k v) s = .next s))
    ∧ (tileOpen s p = false → ∀ c ∈ [Instr.streamTailWrite p k v, .tileArm p, .clrFault p, .streamHeadWrite p k v],
        exec c s = .next s)

/-- RUN (R107, R119; R352 for an armed tile). Clauses that are the model's own choice rest on log 21. -/
def Obligations.TileRunStartsOnlyValidConfiguration : Prop :=
  ∀ (s : State) (p : Fin 288), tileOpen s p = true →
    (fbit s TILE_COLLIE_CTRL__ARM p = false → tileState s p = 0 ∨ tileState s p = 3 →
      (fbit s TILE_FAULT__VALID p = false → configOk s p = true →
        ∃ t, exec (.tileRun p) s = .next t ∧ tileState t p = 1 ∧ fget t TILE_COLLIE_CTRL__RUN p = 1
          ∧ fget t TILE_COLLIE_STATUS__DONE_MASK p = 0 ∧ fget t TILE_COLLIE_STATUS__BLOCK_MASK p = 0
          ∧ fget t TILE_COLLIE_STATUS__ABORTED p = 0
          ∧ (∀ k, k < 64 → slotValid s p k = true →
              slotState t p k = if fbit s TILE_SLOT_CFG__INIT_FULL p k then 2 else 0)
          ∧ (∀ k, k < 16 → fget t TILE_STREAM_HEAD__LOOP_ACTIVE p k = 0 ∧ fget t TILE_STREAM_HEAD__LOOP_CNT p k = 0
              ∧ (streamOf (tileOf t p) k).buf = []))
      ∧ (fbit s TILE_FAULT__VALID p = true → exec (.tileRun p) s = .next s)
      ∧ (fbit s TILE_FAULT__VALID p = false → configOk s p = false →
          ∃ t, exec (.tileRun p) s = .next t ∧ FieldWritten s t TILE_COLLIE_STATUS__CFG_ERR 1 p 0))
    ∧ (fbit s TILE_COLLIE_CTRL__ARM p = true ∨ tileState s p = 1 ∨ tileState s p = 2 → exec (.tileRun p) s = .next s)

/-- The stop sequence (R117) by an abort (R118). Clauses that are the model's own choice rest on logs 8 and 76. -/
def Obligations.TileStopsInOrder : Prop :=
  ∀ (s : State) (p : Fin 288),
    (tileOpen s p = true → tileState s p = 1 →
      ∃ t, exec (.tileAbort p) s = .next t ∧ tileState t p = 2 ∧ fget t TILE_COLLIE_STATUS__ABORTED p = 1
        ∧ rget t TILE_FAULT p = rget s TILE_FAULT p ∧ rget t TILE_FAULT_INFO p = rget s TILE_FAULT_INFO p
        ∧ (∀ u, ∀ c ∈ queueOf (tileOf t p) u, c.phase ≠ .queued) ∧ t.host = s.host)
    ∧ (tileOpen s p = false ∨ (tileState s p ≠ 1 ∧ justStopped s p = false) → exec (.tileAbort p) s = .next s)
    ∧ (tileOpen s p = true → justStopped s p = true →
      ∃ t, exec (.tileAbort p) s = .next t ∧ FieldWritten s t TILE_COLLIE_STATUS__ABORTED 1 p 0)
    ∧ (tileRuns s p = true → tileState s p = 2 → tileQuiet (tileOf s p) = true →
      ∃ t, exec (.tileStopped p) s = .next t ∧ fget t TILE_COLLIE_STATUS__QUIET p = 1 ∧ tileState t p = 3
        ∧ fget t TILE_COLLIE_CTRL__RUN p = 0
        ∧ EventHeld s t 0x0403 (p.val + logField s p * 2 ^ 9 + fget s TILE_FAULT__CODE p * 2 ^ 18
            + fget s TILE_COLLIE_STATUS__ABORTED p * 2 ^ 26 + fget s TILE_FAULT__MULTI p * 2 ^ 27))

/-- The ACLK of a Collie command (R98, R99, R104, R105, R111). Clauses that are the model's own choice rest on log 20. -/
def Obligations.CollieCommandsCompleteAtDispatch : Prop :=
  ∀ (s : State) (p : Fin 288) (k : Nat) (x : Fetched), tileUp s p = true → tileState s p = 1 →
    granted s p = some k → headOf s p k = some x →
    (∀ c op, (c, op) ∈ [(Instr.collieNop p, 0x00), (.tokenWait p, 0x01), (.tokenSet p, 0x02), (.collieLoop p, 0x03),
        (.collieStop p, 0x04)] →
      (dOp x.desc ≠ op → exec c s = .next s)
      ∧ (dOp x.desc = op → exec c s = exec (.dispatch p) s))
    ∧ ∃ t, exec (.dispatch p) s = .next t
      ∧ (dOp x.desc ∈ [0x00, 0x01, 0x02, 0x04] →
          fget t TILE_STREAM_HEAD__HEAD p k = (x.idx + 1) % ringSize s p k % 2 ^ 20)
      ∧ (dOp x.desc = 0x01 → dInRel x.desc = true → slotState t p (dIn x.desc) = 0)
      ∧ (dOp x.desc = 0x02 → slotState t p (dOut x.desc) = 2)
      ∧ (dOp x.desc = 0x04 → bitOf (fget t TILE_COLLIE_STATUS__DONE_MASK p) k = true)
      ∧ (dOp x.desc = 0x03 → fbit s TILE_STREAM_HEAD__LOOP_ACTIVE p k = false → bitsOf x.desc 84 16 ≠ 0 →
          fget t TILE_STREAM_HEAD__LOOP_CNT p k = bitsOf x.desc 84 16 - 1
          ∧ fget t TILE_STREAM_HEAD__HEAD p k
              = (x.idx + ringSize s p k - bitsOf x.desc 64 20) % ringSize s p k % 2 ^ 20)
      ∧ (dOp x.desc = 0x03 → fbit s TILE_STREAM_HEAD__LOOP_ACTIVE p k = true →
          (streamOf (tileOf s p) k).loopPc = x.idx → fget s TILE_STREAM_HEAD__LOOP_CNT p k = 0 →
          fget t TILE_STREAM_HEAD__LOOP_ACTIVE p k = 0
          ∧ fget t TILE_STREAM_HEAD__HEAD p k = (x.idx + 1) % ringSize s p k % 2 ^ 20)

/-- Dispatch to a unit (R97, R99), completion (R100, R111) and descriptor fetch (R96). Clauses that are the model's own choice
rest on logs 20 and 35. -/
def Obligations.UnitCommandsQueueAndComplete : Prop :=
  ∀ (s : State) (p : Fin 288), tileUp s p = true →
    (∀ (k : Nat) (x : Fetched) (u : TUnit), tileState s p = 1 → granted s p = some k → headOf s p k = some x →
      unitOf (dOp x.desc) = some u → rawSlot s p x.desc = none → (u = .jasper → jasperAbsent s p = false) →
      (∀ j, j < 16 → ∀ y code sl, viewOf s p j ≠ .bad y code sl) →
      ∃ t c, exec (.dispatch p) s = .next t ∧ (queueOf (tileOf t p) u).map Cmd.serial = (queueOf (tileOf s p) u).map Cmd.serial ++ [c.serial]
        ∧ c ∈ queueOf (tileOf t p) u ∧ c.desc = x.desc ∧ c.stream = k ∧ c.idx = x.idx ∧ c.phase = .queued)
    ∧ (∀ (u : Fin 5) (w : TUnit) (c : Cmd) (rest : List Cmd), unitNo u = w → queueOf (tileOf s p) w = c :: rest →
      c.phase = .done →
      ∃ t, exec (.commandComplete p u) s = .next t ∧ (∀ d ∈ queueOf (tileOf t p) w, d.serial ≠ c.serial)
        ∧ (dOutEn c.desc = true → slotState s p (dOut c.desc) = 1 → (dInEn c.desc = true → dIn c.desc ≠ dOut c.desc) →
            slotState t p (dOut c.desc) = if c.ok then 2 else 0)
        ∧ (dInEn c.desc = true → slotState s p (dIn c.desc) = 3 → (dOutEn c.desc = true → dIn c.desc ≠ dOut c.desc) →
            slotState t p (dIn c.desc) = if c.ok && dInRel c.desc then 0 else 2))
    ∧ (∀ k : Fin 16, (tileState s p ≠ 1 → exec (.descFetch p k) s = .next s)
      ∧ (tileState s p = 1 → streamLive s p k = true →
        (∀ f l, (streamOf (tileOf s p) k).fetch = some f → f.secs = some l → ∃ t, exec (.descFetch p k) s = .next t
          ∧ (streamOf (tileOf t p) k).fetch = none
          ∧ (streamOf (tileOf t p) k).buf = (streamOf (tileOf s p) k).buf
              ++ fetchedOf (some l) ((fetchWanted s p k).filter fun i => i / 32 = f.blk && f.want.contains i))
        ∧ (∀ i is, (streamOf (tileOf s p) k).fetch = none → fetchWanted s p k = i :: is →
          ∃ t, exec (.descFetch p k) s = .next t
            ∧ ((fetchTarget s p k (i / 32)).2 = none →
                (streamOf (tileOf t p) k).buf = (streamOf (tileOf s p) k).buf ++ fetchedOf none (i :: is))
            ∧ ∀ c off, (fetchTarget s p k (i / 32)).2 = some (c, off) →
                ∃ b, (chanOf t p c).queue = (chanOf s p c).queue ++ [b] ∧ b.share = 0 ∧ b.write = false
                  ∧ b.cls = fget s TILE_STREAM_CFG__CLASS p k ∧ b.win = off / 2048 ∧ b.mask = byteMask (off % 2048) 1024
                  ∧ (streamOf (tileOf t p) k).fetch = some ⟨b.id, i / 32, i :: is, none⟩)))

/-- FLT_TOKEN_TIMEOUT (R113) and FLT_STREAM_DEADLOCK (R115). Clauses that are the model's own choice rest on log 8. -/
def Obligations.WatchdogAndDeadlockStopTile : Prop :=
  ∀ (s : State) (p : Fin 288), tileUp s p = true → tileState s p = 1 →
    (fbit s TILE_FAULT__VALID p = false →
      (∀ (k : Fin 16) (d : WdDue), deadlockDue s p = false → (tileOf s p).wdDue.find? (fun x => x.stream = k.val) = some d →
        ∃ t, exec (.tokenTimeout p k) s = .next t ∧ rget t TILE_FAULT p = faultWord 0x07 0 ⟨k, d.idx, d.tag⟩
              + 2 * flag ((List.range 16).any fun j => j ≠ k && (timeoutDue s p j).isSome)
          ∧ rget t TILE_FAULT_INFO p = d.slot % 2 ^ 64 ∧ fget t TILE_COLLIE_STATUS__FAULTED p = 1 ∧ tileState t p = 2)
      ∧ (∀ m since, deadlockDue s p = true → cyclesOf s p = [m] → (tileOf s p).dl = [⟨m, since⟩] →
        dlLimit s p ≠ 0 → since + dlLimit s p ≤ (tileOf s p).issue →
        ∃ t, exec (.deadlockEval p) s = .next t ∧ fget t TILE_FAULT__CODE p = 0x08 ∧ rget t TILE_FAULT_INFO p = m % 2 ^ 64
          ∧ fget t TILE_COLLIE_STATUS__FAULTED p = 1 ∧ tileState t p = 2))
    ∧ (∀ (k : Fin 16) (x : Fetched) (sl : Nat) (e : Bool), viewOf s p k = .blocked x sl e → tokenLimit s p ≠ 0 →
        (streamOf (tileOf s p) k).wdIdx = some x.idx →
        tokenLimit s p ≤ (streamOf (tileOf s p) k).wd + flag (issueAclk ((tileOf s p).aclk % 64) (dutyOf s p)) →
        ∃ t, exec (.dispatch p) s = .next t
          ∧ (tileOf t p).wdDue.find? (fun y => y.stream = k.val) = some ⟨k, x.idx, dTag x.desc, sl⟩)
    ∧ (∀ k : Fin 16, (tileOf s p).wdDue.find? (fun x => x.stream = k.val) = none → exec (.tokenTimeout p k) s = .next s)
    ∧ (deadlockDue s p = true → cyclesOf s p = [] →
        exec (.deadlockEval p) s = .next (onTile s p fun t => { t with dl := [] }))
    ∧ (deadlockDue s p = false → exec (.deadlockEval p) s = .next s)

/-- Weight values (R37, R38), the bit-serial product (R47) and its indifference to skipping and gating (R48). -/
def Obligations.PlaneSumsGiveExactProduct : Prop :=
  (∀ b w : Nat, 2 ≤ b → b ≤ 8 → w < 2 ^ b →
    weightVal b false w
      = ((List.range (b - 1)).map fun i => ((w / 2 ^ i % 2 * 2 ^ i : Nat) : Int)).sum - ((w / 2 ^ (b - 1) % 2 * 2 ^ (b - 1) : Nat) : Int))
  ∧ weightVal 1 true 0 = 1 ∧ weightVal 1 true 1 = -1
  ∧ ∀ (b : Nat) (int1 : Bool) (l : List (Int × Nat)), 1 ≤ b → b ≤ 8 → (int1 = true → b = 1) → l.length ≤ 128 →
      (∀ x ∈ l, -127 ≤ x.1 ∧ x.1 ≤ 127 ∧ x.2 < 2 ^ b) →
      blockSum b int1 l = (l.map fun x => x.1 * weightVal b int1 x.2).sum
      ∧ (∀ j, j < b → (planeSum int1 j l).natAbs ≤ 16256)
      ∧ (∀ js : List Nat, js.Nodup → (∀ j ∈ js, j < b) →
          (js.foldl (fun s j => s + planeWeight b int1 j * planeSum int1 j l) 0).natAbs ≤ 4145280)
      ∧ (∀ j, int1 = false → (∀ x ∈ l, x.2 / 2 ^ j % 2 = 0) → planeSum int1 j l = 0)
      ∧ (∀ j, planeSum int1 j (l.filter fun x => x.1 ≠ 0) = planeSum int1 j l)

/-- Exactness (R52) and independence of order and division (R53) of the near and long accumulation (R49, R51). -/
def Obligations.AccumulationIsExactInAnyOrder : Prop :=
  ∀ (b : Nat) (f ex : Int) (l : List (Nat × Int × Int)), 1 ≤ b → b ≤ 8 →
    (∀ x ∈ l, x.2.1.natAbs ≤ x.1 * 127 * 2 ^ (b - 1) ∧ f ≤ x.2.2 ∧ x.2.2 ≤ f + 42) →
    (l.map Prod.fst).sum ≤ 8388608 * 2 ^ (8 - b) →
    let run := fun (m : List (Nat × Int × Int)) => accEnd f (m.foldl (fun a x => accBlock f a x.2.1 x.2.2) accStart)
    (run l).satN = false ∧ (run l).satL = false
    ∧ (run l).la = (l.map fun x => x.2.1 * ((2 ^ (x.2.2 - f).toNat : Nat) : Int)).sum
    ∧ (∀ m, m.Perm l → accRecord f ex (run m) = accRecord f ex (run l))
    ∧ (∀ m n, l = m ++ n → combineLa (accRecord f ex (run m)) (accRecord f ex (run n)) = accRecord f ex (run l))

/-- The LA80 record (R55, Table 2.4). -/
def Obligations.RecordLayoutRoundTrips : Prop :=
  (∀ r : La80, -(2 ^ 79) ≤ r.la → r.la < 2 ^ 79 → -(2 ^ 15) ≤ r.e → r.e < 2 ^ 15 →
    decodeLa (encodeLa r) = r ∧ encodeLa r < 2 ^ 100
    ∧ bitsOf (encodeLa r) 0 80 = ofInt 80 r.la ∧ bitsOf (encodeLa r) 80 16 = ofInt 16 r.e
    ∧ bitOf (encodeLa r) 96 = r.satN ∧ bitOf (encodeLa r) 97 = r.satL ∧ bitOf (encodeLa r) 98 = r.nonfin
    ∧ bitOf (encodeLa r) 99 = r.clamp)
  ∧ (∀ x, x < 2 ^ 128 → decodeLa x = decodeLa (x % 2 ^ 100) ∧ encodeLa (decodeLa x) = x % 2 ^ 100)
  ∧ ∀ (f ex : Int) (a : Acc), (accRecord f ex a).e = f + ex ∧ (accRecord f ex a).la = a.la

/-- Combination of two records (R56). -/
def Obligations.RecordsCombineByTheRule : Prop :=
  (∀ a b : La80,
    let c := combineLa a b
    let x := a.la * ((2 ^ (a.e - min a.e b.e).toNat : Nat) : Int)
    let y := b.la * ((2 ^ (b.e - min a.e b.e).toNat : Nat) : Int)
    let inside := fun v : Int => -(2 ^ 79 - 1) ≤ v ∧ v ≤ 2 ^ 79 - 1
    c.e = min a.e b.e ∧ c.satN = (a.satN || b.satN) ∧ c.nonfin = (a.nonfin || b.nonfin) ∧ c.clamp = (a.clamp || b.clamp)
    ∧ (c.satL = true ↔ a.satL = true ∨ b.satL = true ∨ ¬ (inside x ∧ inside y ∧ inside (x + y)))
    ∧ (c.satN = true ∨ c.satL = true → c.la = 2 ^ 79 - 1)
    ∧ (c.satN = false → c.satL = false → c.la = x + y)
    ∧ c = combineLa b a)
  ∧ (∀ a b c : La80,
    let l := combineLa (combineLa a b) c
    let r := combineLa a (combineLa b c)
    l.satN = false → l.satL = false → r.satN = false → r.satL = false → l = r)
  ∧ combineLa ⟨-5006, -5, false, false, false, false⟩ ⟨40, -3, false, false, false, false⟩
      = ⟨-4846, -5, false, false, false, false⟩

/-- The single conversion (R57, R59): nearest, ties to even; overflow at the midpoint above the largest finite value. -/
def Obligations.ConversionRoundsToNearestEven : Prop :=
  (∀ (f : Fmt) (neg : Bool) (m : Nat) (e : Int), m ≠ 0 →
    let r := roundMag f neg m e false
    (r.ovf = false → ∃ rm re, decodeF f r.bits = .fin neg rm re
      ∧ ∀ y yn ym ye, y < 2 * fmtSign f → decodeF f y = .fin yn ym ye →
        ∀ q : Int, q ≤ e → q ≤ re → q ≤ ye →
          (alignTo q neg rm re - alignTo q neg m e).natAbs ≤ (alignTo q yn ym ye - alignTo q neg m e).natAbs
          ∧ ((alignTo q neg rm re - alignTo q neg m e).natAbs = (alignTo q yn ym ye - alignTo q neg m e).natAbs →
              alignTo q neg rm re ≠ alignTo q yn ym ye → r.bits % 2 = 0))
    ∧ (r.ovf = true → r.bits = (if neg then fmtSign f else 0) + fmtInf f)
    ∧ (∀ q : Int, q ≤ e → q ≤ 127 - (fmtPrec f : Int) →
        (r.ovf = true ↔ ((2 ^ (fmtPrec f + 1) - 1) * 2 ^ (127 - (fmtPrec f : Int) - q).toNat : Nat) ≤ m * 2 ^ (e - q).toNat)))
  ∧ (∀ (f : Fmt) (r : La80), r.la = 0 → r.satN = false → r.satL = false → r.nonfin = false → convertLa f r = ⟨0, false⟩)
  ∧ (∀ (f : Fmt) (r : La80), r.satN = true ∨ r.satL = true ∨ r.nonfin = true → convertLa f r = ⟨fmtNaN f, false⟩)

/-- SEC-DED of the light code (R189, R190). -/
def Obligations.LightCodeCorrectsSingleDetectsDouble : Prop :=
  ∀ x : Nat, x < 2 ^ 64 →
    lightDecode x (lightCheck x) = .clean
    ∧ (∀ i, i < 64 → lightDecode (Nat.xor x (2 ^ i)) (lightCheck x) = .corrected x)
    ∧ (∀ j, j < 8 → lightDecode x (Nat.xor (lightCheck x) (2 ^ j)) = .corrected x)
    ∧ (∀ i i', i < i' → i' < 64 → lightDecode (Nat.xor (Nat.xor x (2 ^ i)) (2 ^ i')) (lightCheck x) = .bad)
    ∧ (∀ i j, i < 64 → j < 8 → lightDecode (Nat.xor x (2 ^ i)) (Nat.xor (lightCheck x) (2 ^ j)) = .bad)
    ∧ (∀ j j', j < j' → j' < 8 → lightDecode x (Nat.xor (Nat.xor (lightCheck x) (2 ^ j)) (2 ^ j')) = .bad)

/-- The page code (R191): encoding gives codewords, and decoding an intact row is the identity. -/
def Obligations.PageCodeRestoresIntactRows : Prop :=
  (∀ row : List Nat, row.length = 2048 → (∀ x ∈ row, x < 256) →
    (∀ k, k < 16 → ∀ x ∈ rsSyndromes (rsCheck (pageMsg k row) ++ (pageMsg k row).reverse), x = 0)
    ∧ (pageCode row).length = 128 ∧ pageDecode row (pageCode row) = some row)
  ∧ ∀ cw w : List Nat, rsDecode cw = some w → ∀ x ∈ rsSyndromes w, x = 0

/-- GARNET_SWAP, and LOADED = 0 at a swap or a run (R73). -/
def Obligations.GarnetSwapExchangesBanks : Prop :=
  ∀ (s : State) (p : Fin 288) (c : Cmd), tileUp s p = true →
    (tileOf s p).garnet.halted = false → firstIn (tileOf s p) .exec .queued = some c → fbit s TILE_FAULT__VALID p = false →
    (dOp c.desc = 0x11 → swapMayBegin (tileOf s p) c = true →
      let n := shadowOf (tileOf s p).garnet
      badCols n = [] →
      ∃ t, exec (.garnetSwap p) s = .next t ∧ (tileOf t p).garnet.active1 = !(tileOf s p).garnet.active1
        ∧ (n.loaded = true → (tileOf t p).garnet.set0 = (tileOf s p).garnet.set0
            ∧ (tileOf t p).garnet.set1 = (tileOf s p).garnet.set1
            ∧ ∃ d, cmdBy (tileOf t p) .exec c.serial = some d ∧ d.phase = .done ∧ d.ok = true)
        ∧ (n.loaded = false → fget t TILE_FAULT__CODE p = 0x11 ∧ fget t TILE_FAULT__UNIT p = 2
            ∧ ∃ d, cmdBy (tileOf t p) .exec c.serial = some d ∧ d.phase = .done ∧ d.ok = false))
    ∧ (dOp c.desc = 0x12 → 0 < fget s HUSKY_TILE__DUTY p → runParamOk (runP c.desc) = true → (activeOf (tileOf s p).garnet).loaded = false →
      badOperand ([((runP c.desc).act, (runP c.desc).tokens * 4), ((runP c.desc).scl, ceilDiv ((runP c.desc).tokens * 2) 32)]
        ++ (if (runP c.desc).accEnd then [((runP c.desc).dst, runOutWords (runP c.desc))] else [])) = none →
      ∃ t, exec (.garnetRun p) s = .next t ∧ fget t TILE_FAULT__CODE p = 0x11 ∧ fget t TILE_FAULT__UNIT p = 2
        ∧ (tileOf t p).garnet.acc = (tileOf s p).garnet.acc
        ∧ ∃ d, cmdBy (tileOf t p) .exec c.serial = some d ∧ d.phase = .done ∧ d.ok = false)

/-- GARNET_LOAD and GARNET_LOAD_END (R63, R66), in column-major and row-major order (R65). -/
def Obligations.GarnetLoadFillsShadowBank : Prop :=
  ∀ (s : State) (p : Fin 288), tileUp s p = true →
    (∀ c : Cmd,
      let x := loadP c.desc
      let e := spReadRun s p (walkWords x.expSrc 0 (loadExpWords x))
      let d := spReadRun e.1 p (walkWords x.src 0 (loadWords x))
      firstIn (tileOf s p) .load .queued = some c → loadMayBegin (tileOf s p) c = true → loadParamOk x = true →
      badOperand [(x.expSrc, loadExpWords x), (x.src, loadWords x)] = none →
      fbit s TILE_GARNET_CTRL__INJ_ARM p = false → e.2.stop = none → d.2.stop = none →
      ∃ t, exec (.garnetLoad p) s = .next t
        ∧ (∃ y, cmdBy (tileOf t p) .load c.serial = some y ∧ y.phase = .active)
        ∧ (∀ i k, i < x.ncols → k < 128 →
            cellOf (shadowOf (tileOf t p).garnet) (x.first + i) k % 256
                = (if x.rowMajor then (d.2.bytes.getD (128 * k + i) 0).toNat
                  else bitsOf (leNat ((d.2.bytes.drop (16 * x.prec * i)).take (16 * x.prec))) (k * x.prec) x.prec)
              ∧ cellOf (shadowOf (tileOf t p).garnet) (x.first + i) k < 512
              ∧ parityOf 9 (cellOf (shadowOf (tileOf t p).garnet) (x.first + i) k) = 0)
        ∧ activeOf (tileOf t p).garnet = activeOf (tileOf s p).garnet
        ∧ (tileOf t p).garnet.acc = (tileOf s p).garnet.acc
        ∧ ∀ q, q ≠ p.val → tileOf t q = tileOf s q)
    ∧ (∀ c : Cmd, firstIn (tileOf s p) .load .active = some c →
      ∃ t, exec (.garnetLoadEnd p) s = .next t
        ∧ (∃ y, cmdBy (tileOf t p) .load c.serial = some y ∧ y.phase = .done ∧ y.ok = true)
        ∧ (shadowOf (tileOf t p).garnet).loaded = true ∧ (shadowOf (tileOf t p).garnet).prec = (loadP c.desc).prec
        ∧ (shadowOf (tileOf t p).garnet).int1 = (loadP c.desc).int1
        ∧ (shadowOf (tileOf t p).garnet).page = (loadP c.desc).page
        ∧ (shadowOf (tileOf t p).garnet).cols = (shadowOf (tileOf s p).garnet).cols
        ∧ activeOf (tileOf t p).garnet = activeOf (tileOf s p).garnet
        ∧ ∃ ts, t = { s with tiles := ts } ∧ ∀ q, q ≠ p.val → tileOf t q = tileOf s q)

/-- GARNET_RUN (R72 to R76). -/
def Obligations.GarnetRunAccumulatesDotProducts : Prop :=
  ∀ (s : State) (p : Fin 288) (c : Cmd), tileUp s p = true → 0 < fget s HUSKY_TILE__DUTY p →
    let x := runP c.desc
    let g := (tileOf s p).garnet
    let b := activeOf g
    let f := runFloor g x
    let r := spReadRun s p (runReads x)
    let z := splitReads x r.2.bytes
    g.halted = false → firstIn (tileOf s p) .exec .queued = some c → dOp c.desc = 0x12 → runParamOk x = true →
    badOperand ([(x.act, x.tokens * 4), (x.scl, ceilDiv (x.tokens * 2) 32)]
      ++ (if x.accEnd then [(x.dst, runOutWords x)] else [])) = none →
    b.loaded = true → 1 ≤ b.prec → b.prec ≤ 8 → (b.int1 = true → b.prec = 1) → groupOk g x = true →
    (∀ i, i < x.ncols → f ≤ sext 8 (smGet b.exps i 0) ∧ sext 8 (smGet b.exps i 0) ≤ f + 42) →
    r.2.stop = none →
    ∃ t, exec (.garnetRun p) s = .next t
      ∧ (∀ k j, k < x.tokens → j < x.ncols → ∀ row sw, z.1[k]? = some row → z.2[k]? = some sw →
          smGet (tileOf t p).garnet.acc (k * 128 + j) accStart
            = runEntry f x.accStart x.accEnd (bitOf sw 8) (row.any fun a => a % 256 = 128)
                (smGet g.acc (k * 128 + j) accStart)
                (((row.map actVal).zip (colCodes b j)).map fun y => y.1 * weightVal b.prec b.int1 y.2).sum
                (sext 8 (smGet b.exps j 0)))
      ∧ (∀ k j, j < 128 → ¬ (k < x.tokens ∧ j < x.ncols) →
          smFind (tileOf t p).garnet.acc (k * 128 + j) = smFind g.acc (k * 128 + j))
      ∧ (x.accEnd = true → (tileOf t p).garnet.group = none ∧ (tileOf t p).garnet.outs.length = g.outs.length + 1)
      ∧ (x.accEnd = false → (tileOf t p).garnet.group = some ⟨x.tokens, x.ncols, f⟩
          ∧ ∃ y, cmdBy (tileOf t p) .exec c.serial = some y ∧ y.phase = .done ∧ y.ok = true)

/-- RESULT_WRITE (R75, R78). -/
def Obligations.GarnetResultsAreWrittenInOrder : Prop :=
  ∀ (s : State) (p : Fin 288) (c : Cmd) (o : RunOut) (rest : List RunOut) (row : List La80) (more : List (List La80)),
    MemsCanonical s → tileUp s p = true →
    (tileOf s p).garnet.outs = o :: rest → o.toks = row :: more → cmdBy (tileOf s p) .exec o.serial = some c →
    fbit s TILE_SPINEL_CTRL__INJ_ARM p = false →
    let x := runP c.desc
    let bs := o.carry ++ row.flatMap fun y => (resultBytes x.form y).1
    let nw := if more.isEmpty then ceilDiv bs.length 32 else bs.length / 32
    let ws := walkWords x.dst ((o.off - o.carry.length) / 32) nw
    (∀ w ∈ ws, w < spWords) →
    ∃ t, exec (.resultWrite p) s = .next t
      ∧ (∀ k w, ws[k]? = some w → spRaw t p w = pieceOf bs k ∧ spTagOf t p w = 0)
      ∧ (∀ q w, w < spWords → (q ≠ p.val ∨ w ∉ ws) → spRaw t q w = spRaw s q w ∧ spTagOf t q w = spTagOf s q w)
      ∧ (more ≠ [] → ∃ o' l, (tileOf t p).garnet.outs = o' :: l ∧ o'.serial = o.serial ∧ o'.toks = more ∧ l = rest)
      ∧ (more = [] → x.appEn = false → c.apps = [] → (tileOf t p).garnet.outs = rest
          ∧ ∃ y, cmdBy (tileOf t p) .exec c.serial = some y ∧ y.phase = .done ∧ y.ok = true)

/-- The 28 operations of Table 5.2 (R122, R127, R138). -/
def Obligations.BerylCommandsWriteTheirResults : Prop :=
  ∀ (s : State) (p : Fin 288) (c : Cmd) (i : Instr) (v : Nat) (f : BerylP → BerylIn → BerylOut),
    (i, v, f) ∈ ([(.vCopy p, 0x00, outCopy), (.vAdd p, 0x01, fun x => elem2 (fAdd (fmtOf x.fout)) x),
        (.vSub p, 0x02, fun x => elem2 (fSub (fmtOf x.fout)) x), (.vMul p, 0x03, fun x => elem2 (fMul (fmtOf x.fout)) x),
        (.vFma p, 0x04, fun x => elem3 (fFma (fmtOf x.fout)) x),
        (.vScale p, 0x05, fun x => elem1 (fun a => fFma (fmtOf x.fout) a (immF x) (auxF x)) x),
        (.vMax p, 0x06, fun x => elem2 (fun a b => fKeep (fmtOf x.fout) (fMaxV a b)) x),
        (.vMin p, 0x07, fun x => elem2 (fun a b => fKeep (fmtOf x.fout) (fMinV a b)) x),
        (.vRelu p, 0x08, fun x => elem1 (fun a => fKeep (fmtOf x.fout) (fMaxV a (.fin false 0 0))) x),
        (.vExp p, 0x10, fun x => elem1 (fun a => toOut (fmtOf x.fout) (fExp .fp32 a)) x),
        (.vLog p, 0x11, fun x => elem1 (fun a => toOut (fmtOf x.fout) (fLog .fp32 a)) x),
        (.vRecip p, 0x12, fun x => elem1 (fun a => toOut (fmtOf x.fout) (fRecip .fp32 a)) x),
        (.vRsqrt p, 0x13, fun x => elem1 (fun a => toOut (fmtOf x.fout) (fRsqrt .fp32 a)) x),
        (.vSqrt p, 0x14, fun x => elem1 (fun a => toOut (fmtOf x.fout) (fSqrt .fp32 a)) x),
        (.vSigmoid p, 0x15, fun x => elem1 (fun a => toOut (fmtOf x.fout) (fSigmoid a)) x),
        (.vSilu p, 0x16, fun x => elem1 (fun a => toOut (fmtOf x.fout) (fSilu a)) x),
        (.vTanh p, 0x17, fun x => elem1 (fun a => toOut (fmtOf x.fout) (fTanh a)) x),
        (.vGlu p, 0x18, fun x => elem2 (fun a b => toOut (fmtOf x.fout) (fGlu a b)) x),
        (.vSum p, 0x20, fun x => reduceRows (fun r => toOut (fmtOf x.fout) (reduceSum 6 false r)) x),
        (.vSumsq p, 0x21, fun x => reduceRows (fun r => toOut (fmtOf x.fout) (reduceSum 6 true r)) x),
        (.vMaxr p, 0x22, fun x => reduceRows (fun r => fKeep (fmtOf x.fout) (rowMaxR r)) x),
        (.vArgmax p, 0x23, outArgmax),
        (.vSoftmax p, 0x30, fun x => rowsOut (softmaxRow 6 (fmtOf x.fout) (auxF x)) x),
        (.vRmsnorm p, 0x31, fun x i => rowsOut (fun r => rmsnormRow 6 (fmtOf x.fout) (auxF x) r (vecElems x i 1)) x i),
        (.vLayernorm p, 0x32, fun x i =>
          rowsOut (fun r => layernormRow 6 (fmtOf x.fout) (auxF x) r (vecElems x i 1) (vecElems x i 2)) x i),
        (.vQuant p, 0x33, outQuant), (.vCombine p, 0x40, outCombine), (.vSample p, 0x50, outSample)] :
      List (Instr × Nat × (BerylP → BerylIn → BerylOut))) →
    MemsCanonical s → tileUp s p = true → 0 < fget s HUSKY_TILE__DUTY p →
    firstIn (tileOf s p) .beryl .queued = some c →
    let x := berylP c.desc
    let o := f x ⟨(berylOperands x).map fun a => wordsRaw s p (walkWords a.2.1 0 a.2.2.1), none⟩
    let ws := walkWords x.dst 0 (ceilDiv o.bytes.length 32)
    let zs := walkWords x.aux 0 (ceilDiv o.scales.length 32)
    (x.vop ≠ v → exec i s = .next s)
    ∧ (x.vop = v → berylCheck x = none → fbit s TILE_SPINEL_CTRL__INJ_ARM p = false →
      CleanWords s p (rowWords x) →
      ∃ t, exec i s = .next t ∧ Ended t p .beryl c true ∧ SpinelKept s t p (ws ++ zs)
        ∧ (∀ k, k < ws.length → walkWord x.dst k < spWords → walkWord x.dst k ∉ zs →
            spRaw t p (walkWord x.dst k) = pieceOf o.bytes k ∧ spTagOf t p (walkWord x.dst k) = 0)
        ∧ (∀ k, k < zs.length → walkWord x.aux k < spWords → spRaw t p (walkWord x.aux k) = pieceOf o.scales k)
        ∧ VaultsKept s t ∧ (∀ q, q ≠ p.val → tileOf t q = tileOf s q)
        ∧ (∀ off, off ∉ [regOff TILE_BERYL_STATUS p 0, regOff TILE_ARITH_STATUS p 0, regOff TILE_SAT_COUNT p 0,
              regOff TILE_BERYL_ELEM_COUNT p 0, regOff TILE_BERYL_NAN_COUNT p 0, regOff TILE_BERYL_SAMPLE_COUNT p 0] →
            ¬ EventReg off → smFind t.regs off = smFind s.regs off))
    ∧ (x.vop = v → fbit s TILE_FAULT__VALID p = false → ∀ e, berylCheck x = some e →
      ∃ t, exec i s = .next t ∧ rget t TILE_FAULT p = faultWord e.1 3 (cmdRef c) ∧ rget t TILE_FAULT_INFO p = e.2
        ∧ Ended t p .beryl c false ∧ SpinelSame s t ∧ VaultsKept s t ∧ ∀ q, q ≠ p.val → tileOf t q = tileOf s q)

/-- Each step rounds its exact result once, to a nearest value (R124, R128). -/
def Obligations.VectorStepsRoundTheExactResult : Prop :=
  ∀ (f : Fmt) (na nb nc : Bool) (ma mb mc : Nat) (ea eb ec : Int),
    (∀ rn rm re, (fAdd f (.fin na ma ea) (.fin nb mb eb)).v = .fin rn rm re →
      ∀ y yn ym ye, decodeF f y = .fin yn ym ye → ∀ q : Int, q ≤ re → q ≤ ye → q ≤ ea → q ≤ eb →
        (alignTo q rn rm re - (alignTo q na ma ea + alignTo q nb mb eb)).natAbs
          ≤ (alignTo q yn ym ye - (alignTo q na ma ea + alignTo q nb mb eb)).natAbs)
    ∧ (∀ rn rm re, (fMul f (.fin na ma ea) (.fin nb mb eb)).v = .fin rn rm re →
      ∀ y yn ym ye, decodeF f y = .fin yn ym ye → ∀ q : Int, q ≤ re → q ≤ ye → q ≤ ea + eb →
        (alignTo q rn rm re - alignTo q (na != nb) (ma * mb) (ea + eb)).natAbs
          ≤ (alignTo q yn ym ye - alignTo q (na != nb) (ma * mb) (ea + eb)).natAbs)
    ∧ (∀ rn rm re, (fFma f (.fin na ma ea) (.fin nb mb eb) (.fin nc mc ec)).v = .fin rn rm re →
      ∀ y yn ym ye, decodeF f y = .fin yn ym ye → ∀ q : Int, q ≤ re → q ≤ ye → q ≤ ea + eb → q ≤ ec →
        (alignTo q rn rm re - (alignTo q (na != nb) (ma * mb) (ea + eb) + alignTo q nc mc ec)).natAbs
          ≤ (alignTo q yn ym ye - (alignTo q (na != nb) (ma * mb) (ea + eb) + alignTo q nc mc ec)).natAbs)
    ∧ (ma < 2 ^ 24 → mb < 2 ^ 24 → mb ≠ 0 →
      ∀ rn rm re, (fDiv f (.fin na ma ea) (.fin nb mb eb)).v = .fin rn rm re →
      ∀ y yn ym ye, decodeF f y = .fin yn ym ye → ∀ q : Int, q ≤ re → q ≤ ye → q + eb ≤ ea →
        (alignTo q rn rm re * alignTo eb nb mb eb - alignTo (q + eb) na ma ea).natAbs
          ≤ (alignTo q yn ym ye * alignTo eb nb mb eb - alignTo (q + eb) na ma ea).natAbs)
    ∧ (ma < 2 ^ 24 →
      ∀ rn rm re, (fSqrt f (.fin false ma ea)).v = .fin rn rm re → (rn = true → rm = 0)
        ∧ ∀ y ym ye, decodeF f y = .fin false ym ye → ∀ q : Int, q ≤ re → q ≤ ye → 2 * q ≤ ea →
          (alignTo q false rm re < alignTo q false ym ye →
            4 * alignTo (2 * q) false ma ea ≤ (alignTo q false rm re + alignTo q false ym ye) ^ 2)
          ∧ (alignTo q false ym ye < alignTo q false rm re →
            (alignTo q false rm re + alignTo q false ym ye) ^ 2 ≤ 4 * alignTo (2 * q) false ma ea))
    ∧ (∀ r ∈ [fAdd f (.fin na ma ea) (.fin nb mb eb), fMul f (.fin na ma ea) (.fin nb mb eb),
        fFma f (.fin na ma ea) (.fin nb mb eb) (.fin nc mc ec)], ∀ n, r.v = .inf n → r.fl.ovf = true)

/-- MAXR and ARGMAX (R130). -/
def Obligations.RowMaximumAndItsIndex : Prop :=
  ∀ r : List FVal, r ≠ [] →
    (FVal.nan ∈ r → rowMaxR r = .nan ∧ r[argMaxR r]? = some .nan ∧ ∀ j, j < argMaxR r → r[j]? ≠ some .nan)
    ∧ (FVal.nan ∉ r →
      rowMaxR r ≠ .nan ∧ (∀ x ∈ r, fLt (rowMaxR r) x = false) ∧ (∃ x ∈ r, fLt x (rowMaxR r) = false)
      ∧ (fIsZero (rowMaxR r) = true → (fNeg (rowMaxR r) = true ↔ ∀ x ∈ r, fIsZero x = true → fNeg x = true))
      ∧ ∃ x, r[argMaxR r]? = some x ∧ (∀ y ∈ r, fLt x y = false)
          ∧ ∀ j y, j < argMaxR r → r[j]? = some y → fLt y x = true)
    ∧ ∀ (f : Fmt) (r' : List FVal), r'.Perm r → (∀ x ∈ r, ∃ b, x = decodeF f b) →
        encodeF f (rowMaxR r') = encodeF f (rowMaxR r)

/-- The walk of a command (R152, R158). -/
def Obligations.WalkFormsBurstsOfOneWindow : Prop :=
  ∀ (s : State) (p : Nat) (write : Bool) (its : List Item),
    let w := walkItems s p write none its
    (w.parts.map Part.dest).Nodup ∧ w.parts.length ≤ 16
    ∧ (∀ b ∈ w.closed, b.items ≠ [] ∧ (∀ y ∈ b.items, ∃ g, windowOf y.2.va g = (b.dst, y.1)
        ∧ (w.parts[b.part]?).map Part.dest = some (destOf g)))
    ∧ (w.ovf = false → (∀ x ∈ w.parts, x.dest ≠ .unmapped) →
        (w.closed.flatMap fun b => b.items.map Prod.snd).Perm its)

/-- The transfers of the DMA engine (R153 to R155). -/
def Obligations.TransfersIssueTheirBursts : Prop :=
  ∀ (s : State) (p : Fin 288) (c : Cmd), MemsCanonical s → tileUp s p = true → 0 < fget s HUSKY_TILE__DUTY p →
    activeDma (tileOf s p) < 4 → firstIn (tileOf s p) .dma .queued = some c →
    cmdBy (tileOf s p) .dma c.serial = some c → c.pend = [] → c.apps = [] → c.stopped = false → c.faulted = false →
    fbit s TILE_SPINEL_CTRL__INJ_ARM p = false →
    let x := strideP c.desc
    let g := gatherP c.desc
    let es := elemsList g (indicesOf g (wordsRaw s p (idxWords g)))
    let live := es.filter fun e => !isSentinel g e.2.1
    let zeros := (es.filter fun e => isSentinel g e.2.1).flatMap fun e => e.2.2
    let rd := fun (y : Nat × Nat) => (⟨y.1, y.2, [], 0⟩ : Item)
    let wr := fun (y : Nat × Nat) => (⟨y.1, y.2, spRaw s p y.2, 0⟩ : Item)
    let goes := fun (i : Instr) (write : Bool) (u : State) (zs : List Nat) (its : List Item) =>
      let w := walkItems u p write none its
      ∃ t y, exec i s = .next t ∧ cmdBy (tileOf t p) .dma c.serial = some y ∧ y.phase ≠ .queued ∧ y.desc = c.desc
        ∧ y.parts.map Part.dest = w.parts.map Part.dest ∧ y.ovf = w.ovf
        ∧ ((∀ z ∈ y.parts, z.err = 0) → ∀ b ∈ w.closed, Issued t p y write b)
        ∧ VaultsKept s t ∧ SpinelKept s t p zs ∧ ∀ z ∈ zs, spRaw t p z = List.replicate 32 0
    (∀ i op, (i, op) ∈ [(Instr.dmaRead p, 0x30), (.dmaWrite p, 0x31), (.dmaGather p, 0x32), (.dmaScatter p, 0x33)] →
      dOp c.desc ≠ op → exec i s = .next s)
    ∧ (dOp c.desc = 0x30 → spanOk x.spa (strideWords x) = true →
        goes (.dmaRead p) false s [] (((strideVas x).zip (strideWords x)).map rd))
    ∧ (dOp c.desc = 0x31 → spanOk x.spa (strideWords x) = true → CleanWords s p (strideWords x) →
        goes (.dmaWrite p) true s [] (((strideVas x).zip (strideWords x)).map wr))
    ∧ (g.fmt ≠ 3 → spanOk g.spa (elemSpan g) = true → spanOk g.idx (idxWords g) = true → CleanWords s p (idxWords g) →
        (∀ e ∈ es, elemOver g e = false) →
        (dOp c.desc = 0x32 → (∀ w ∈ idxWords g, w ∉ elemSpan g) →
          goes (.dmaGather p) false (forS zeros (fun w st => spWrite st p w (List.replicate 32 0) 0) s) zeros
            (live.flatMap fun e => ((elemVas g e.2.1).zip e.2.2).map rd))
        ∧ (dOp c.desc = 0x33 → CleanWords s p (elemSpan g) →
          goes (.dmaScatter p) true s [] (((live.flatMap fun e => elemVas g e.2.1).zip (live.flatMap fun e => e.2.2)).map wr)))

/-- DMA_MULTICAST (R156) and KV_APPEND (R157). -/
def Obligations.MulticastAndAppendBegin : Prop :=
  ∀ (s : State) (p : Fin 288) (c : Cmd), MemsCanonical s → tileUp s p = true → 0 < fget s HUSKY_TILE__DUTY p →
    activeDma (tileOf s p) < 4 → firstIn (tileOf s p) .dma .queued = some c →
    cmdBy (tileOf s p) .dma c.serial = some c → c.pend = [] → c.apps = [] → c.stopped = false → c.faulted = false →
    let x := mcastP c.desc
    let k := kvP c.desc
    let kw := walkWords k.src 0 (k.ntok * (if k.part = 3 then 8 else 4))
    let rows := (chunks 4 (kw.length + 1) kw).map fun q => ((wordsRaw s p q).map BitVec.toNat, q.map fun _ => 0)
    (dOp c.desc = 0x34 → mcastOk s p x = true → spanOk x.src (walkWords x.src 0 (x.bytes / 32)) = true →
      spanOk x.dst (walkWords x.dst 0 (x.bytes / 32)) = true → CleanWords s p (walkWords x.src 0 (x.bytes / 32)) →
      32 ≤ x.bytes → sendCause s (.region x.region) (routeMc s (.tile p) x.region) = 0 →
      ∃ t y, exec (.dmaMulticast p) s = .next t ∧ cmdBy (tileOf t p) .dma c.serial = some y ∧ y.phase = .active
        ∧ y.parts = (maskTiles x.mask).map (fun i => (⟨.receiver i, 0, false⟩ : Part))
        ∧ y.pend.length = (mcPieces x.bytes).length * (maskTiles x.mask).length
        ∧ (∀ pc ∈ mcPieces x.bytes, ∃ m ∈ t.msgs, m.typ = .spw ∧ m.src = .tile p ∧ m.dst = .region x.region ∧ m.lmask = x.mask
            ∧ m.sectors.map Sector.data = (walkWords x.src pc.1 pc.2).map (spRaw s p)
            ∧ m.dstSpa = walkWord x.dst pc.1 + spaShape x.dst * 2 ^ 14)
        ∧ SpinelSame s t ∧ VaultsKept s t)
    ∧ (dOp c.desc = 0x35 → spanOk k.src kw = true → CleanWords s p kw →
      ∃ t y a, exec (.kvAppend p) s = .next t ∧ cmdBy (tileOf t p) .dma c.serial = some y ∧ y.phase = .active ∧ y.apps = [a.id]
        ∧ (tileOf t p).appends = (tileOf s p).appends ++ [a] ∧ a.cmd = c.serial ∧ a.seq = k.seq ∧ a.layer = k.layer
        ∧ a.kvhead = k.kvhead ∧ a.part = k.part ∧ a.ntok = k.ntok ∧ a.coded = true ∧ a.res = none
        ∧ (k.part = 1 → a.krows = rows ∧ a.vrows = [])
        ∧ (k.part = 2 → a.krows = [] ∧ a.vrows = rows)
        ∧ (k.part = 3 → a.krows = rows.take k.ntok ∧ a.vrows = rows.drop k.ntok)
        ∧ SpinelSame s t ∧ VaultsKept s t)

/-- The refusals of the DMA engine (R144, R161) and PART_TIMEOUT (R158). -/
def Obligations.DmaRefusalsAndTimeouts : Prop :=
  ∀ (s : State) (p : Fin 288), tileUp s p = true →
    (∀ c : Cmd, 0 < fget s HUSKY_TILE__DUTY p → activeDma (tileOf s p) < 4 → firstIn (tileOf s p) .dma .queued = some c →
      fbit s TILE_FAULT__VALID p = false →
      let x := strideP c.desc
      let k := kvP c.desc
      let fails := fun (i : Instr) (code info : Nat) => ∃ t, exec i s = .next t ∧ Ended t p .dma c false
        ∧ rget t TILE_FAULT p = faultWord code 4 (cmdRef c) ∧ rget t TILE_FAULT_INFO p = info ∧ SpinelSame s t ∧ VaultsKept s t
      (dOp c.desc = 0x30 → spanOk x.spa (strideWords x) = false → fails (.dmaRead p) 0x40 (spaWord x.spa))
      ∧ (dOp c.desc = 0x31 → spanOk x.spa (strideWords x) = false → fails (.dmaWrite p) 0x40 (spaWord x.spa))
      ∧ (dOp c.desc = 0x35 → spanOk k.src (walkWords k.src 0 (k.ntok * (if k.part = 3 then 8 else 4))) = false →
          fails (.kvAppend p) 0x40 (spaWord k.src))
      ∧ (dOp c.desc = 0x32 → (gatherP c.desc).fmt = 3 → fails (.dmaGather p) 0x48 0x32)
      ∧ (dOp c.desc = 0x33 → (gatherP c.desc).fmt = 3 → fails (.dmaScatter p) 0x48 0x33)
      ∧ (dOp c.desc = 0x34 → mcastOk s p (mcastP c.desc) = false → fails (.dmaMulticast p) 0x48 0x34))
    ∧ (∃ t, exec (.partTimeout p) s = .next t ∧ SpinelSame s t ∧ VaultsKept s t
      ∧ ∀ c, cmdBy (tileOf s p) .dma c.serial = some c → ∀ y, cmdBy (tileOf t p) .dma c.serial = some y →
          (∀ z ∈ y.pend, latePend s p z = false)
          ∧ ∀ z ∈ c.pend, latePend s p z = true → ∀ a, c.parts[z.part]? = some a →
            (y.parts[z.part]?).map Part.err = some (if a.err = 0 then 5 else a.err))
    ∧ ((∀ c ∈ (tileOf s p).qDma, ∀ z ∈ c.pend, latePend s p z = false) →
      (∀ a ∈ (tileOf s p).appends, ∀ z ∈ a.pend, latePend s p z = false) → exec (.partTimeout p) s = .next s)

/-- The life of a program (R222, R228, R232, R233). Clauses that are the model's own choice rest on log 28. -/
def Obligations.JasperProgramsRunAndEnd : Prop :=
  ∀ (s : State) (p : Fin 288), tileUp s p = true →
    (jasperAbsent s p = false →
      (∀ c hd x y, (tileOf s p).qJasper.head? = some c → c.phase = .queued →
        let va := jasperP c.desc
        let a := ownRead s p (dClass c.desc) va.1 32
        let h := leNat hd.bytes
        let b := ownRead a.1 p (dClass c.desc) (va.1 + 32) (jSteps h * 16)
        let d := ownRead b.1 p (dClass c.desc) va.2 64
        let args := leNat y.bytes
        let o := ownPlace d.1 p (bitsOf args 64 48) true
        let steps := (chunks 16 1024 x.bytes).map leNat
        (cmdBy (tileOf a.1 p) .jasper c.serial).isSome = true → (cmdBy (tileOf d.1 p) .jasper c.serial).isSome = true →
        a.2 = some hd → b.2 = some x → d.2 = some y → hd.bad = none → x.bad = none → y.bad = none →
        va.1 % 32 = 0 → va.2 % 32 = 0 → 1 ≤ jSteps h → jSteps h ≤ 1024 →
        (bitOf h 9 && fbit d.1 HUB_MODE__STRICT) = false → headBad d.1 p h args = none → bitsOf args 64 48 % 32 = 0 →
        o.2.isSome = true → stepsBad o.1 p h args 0 steps = none →
        ∃ t, exec (.jasperStart p) s = .next t
          ∧ (tileOf t p).jprog = some ⟨c.serial, h, steps, args, false, 0, [], false, [], []⟩
          ∧ fget t REGION_JASPER_CTX__STATE (p / 18) (p % 18) = 1
          ∧ bitOf (fget t REGION_JASPER_STATUS__RUN_MASK (p / 18)) (p % 18) = true
          ∧ (∃ z, cmdBy (tileOf t p) .jasper c.serial = some z ∧ z.phase = .active) ∧ VaultsKept d.1 t ∧ SpinelSame d.1 t)
      ∧ (∀ j, (tileOf s p).jprog = some j → j.locked = false → lockBusy s p j.hdr = false →
        ∃ t, exec (.jasperLock p) s = .next t ∧ (tileOf t p).jprog = some { j with locked := true, lockAt := now s }
          ∧ fget t REGION_JASPER_CTX__STATE (p / 18) (p % 18) = 2 ∧ VaultsKept s t ∧ SpinelSame s t
          ∧ ∀ off, off ≠ regOff REGION_JASPER_CTX (p / 18) (p % 18) → smFind t.regs off = smFind s.regs off))
    ∧ (∀ j c, (tileOf s p).jprog = some j → j.locked = true → cmdBy (tileOf s p) .jasper j.serial = some c →
      (j.ended.length = j.steps.length →
        ∃ t, exec (.programEnd p) s = .next t ∧ (tileOf t p).jprog = none ∧ Ended t p .jasper c true
          ∧ rget t REGION_JASPER_CTX (p / 18) (p % 18) = 0
          ∧ bitOf (fget t REGION_JASPER_STATUS__RUN_MASK (p / 18)) (p % 18) = false
          ∧ VaultsKept s t ∧ SpinelSame s t ∧ ∀ q, q ≠ p.val → tileOf t q = tileOf s q)
      ∧ (j.lockAt + 20000 ≤ now s → j.ended.length < j.steps.length → fbit s TILE_FAULT__VALID p = false →
        ∃ t, exec (.jasperTimeout p) s = .next t ∧ (tileOf t p).jprog = none ∧ Ended t p .jasper c false
          ∧ rget t TILE_FAULT p = faultWord 0x83 5 (cmdRef c) ∧ rget t TILE_FAULT_INFO p = j.ended.length % 1024
          ∧ rget t REGION_JASPER_CTX (p / 18) (p % 18) = 0 ∧ VaultsKept s t ∧ SpinelSame s t))

/-- ROWOP (R214, R215), SEAL (R230) and POP (R217, R218). -/
def Obligations.JasperRowStepsActOnRows : Prop :=
  ∀ (s : State) (p : Fin 288) (n : Fin 1024) (j : JProg) (x : Nat), MemsCanonical s →
    let c := stCh x
    let r := fun k => rowOf s p c (stWin x k)
    (JasperNext s p j n x 1 →
      (bankOpen s p x = true → (∀ k, k ≤ funcSources (stFunc x) → r k < 2 ^ 18) →
        let word := fun k i => ((viewRow s p c (stWin x k)).words).getD i 0
        let tag := fun k i => ((viewRow s p c (stWin x k)).tags).getD i 0
        ∃ t, exec (.jRowop p n) s = .next t ∧ JasperStepped t p j n j.blk j.acc
          ∧ wordsOf 256 (rowBytes t p c (r 0))
              = (List.range 256).map (fun i => rowFunc (stFunc x) (word 1 i)
                  (if 2 ≤ funcSources (stFunc x) then word 2 i else 0) (if 3 ≤ funcSources (stFunc x) then word 3 i else 0))
          ∧ rowTags t p c (r 0)
              = (List.range 64).map (fun i => rowTag ((List.range (funcSources (stFunc x))).map fun k => tag (k + 1) i))
          ∧ rowUnsealed t p c (r 0) = true ∧ RowsKept s t p c [r 0] ∧ SpinelSame s t)
      ∧ (bankOpen s p x = false → exec (.jRowop p n) s = .next s))
    ∧ (JasperNext s p j n x 7 → fbit s TILE_ECC_CTRL__INJ_ARM p = false → (chanOf s p c).armFail = 0 →
      let rows := (stepWrites 0 x).map (rowOf s p c)
      (∀ w ∈ rows, w < 2 ^ 18) →
      ∃ t, exec (.jSeal p n) s = .next t ∧ JasperStepped t p j n j.blk j.acc
        ∧ (∀ w ∈ rows, rowBytes t p c w = rowBytes s p c w ∧ rowTags t p c w = rowTags s p c w ∧ rowUnsealed t p c w = false
            ∧ rowChecks t p c w = (wordsOf 256 (rowBytes s p c w)).map (fun a => lightCheck a)
            ∧ (rowCode t p c w).map BitVec.toNat = pageCode ((rowBytes s p c w).map BitVec.toNat))
        ∧ RowsKept s t p c rows ∧ SpinelSame s t)
    ∧ (JasperNext s p j n x 4 →
      (bankOpen s p x = true → CleanRow s p c (stWin x 0) →
        let bit := fun col k => bitOf ((rowBytes s p c (r 0)).getD (16 * col + k / 8) 0).toNat (k % 8)
        let act := fun k => actVal (smGet (tileOf s p).actLatch (c * 128 + k) 0)
        let dot := fun col => ((List.range 128).map fun k =>
          if bitOf x 38 then (if bit col k then -act k else act k) else if bit col k then act k else 0).sum
        ∃ t blk, exec (.jPop p n) s = .next t ∧ JasperStepped t p j n blk j.acc
          ∧ (∀ col, col < 128 → smGet blk (c * 128 + col) 0 = smGet j.blk (c * 128 + col) 0
              + (if bitOf x 37 then -1 else 1) * ((2 ^ bitsOf x 34 3 : Nat) : Int) * dot col)
          ∧ (∀ k, k < 1024 → k / 128 ≠ c → smGet blk k 0 = smGet j.blk k 0) ∧ VaultsKept s t ∧ SpinelSame s t)
      ∧ (bankOpen s p x = false → exec (.jPop p n) s = .next s))

/-- LOADA, LOADE, BLOCK and OUT (R220) and VEC (R225, R226). -/
def Obligations.JasperLatchAndResultSteps : Prop :=
  ∀ (s : State) (p : Fin 288) (n : Fin 1024) (j : JProg) (x : Nat), MemsCanonical s →
    let c := stCh x
    let f := sext 8 (bitsOf j.args 16 8)
    (JasperNext s p j n x 2 → PlainRead s p c (stWin x 0) →
      let bs := (ownReadWin s p c (progClass s p) (stWin x 0) (byteMask (bitsOf x 34 4 * 128) 128)).2.flatMap Sector.data
      bs.length = 128 →
      ∃ t, exec (.jLoada p n) s = .next t ∧ JasperStepped t p j n j.blk j.acc
        ∧ (∀ k, k < 128 → smGet (tileOf t p).actLatch (c * 128 + k) 0 = (bs.getD k 0).toNat)
        ∧ (∀ k, k / 128 ≠ c → smGet (tileOf t p).actLatch k 0 = smGet (tileOf s p).actLatch k 0)
        ∧ VaultsKept s t ∧ SpinelSame s t)
    ∧ (JasperNext s p j n x 3 → PlainRead s p c (stWin x 0) →
      let bs := (ownReadWin s p c (progClass s p) (stWin x 0) (2 ^ 64 - 1)).2.flatMap Sector.data
      bs.length = 2048 →
      ∃ t, exec (.jLoade p n) s = .next t ∧ JasperStepped t p j n j.blk j.acc
        ∧ (∀ k, k < 2048 → smGet (tileOf t p).expLatch (c * 2048 + k) 0 = (bs.getD k 0).toNat)
        ∧ (∀ k, k / 2048 ≠ c → smGet (tileOf t p).expLatch k 0 = smGet (tileOf s p).expLatch k 0)
        ∧ VaultsKept s t ∧ SpinelSame s t)
    ∧ (JasperNext s p j n x 5 →
      let ncols := bitsOf j.args 24 8
      let ex := fun i => sext 8 (smGet (tileOf s p).expLatch (c * 2048 + 128 * bitsOf x 8 4 + i) 0)
      ncols ≤ 128 → (∀ i, i < ncols → f ≤ ex i ∧ ex i ≤ f + 42) →
      ∃ t blk acc, exec (.jBlock p n) s = .next t ∧ JasperStepped t p j n blk acc
        ∧ (∀ i, i < ncols → ∃ b : Bool, smGet acc i accStart
            = { accBlock f (smGet j.acc i accStart) (smGet j.blk (c * 128 + i) 0) (ex i) with
                clamp := (accBlock f (smGet j.acc i accStart) (smGet j.blk (c * 128 + i) 0) (ex i)).clamp || b })
        ∧ (∀ i, ncols ≤ i → smGet acc i accStart = smGet j.acc i accStart)
        ∧ (∀ i, i < 128 → smGet blk (c * 128 + i) 0 = 0)
        ∧ (∀ k, k < 1024 → k / 128 ≠ c → smGet blk k 0 = smGet j.blk k 0) ∧ VaultsKept s t ∧ SpinelSame s t)
    ∧ (JasperNext s p j n x 6 → ∀ ch off, (ownPlace s p (bitsOf j.args 64 48) true).2 = some (ch, off) →
      let e := fun i => { accEnd f (smGet j.acc i accStart) with
        nonfin := (accEnd f (smGet j.acc i accStart)).nonfin || bitOf (bitsOf j.args 0 16) 8 }
      let bs := padSector ((List.range (bitsOf j.args 24 8)).flatMap fun i =>
        (resultBytes (bitsOf j.args 32 2) (accRecord f (sext 8 (bitsOf j.args 0 16 % 256)) (e i))).1)
      let o := off + bitsOf x 16 32
      ∃ t, exec (.jOut p n) s = .next t ∧ JasperStepped t p j n [] [] ∧ SpinelSame s t
        ∧ (bs ≠ [] → o % 2048 + bs.length ≤ 2048 → o % 32 = 0 → winLocked s p ch (o / 2048) = false →
          ∃ u, (chanOf t p ch).queue = (chanOf s p ch).queue ++ [u] ∧ u.write = true ∧ u.win = o / 2048
            ∧ u.share = 2 ∧ u.cls = progClass s p ∧ u.deadline = progDue s p
            ∧ u.secs.flatMap Sector.data = bs ∧ (u.secs.head?).map Sector.s = some (o % 2048 / 32) ∧ VaultsKept s t))
    ∧ (JasperNext s p j n x 8 → fbit s TILE_ECC_CTRL__INJ_ARM p = false → (chanOf s p c).armFail = 0 →
      let b := vecP j.args x
      let r := vecReadAll s p c (vecSources j.args x)
      let o := vecOp b.vop b ⟨r.2.1, none⟩
      let bs := padSector o.bytes ++ padSector o.scales
      let rows := (winsFor (stWin x 0) (bs.length / 32)).map (rowOf s p c)
      (∀ w ∈ (vecSources j.args x).flatMap (fun y => winsFor y.1 y.2), PlainRead s p c w) → r.2.2 = none →
      (∀ w ∈ winsFor (stWin x 0) (bs.length / 32), winLocked s p c w = true) → rows.Nodup → (∀ w ∈ rows, w < 2 ^ 18) →
      ∃ t, exec (.jVec p n) s = .next t ∧ JasperStepped t p j n j.blk j.acc ∧ SpinelSame s t ∧ RowsKept s t p c rows
        ∧ ∀ k, k < bs.length / 32 →
            ((rowBytes t p c (rowOf s p c (stWin x 0 + k / 64))).drop (k % 64 * 32)).take 32 = (bs.drop (32 * k)).take 32)

/-- The slots (R176 to R178) and refreshes (R172, R173) of a channel. Clauses that are the model's own choice rest on log 25. -/
def Obligations.VaultSlotsAndRefreshes : Prop :=
  ∀ (s : State) (p : Fin 288) (c : Fin 8), chanActive s p c = true →
    let others := fun (t : State) => (∀ q d, q * 8 + d ≠ p.val * 8 + c.val → chanOf t q d = chanOf s q d)
      ∧ VaultsKept s t ∧ SpinelSame s t
    let h := chanOf s p c
    (refreshDue s p c = true → exec (.slotBoundary p c) s = .next s
      ∧ ∃ t, exec (.refresh p c) s = .next t ∧ others t
        ∧ chanOf t p c = { h with
            now := h.now + 109
            refLast := h.refDue
            refDue := h.refDue + tREFI (bandOf s p) h.refOdd
            refOdd := decide (bandOf s p = 2) && !h.refOdd
            refRow := (h.refRow + 1) % (chanRows s p / 16) }
        ∧ rget t TILE_VAULT_REFRESH_COUNT p = counterNext (rget s TILE_VAULT_REFRESH_COUNT p) 1 % 2 ^ 64)
    ∧ (refreshDue s p c = false → exec (.refresh p c) s = .next s
      ∧ (let u := if h.slot = 0 then onChan s p c fun ch => { ch with split := splitNow s p } else s
        let sp := (chanOf u p c).split
        let next := if h.slot + 1 < sp.1 + sp.2.1 + sp.2.2 then h.slot + 1 else 0
        let o := slotShare sp h.slot
        let pick := fun x => pickShare u p c x
        let served := if (pick o).isSome then some o
          else if fbit s TILE_VAULT_CTRL__LEND p then [(o + 1) % 3, (o + 2) % 3].find? (fun x => (pick x).isSome) else none
        (∀ x k, served = some x → pick x = some k →
          ∃ t, exec (.slotBoundary p c) s = .next t ∧ others t ∧ PickIssued h (chanOf t p c) k
            ∧ (chanOf t p c).now = h.now + 8 ∧ (chanOf t p c).slot = next ∧ (chanOf t p c).split = sp
            ∧ rget t TILE_VAULT_LENT_COUNT p
              = if x = o then rget s TILE_VAULT_LENT_COUNT p else counterNext (rget s TILE_VAULT_LENT_COUNT p) 1 % 2 ^ 64)
        ∧ (served = none →
          exec (.slotBoundary p c) s = .next (onChan u p c fun ch => { ch with now := h.now + 8, slot := next }))))

/-- The outcome of a burst (R179 to R181, R190, R192). Clauses that are the model's own choice rest on logs 25 and 70. -/
def Obligations.BurstOutcomesReachTheirRequester : Prop :=
  ∀ (s : State) (p : Fin 288) (c : Fin 8), domOn s p = true → MemsCanonical s →
    ((chanOf s p c).flight = [] → exec (.burstParity p c true) s = .next s
      ∧ exec (.burstParity p c false) s = .next (onChan s p c fun h => { h with armFail := h.armFail + 1 }))
    ∧ ∀ (b : Burst) (rest : List Burst), (chanOf s p c).flight = b :: rest →
      let row := rowOf s p c b.win
      let slice := fun i => ((rowBytes s p c row).drop (i * 32)).take 32
      let own := b.req ≠ .page ∧ b.req ≠ .move
      let at_ := b.issued + resultDelay (bandOf s p) b.write
      let n := b.tries + 1
      let acts := fun (ok : Bool) (f : Chan → Chan) =>
        exec (.burstParity p c ok) s = .next (onChan s p c fun h => f { h with flight := rest })
      (own → b.write = true → row < 2 ^ 18 → fbit s TILE_ECC_CTRL__INJ_ARM p = false → b.secs ≠ [] →
        (b.secs.map Sector.s).Nodup → (∀ x ∈ b.secs, x.s < 64 ∧ x.data.length = 32) →
        ∃ t, exec (.burstParity p c true) s = .next t ∧ (chanOf t p c).flight = rest ∧ RowsKept s t p c [row]
          ∧ (b.merge = false → ∀ x ∈ b.secs,
            ((rowBytes t p c row).drop (x.s * 32)).take 32 = x.data ∧ (rowTags t p c row).getD x.s 0 = x.tag % 4)
          ∧ (b.merge = true → (∀ x ∈ b.secs, ((rowBytes t p c row).drop (x.s * 32)).take 32 = xorBytes (slice x.s) x.data
              ∧ (rowTags t p c row).getD x.s 0 = mergeTag ((rowTags s p c row).getD x.s 0) x.tag % 4)
            ∧ rowUnsealed t p c row = rowUnsealed s p c row)
          ∧ (∀ i, i < 64 → i ∉ b.secs.map Sector.s → ((rowBytes t p c row).drop (i * 32)).take 32 = slice i)
          ∧ (rowCode t p c row).map BitVec.toNat = pageCode ((rowBytes t p c row).map BitVec.toNat)
          ∧ (b.merge = false → b.secs.length = 64 → rowUnsealed t p c row = false) ∧ SpinelSame s t)
      ∧ (own → b.write = false → CleanRow s p c b.win →
        (∀ m, b.req = .remote m → (routeOf s m.dst m.src).any (fun l => linkDown s l) = false →
          ∃ t x, exec (.burstParity p c true) s = .next t ∧ t.msgs = s.msgs ++ [x] ∧ x.typ = .rdata ∧ x.dst = m.src ∧ x.txn = m.txn
            ∧ x.sectors = (maskSectors b.mask).map (fun i => ⟨i, slice i, 0⟩) ∧ (chanOf t p c).flight = rest
            ∧ VaultsKept s t ∧ SpinelSame s t)
        ∧ (∀ n y z, b.req = .dma n → cmdBy (tileOf s p) .dma n = some y → y.pend.find? (fun x => x.id = b.id) = some z →
          (∀ d ∈ z.dsts, d.1 < 64 ∧ bitOf b.mask d.1 = true ∧ d.2 < spWords) → (z.dsts.map Prod.snd).Nodup →
          fbit s TILE_SPINEL_CTRL__INJ_ARM p = false →
          ∃ t, exec (.burstParity p c true) s = .next t ∧ (∀ d ∈ z.dsts, spRaw t p d.2 = slice d.1 ∧ spTagOf t p d.2 = 0)
            ∧ SpinelKept s t p (z.dsts.map Prod.snd) ∧ VaultsKept s t ∧ (chanOf t p c).flight = rest
            ∧ ∀ y', cmdBy (tileOf t p) .dma n = some y' → ∀ x ∈ y'.pend, x.id ≠ b.id))
      ∧ (b.req = .page → acts true fun h => { h with
          recov := mapIf (fun r => r.burst.id = b.id) (fun r => { r with fetched := true }) h.recov })
      ∧ (b.req = .move → acts true fun h => { h with
          remapQ := mapIf (fun j => j.win = b.win) (fun j => { j with written := true }) h.remapQ })
      ∧ (n < fget s TILE_VAULT_CTRL__RETRY_LIMIT p →
        (own → acts false fun h => { h with queue := { b with tries := n, notBefore := at_ } :: h.queue })
        ∧ (b.req = .page → acts false fun h => { h with
            recov := mapIf (fun r => r.burst.id = b.id) (fun r => { r with burst := { r.burst with tries := n, notBefore := at_ } })
              h.recov })
        ∧ (b.req = .move → acts false fun h => { h with
            remapQ := mapIf (fun j => j.win = b.win) (fun j => { j with tries := n, notBefore := at_ }) h.remapQ }))
      ∧ (fget s TILE_VAULT_CTRL__RETRY_LIMIT p ≤ n → fbit s TILE_FAULT__VALID p = false →
        (b.write = true ∨ b.req = .page ∨ ∃ m, b.req = .remote m ∧ (routeOf s m.dst m.src).any (fun l => linkDown s l) = false) →
        ∃ t, exec (.burstParity p c false) s = .next t ∧ (chanOf t p c).flight = rest
          ∧ fget t TILE_FAULT__CODE p = 0x60 ∧ fget t TILE_FAULT__UNIT p = 7
          ∧ rget t TILE_FAULT_INFO p = (c.val + flag b.write * 2 ^ 3 + b.win * 2 ^ 8) % 2 ^ 64
          ∧ rget t TILE_VAULT_RETRY_FAIL_COUNT p = counterNext (rget s TILE_VAULT_RETRY_FAIL_COUNT p) 1 % 2 ^ 64
          ∧ (b.req = .page → ∀ r ∈ (chanOf t p c).recov, r.burst.id = b.id → r.fetched = true ∧ r.lost = true)
          ∧ (b.req = .move → ∀ j ∈ (chanOf t p c).remapQ, j.win ≠ b.win)
          ∧ (b.write = false → own → ∃ x ∈ t.msgs, x.typ = .rdata ∧ x.sectors.map Sector.s = maskSectors b.mask ∧ ∀ y ∈ x.sectors, y.tag = 1)
          ∧ VaultsKept s t ∧ SpinelSame s t)

/-- Recovery (R193), remap (R201), scrubbing (R198) and the error period (R209). Clauses that are the model's own choice rest on
logs 25 and 70. -/
def Obligations.RowsAreRecoveredMovedAndScrubbed : Prop :=
  ∀ (s : State) (p : Fin 288) (c : Fin 8), domOn s p = true → MemsCanonical s →
    let period := fget s TILE_ECC_CTRL__SCRUB_PERIOD p * 1000000000
    exec (.eccStormPeriod p) s = .next (if (tileOf s p).xFrom / period < now s / period
      then onTile s p fun t => { t with xRows := [], xFrom := now s } else s)
    ∧ (∀ r rest, (chanOf s p c).recov = r :: rest →
      (r.fetched = false → exec (.rowRecovery p c) s = .next s)
      ∧ (r.fetched = true →
        let v := viewRow s p c r.burst.win
        let f := if r.lost then unrestored v else fixRow v (rowCode s p c (rowOf s p c r.burst.win))
        ∃ t, exec (.rowRecovery p c) s = .next t ∧ (chanOf t p c).recov = rest ∧ VaultsKept s t
          ∧ (r.delivered = true → SpinelSame s t)
          ∧ ∀ m, r.delivered = false → r.burst.req = .remote m →
              (routeOf s m.dst m.src).any (fun l => linkDown s l) = false →
              ∃ x ∈ t.msgs, x.typ = .rdata ∧ x.dst = m.src ∧ x.txn = m.txn ∧ x.sectors = pickSectors f.words f.tags r.burst.mask))
    ∧ (∀ j k, (chanOf s p c).remapQ.find? (fun x => x.written) = some j → freeSpare s p c (j.win % 16) 56 64 = some k →
      fbit s TILE_ECC_CTRL__INJ_ARM p = false →
      let spare := 196608 + j.win % 16 * 64 + k
      ∃ t, exec (.rowRemapped p c) s = .next t ∧ rowOf t p c j.win = spare
        ∧ bitOf (smGet (chanOf t p c).spareUsed (j.win % 16) 0) k = true
        ∧ (∀ x ∈ (chanOf t p c).remapQ, x.win ≠ j.win)
        ∧ rowBytes t p c spare = (movedRow s p c j).flatMap Sector.data ∧ RowsKept s t p c [spare] ∧ SpinelSame s t)
    ∧ (scrubDue s p c = true →
      let w := (chanOf s p c).scrubWin
      ∃ t, exec (.scrub p c) s = .next t
        ∧ (chanOf t p c).scrubWin = (if w + 1 < chanRows s p then w + 1 else 0)
        ∧ (chanOf t p c).scrubAt = now s
        ∧ (rowOf s p c w < 2 ^ 18 → RowsKept s t p c [rowOf s p c w]) ∧ SpinelSame s t
        ∧ (rowUnsealed s p c (rowOf s p c w) = true ∨ (CleanRow s p c w
            ∧ (rowCode s p c (rowOf s p c w)).map BitVec.toNat = pageCode ((rowBytes s p c (rowOf s p c w)).map BitVec.toNat)) →
          VaultsKept s t))
    ∧ (scrubDue s p c = false → scrubTurn s p c = false ∨ winLocked s p c (chanOf s p c).scrubWin = false →
      exec (.scrub p c) s = .next s)

/-- BAND_DOWN (R171) and FIELD_LOG_APPEND (R206). -/
def Obligations.BandsFallAndDefectsAreLogged : Prop :=
  (∀ (s : State) (g : Fin 16),
    let left := fun (h : Option Nat) => match h with
      | some a => decide (a + 100000000 ≤ now s)
      | none => false
    let r := regionOf s g
    let in1 := r.in1 && !left r.hold1
    let in2 := r.in2 && !left r.hold2
    let band := if in2 then 2 else if in1 then 1 else 0
    ∃ t, exec (.bandDown g) s = .next t ∧ fget t REGION_DRAM_BAND__BAND g = band
      ∧ fget t REGION_DRAM_BAND__DOWN_PENDING g = flag ((in2 && r.hold2.isSome) || (!in2 && in1 && r.hold1.isSome))
      ∧ regionOf t g = { r with in1 := in1, in2 := in2 }
      ∧ (fget s REGION_DRAM_BAND__BAND g ≠ band → ∀ k, k < 18 → bandOf t (g * 18 + k) = band)
      ∧ (fget s REGION_DRAM_BAND__BAND g = band → t.chans = s.chans)
      ∧ (∀ off, off ≠ regOff REGION_DRAM_BAND g 0 → (∀ k, k < 18 → off ≠ regOff TILE_VAULT_STATUS (g * 18 + k) 0) →
          smFind t.regs off = smFind s.regs off)
      ∧ VaultsKept s t ∧ SpinelSame s t)
  ∧ ∀ s : State, (s.blood.logQ = [] ∨ compUp s 2 = false → exec .fieldLogAppend s = .next s)
    ∧ ∀ r rest, s.blood.logQ = r :: rest → compUp s 2 = true →
      (s.flash.fieldLog.length < 8192 → exec .fieldLogAppend s = .next { s with
          blood := { s.blood with logQ := rest }
          flash := { s.flash with fieldLog := s.flash.fieldLog ++ [r] } })
      ∧ (8192 ≤ s.flash.fieldLog.length → ∃ t, exec .fieldLogAppend s = .next t ∧ t.blood.logQ = rest ∧ t.flash = s.flash
          ∧ t.blood.logFullPosted = true
          ∧ (s.blood.logFullPosted = true → t = { s with blood := { s.blood with logQ := rest } })
          ∧ (s.blood.logFullPosted = false → EventHeld s t evtFieldLogFull 0))

/-- Requests at a vault and responses at a tile (R274, R282, R291). Clauses that are the model's own choice rest on logs 24 and
32. -/
def Obligations.MessagesAreServedOnArrival : Prop :=
  ∀ (s : State) (n : Nat), MemsCanonical s →
    let rest := s.msgs.filter fun x => x.id ≠ n
    (∀ i ty, (i, ty) ∈ [(Instr.msgRd n, MsgType.rd), (.msgWr n, .wr), (.msgRdata n false 0, .rdata), (.msgWack n, .wack),
        (.msgNoep n, .noep), (.msgSpw n, .spw), (.msgVrd n, .vrd), (.msgVwr n, .vwr), (.msgMgmt n, .mgmt)] →
      arrived s n ty = none → exec i s = .next s)
    ∧ (∀ i ty m q, (i, ty) ∈ [(Instr.msgRd n, MsgType.rd), (.msgWr n, .wr)] → arrived s n ty = some m → m.dst = .tile q →
      (vaultCause s q m.chan = 0 →
        ∃ t u, exec i s = .next t ∧ (chanOf t q m.chan).queue = (chanOf s q m.chan).queue ++ [u]
          ∧ u.write = decide (ty = .wr) ∧ u.share = 2 ∧ u.cls = m.cls ∧ u.win = m.win ∧ u.mask = m.mask ∧ u.deadline = m.deadline
          ∧ (ty = .rd → u.req = .remote m ∧ t.msgs = rest)
          ∧ (ty = .wr → u.secs = m.sectors ∧ ((routeOf s m.dst m.src).any (fun l => linkDown s l) = false →
              ∃ x, t.msgs = rest ++ [x] ∧ x.typ = .wack ∧ x.dst = m.src ∧ x.txn = m.txn))
          ∧ VaultsKept s t ∧ SpinelSame s t)
      ∧ (vaultCause s q m.chan ≠ 0 → (routeOf s (refuser s m.dst) m.src).any (fun l => linkDown s l) = false →
        ∃ t x, exec i s = .next t ∧ t.msgs = rest ++ [x] ∧ x.typ = .noep ∧ x.dst = m.src ∧ x.txn = m.txn
          ∧ x.cause = vaultCause s q m.chan ∧ t.chans = s.chans ∧ VaultsKept s t ∧ SpinelSame s t))
    ∧ (∀ m p y z, m.dst = .tile p → tileUp s p = true → cmdBy (tileOf s p) .dma y.serial = some y →
      y.pend.find? (fun x => x.id = m.txn) = some z → pendCmd (tileOf s p) m.txn = some (y.serial, z.part) →
      let gone := fun (t : State) => ∀ w, cmdBy (tileOf t p) .dma y.serial = some w → ∀ x ∈ w.pend, x.id ≠ m.txn
      (arrived s n .rdata = some m →
        (∀ bad, ∃ t, exec (.msgRdata n true bad) s = .next t ∧ t.msgs = rest ∧ tileOf t p = tileOf s p ∧ VaultsKept s t
          ∧ SpinelSame s t)
        ∧ (∀ bad : BitVec 64, (z.dsts.map Prod.snd).Nodup → (∀ d ∈ z.dsts, d.2 < spWords) →
          fbit s TILE_SPINEL_CTRL__INJ_ARM p = false →
          ∃ t, exec (.msgRdata n false bad) s = .next t ∧ gone t ∧ SpinelKept s t p (z.dsts.map Prod.snd) ∧ VaultsKept s t
            ∧ ∀ d ∈ z.dsts, ∀ x, m.sectors.find? (fun x => x.s = d.1) = some x → x.data.length = 32 →
                spRaw t p d.2 = x.data ∧ spTagOf t p d.2 = if bitOf bad.toNat x.s then 1 else x.tag % 4))
      ∧ (arrived s n .wack = some m → ∃ t, exec (.msgWack n) s = .next t ∧ gone t ∧ VaultsKept s t ∧ SpinelSame s t)
      ∧ (arrived s n .noep = some m → m.subs ≠ [] → (∀ u ∈ m.subs, ∃ k, pendCmd (tileOf s p) u.2 = some (y.serial, k)) →
        ∃ t, exec (.msgNoep n) s = .next t ∧ VaultsKept s t ∧ SpinelSame s t
          ∧ ∀ w, cmdBy (tileOf t p) .dma y.serial = some w → ∀ x ∈ w.pend, ∀ u ∈ m.subs, x.id ≠ u.2)
      ∧ (arrived s n .noep = some m → m.subs = [] → ∃ t, exec (.msgNoep n) s = .next t ∧ gone t ∧ VaultsKept s t ∧ SpinelSame s t
          ∧ ∀ w, cmdBy (tileOf t p) .dma y.serial = some w → ∀ a, w.parts[z.part]? = some a → a.err ≠ 0))

/-- Spinel writes (R285), held writes (R110) and stalled receivers (R286). Clauses that are the model's own choice rest on log
32. -/
def Obligations.SpinelWritesFillSlots : Prop :=
  ∀ (s : State) (m : Msg), MemsCanonical s → arrived s m.id .spw = some m →
    (∀ g, m.dst = .region g → m.id < s.nextId → ∃ t, exec (.msgSpw m.id) s = .next t ∧ VaultsKept s t ∧ SpinelSame s t
      ∧ ∀ y ∈ (maskTiles m.lmask).zipIdx,
        (∀ q, physOf s (g * 18 + y.1) = some q → q / 18 = g → tileOpen s q = true →
          let r := mcRoot m.src g
          (q % 18 = r → (tileOf s q).pruned.contains m.win = false) →
          ∃ x ∈ t.msgs, x.typ = .spw ∧ x.phys = true ∧ x.src = m.src ∧ x.wire = m.wire ∧ (q % 18, m.txn + y.2) ∈ x.subs
            ∧ x.sectors = m.sectors ∧ x.dstSpa = m.dstSpa ∧ x.dstSlot = m.dstSlot ∧ x.last = m.last ∧ x.held = m.held
            ∧ x.route = [onyxOut g r (mcPort r (q % 18))] ∧ (q % 18 = r → x.dst = .tile q))
        ∧ ((∀ q, physOf s (g * 18 + y.1) = some q → tileOpen s q = false) →
          (routeOf s m.dst m.src).any (fun l => linkDown s l) = false →
          ∃ x ∈ t.msgs, x.typ = .noep ∧ x.dst = m.src ∧ x.txn = m.txn + y.2 ∧ x.cause = 3))
    ∧ ∀ q : Fin 288, m.dst = .tile q → tileOpen s q = true →
      let ws := (List.range m.sectors.length).map (walkWord m.dstSpa)
      let takes := fun (x : Msg) => match x.dstSlot with
        | some k => slotTakes s q k x
        | none => true
      (∀ i, i = .msgSpw m.id ∨ (i = .heldWriteRelease q ∧ (heldWrites s q).find? takes = some m) →
        takes m = true → stopHolds s q m = false → (∀ k, m.dstSlot = some k → slotExternal s q k = true) → ws.Nodup →
        (∀ x ∈ m.sectors, x.data.length = 32) → fbit s TILE_SPINEL_CTRL__INJ_ARM q = false →
        ∃ t, exec i s = .next t ∧ SpinelKept s t q ws ∧ VaultsKept s t
          ∧ (∀ j x, m.sectors[j]? = some x → walkWord m.dstSpa j < spWords →
              spRaw t q (walkWord m.dstSpa j) = x.data ∧ spTagOf t q (walkWord m.dstSpa j) = x.tag % 4)
          ∧ (∀ k, m.dstSlot = some k → slotState t q k = if m.last then 2 else 1)
          ∧ ((routeOf s m.dst m.src).any (fun l => linkDown s l) = false →
              ∃ x ∈ t.msgs, x.typ = .wack ∧ x.dst = m.src ∧ x.txn = m.txn)
          ∧ ∀ x ∈ t.msgs, x.id = m.id → x.typ = .wack)
      ∧ (stopHolds s q m = true → takes m = true → (∀ k, m.dstSlot = some k → slotExternal s q k = true) →
        exec (.msgSpw m.id) s = .next s)
      ∧ (∀ k, m.dstSlot = some k → slotExternal s q k = true → slotTakes s q k m = false → m.waitSince = none →
        exec (.msgSpw m.id) s = .next (noteStall (onMsg s m.id fun x => { x with waitSince := some (now s) }) q))
      ∧ ((heldWrites s q).find? takes = none → exec (.heldWriteRelease q) s = .next s)
      ∧ (∀ m, stallDue s q = true → stallVictim s q = some m → fbit s TILE_FAULT__VALID q = false →
        ∃ t, exec (.mcStall q) s = .next t ∧ fget t TILE_FAULT__CODE q = 0x4D ∧ fget t TILE_FAULT__UNIT q = 4
          ∧ rget t TILE_FAULT_INFO q = senderTile s m % 2 ^ 64
          ∧ ((stalledMsgs s q m).any (fun x => x.last) = false → m.win ∈ (tileOf t q).pruned)
          ∧ ((routeOf s (.region (q / 18)) m.src).any (fun l => linkDown s l) = false → (∀ x ∈ stalledMsgs s q m, x.id < s.nextId) →
              ∃ x ∈ t.msgs, x.typ = .noep ∧ x.dst = m.src ∧ x.txn = m.txn ∧ x.cause = 3)
          ∧ VaultsKept s t ∧ SpinelSame s t)
      ∧ (stallDue s q = false ∨ stallVictim s q = none → exec (.mcStall q) s = .next s)

/-- The requests of endpoint 16 (R295) and management messages (R242, R246, R353, R375). -/
def Obligations.CustomerAndManagementMessages : Prop :=
  ∀ (s : State) (n : Nat) (m : Msg),
    let rest := s.msgs.filter fun x => x.id ≠ n
    (∀ i ty, (i, ty) ∈ [(Instr.msgVrd n, MsgType.vrd), (.msgVwr n, .vwr)] → arrived s n ty = some m → m.dst = .hub →
      (custAllowed s m.va = false → (routeOf s m.dst m.src).any (fun l => linkDown s l) = false →
        ∃ t x, exec i s = .next t ∧ t.msgs = rest ++ [x] ∧ x.typ = .noep ∧ x.cause = 6 ∧ x.dst = m.src ∧ x.txn = m.txn
          ∧ t.chans = s.chans ∧ t.tiles = s.tiles ∧ VaultsKept s t ∧ SpinelSame s t)
      ∧ (custAllowed s m.va = true → ∀ q c off, (hubTranslate s m.va (decide (ty = .vwr))).2 = .vault q c off →
        sendCause s (.tile q) (routeOf s .hub (.tile q)) = 0 →
        ∃ t x, exec i s = .next t ∧ t.msgs = rest ++ [x] ∧ x.typ = (if ty = .vwr then .wr else .rd) ∧ x.src = .cust
          ∧ x.dst = .tile q ∧ x.chan = c ∧ x.win = off / 2048 ∧ x.mask = m.mask ∧ x.sectors = m.sectors ∧ x.txn = m.txn
          ∧ x.cls = m.cls ∧ x.held = m.held ∧ x.route = routeOf s .hub (.tile q) ∧ t.chans = s.chans ∧ t.tiles = s.tiles ∧ VaultsKept s t ∧ SpinelSame s t))
    ∧ (arrived s n .mgmt = some m →
      (∀ g, m.dst = .region g →
        let acked := fun (t : State) (a : Mgmt) => (routeOf s (.region g) .hub).any (fun l => linkDown s l) = false →
          ∃ x, t.msgs = rest ++ [x] ∧ x.typ = .mgmt ∧ x.src = .region g ∧ x.dst = .hub ∧ x.mg = a
        (∀ i, m.mg = .invalidate i → ∃ t, exec (.msgMgmt n) s = .next t
          ∧ regionOf t g = { regionOf s g with cache := (regionOf s g).cache.filter fun x => x.idx ≠ i }
          ∧ acked t .invAck ∧ t.regs = s.regs ∧ t.tiles = s.tiles ∧ VaultsKept s t ∧ SpinelSame s t)
        ∧ (∀ v, m.mg = .gen v → ∃ t, exec (.msgMgmt n) s = .next t ∧ regionOf t g = { regionOf s g with gen := v }
          ∧ acked t .genAck ∧ t.regs = s.regs ∧ t.tiles = s.tiles ∧ VaultsKept s t ∧ SpinelSame s t)
        ∧ (∀ c, m.mg = .start c → ∃ t, exec (.msgMgmt n) s = .next t
          ∧ regionOf t g = { regionOf s g with startS := some (c, aclkCount s) } ∧ t.msgs = rest ∧ t.regs = s.regs
          ∧ t.tiles = s.tiles ∧ VaultsKept s t ∧ SpinelSame s t))
      ∧ (m.dst = .hub → ∀ g, m.src = .region g →
        (m.mg = .invAck → exec (.msgMgmt n) s = .next { takeMsg s m with
          agate := { s.agate with updWait := setBits s.agate.updWait g 1 0 } })
        ∧ (m.mg = .genAck → exec (.msgMgmt n) s = .next { takeMsg s m with
          agate := { s.agate with genWait := setBits s.agate.genWait g 1 0 } })
        ∧ (∀ slot code cls, m.mg = .report slot code cls → fbit s BH_CTRL__RECOVER_EN = true →
          (∀ r, s.blood.recov = some r → r.standby ≠ some (g * 18 + slot)) → s.blood.reports.length < 16 →
          ∃ t, exec (.msgMgmt n) s = .next t ∧ t.blood.reports = s.blood.reports ++ [⟨g, slot, code, none⟩]
            ∧ fget t BH_STATUS__QUEUED = s.blood.reports.length + 1 ∧ t.msgs = rest ∧ t.tiles = s.tiles)))

/-- The link layer (R273 to R281). Clauses that are the model's own choice rest on log 31. -/
def Obligations.LinksDeliverInOrderAndRetry : Prop :=
  ∀ (s : State) (l : Fin 1794), fbit s HUB_CNT_CTRL__SAT_EVT_EN = false →
    let k := linkOf s l
    let limit := retryLimit s l
    (∀ x, linkUp s l = false → exec (.flitReceive l x) s = .next s)
    ∧ (∀ x : BitVec 512, linkUp s l = true → l.val ≠ 16 → l.val ≠ 17 →
      let r := sendFlit (tickSpan s l) l
      let y := Nat.xor r.2.1 x.toNat
      ∃ t, exec (.flitReceive l x) s = .next t
        ∧ (x = 0 → crcOk y = true)
        ∧ (∀ a, k.nakSeen = false → k.replay[k.cursor]? = none → nextNew (tickSpan s l) l = some a →
          ∃ f, r.2.2 = some f ∧ f.seq = k.nextSeq ∧ f.msg = a.m.id ∧ f.bits = flitBits a.m a.k
            ∧ (linkOf t l).replay = k.replay ++ [f] ∧ (linkOf t l).nextSeq = (k.nextSeq + 1) % 4096)
        ∧ (∀ f, r.2.2 = some f →
          (crcOk y = true → bitsOf y 38 12 = k.expect → smGet (linkOf r.1 l).used f.vc 0 < bufSize l f.vc →
            (linkOf t l).expect = (k.expect + 1) % 4096 ∧ (linkOf t l).accepted = true
            ∧ ∀ m, r.1.msgs.find? (fun m => m.id = f.msg) = some m →
                let g := onyxRegion l
                let n := landSlot l
                (f.eom = false → t.msgs.find? (fun m => m.id = f.msg) = some { m with got := m.got + 1 })
                ∧ (f.eom = true → m.phys = false ∨ m.route.drop 1 ≠ [] → ∃ z, t.msgs.find? (fun m => m.id = f.msg) = some z
                  ∧ z.route = m.route.drop 1 ∧ z.held = some l.val ∧ z.sent = 0)
                ∧ (f.eom = true → m.phys = true → m.route.drop 1 = [] → m.dst = .region g → ∀ u ∈ m.subs,
                  (u.1 = n → (tileOf r.1 (g * 18 + n)).pruned.contains m.win = false) →
                  ∃ x ∈ t.msgs, x.src = m.src ∧ x.sectors = m.sectors ∧ u ∈ x.subs ∧ x.held = some l.val
                    ∧ x.route = [onyxOut g n (mcPort n u.1)]))
          ∧ (crcOk y = false ∨ bitsOf y 38 12 ≠ k.expect ∨ bufSize l f.vc ≤ smGet (linkOf r.1 l).used f.vc 0 →
            (linkOf t l).expect = k.expect ∧ t.msgs = r.1.msgs
            ∧ ((linkOf r.1 l).accepted = true → (linkOf r.1 l).nakSent = false → (linkOf t l).nakDue = true)))
        ∧ VaultsKept s t ∧ SpinelSame s t)
    ∧ (∀ i, (i = .linkReplay l ∧ k.nakSeen = true)
        ∨ (i = .retryTimeout l ∧ k.replay ≠ [] ∧ 2 * k.ackAt + retryTimeout s l ≤ 2 * now s) → linkUp s l = true →
      (k.replays < limit → ∃ t, exec i s = .next t
        ∧ linkOf t l = { k with cursor := 0, nakSeen := false, replays := k.replays + 1, ackAt := now s }
        ∧ t.msgs = s.msgs ∧ t.tiles = s.tiles)
      ∧ (limit ≤ k.replays → ∃ t, exec i s = .next t ∧ retraining t l = true ∧ (linkOf t l).replay = k.replay ∧ t.msgs = s.msgs
        ∧ (l.val < 18 → EventHeld s t evtFabricRetrain (l.val / 2))))
    ∧ (linkUp s l = true → k.nakSeen = false → exec (.linkReplay l) s = .next s)
    ∧ (∀ ok rate, retraining s l = false → exec (.linkRetrain l ok rate) s = .next s)
    ∧ (∀ rate, retraining s l = true →
      (∃ t, exec (.linkRetrain l true rate) s = .next t ∧ retraining t l = false
        ∧ linkOf t l = { k with cursor := 0, nakSeen := false, replays := 0, retrain := false, ackAt := now s } ∧ t.msgs = s.msgs
        ∧ t.tiles = s.tiles)
      ∧ ∃ t, exec (.linkRetrain l false rate) s = .next t ∧ linkDown t l = true ∧ retraining t l = false
        ∧ linkDown t (revLink l) = true
        ∧ (l.val < 18 → linkOf t l = Link.reset ∧ linkOf t (revLink l) = Link.reset ∧ t.tiles = s.tiles ∧ EventHeld s t evtFabricLinkDown (l.val / 2))
        ∧ (18 ≤ l.val → fbit s REGION_FAULT__VALID (onyxRegion l) = false → fbit s REGION_FENCE__REGION_FENCED (onyxRegion l) = false →
          fget t REGION_FAULT__CODE (onyxRegion l) = 2 ∧ fbit t REGION_FENCE__REGION_FENCED (onyxRegion l) = true))

/-- The accounting period (R303, R306, R311), feedback (R307) and admission (R310). Clauses that are the model's own choice rest
on logs 34 and 48. -/
def Obligations.RegulationCreditsAndAdmission : Prop :=
  ∀ s : State,
    (∃ t, exec (.accountingPeriod false) s = .next t ∧ t.msgs = s.msgs ∧ t.links = s.links ∧ t.tiles = s.tiles
      ∧ VaultsKept s t ∧ SpinelSame s t
      ∧ ∀ (p : Fin 288) (c : Fin 8),
        let h := chanOf s p c
        let h' := chanOf t p c
        (∀ x k, x < 3 → k < 8 →
          smGet h'.cr (x * 8 + k) 0 = (if smGet h.minEff (x * 8 + k) 0 = 0 then smGet h.cr (x * 8 + k) 0
            else min 28672 (smGet h.cr (x * 8 + k) 0 + smGet h.minEff (x * 8 + k) 0))
          ∧ smGet h'.minEff (x * 8 + k) 0 = minEffOf (vmin s (p / 18) k x) (shareLoad s p c x).1 (shareLoad s p c x).2)
        ∧ h'.queue = h.queue.map (fun b => if passed s b.deadline then { b with late := true } else b)
        ∧ h' = { h with cr := h'.cr, minEff := h'.minEff, queue := h'.queue })
    ∧ (∃ t, exec (.accountingPeriod true) s = .next t ∧ t.chans = s.chans ∧ t.tiles = s.tiles ∧ VaultsKept s t ∧ SpinelSame s t
      ∧ t.msgs = s.msgs.map (fun m => if !m.route.isEmpty && passed s m.deadline then { m with late := true } else m)
      ∧ (fget t FAB_QOS_CTRL__TERRIER_DEF = flag (decide (terrierCap < sumClasses fun c => fget s FAB_QOS_LMIN__TERRIER c)))
      ∧ ∀ l c, regulated l = true → c < 8 →
        smGet (linkOf t l).cr c 0 = (if smGet (linkOf s l).minEff c 0 = 0 then smGet (linkOf s l).cr c 0
          else min 81920 (smGet (linkOf s l).cr c 0 + smGet (linkOf s l).minEff c 0))
        ∧ smGet (linkOf t l).minEff c 0 = minEffOf (linkMin s l c) (sumClasses fun k => linkMin s l k) (linkCap s l))
    ∧ (∀ g : Fin 16, domOn s (288 + g) = true →
      ∃ t, exec (.overMask g) s = .next t ∧ smFind (regionOf t g).ovf g = some (now s, overSummary s g)
        ∧ (∀ d : End, (d = .hub ∨ ∃ h, h < 16 ∧ h ≠ g.val ∧ d = .region h) →
            (routeOf s (.region g) d).any (fun l => linkDown s l) = false →
            ∃ x ∈ t.msgs, x.typ = .mgmt ∧ x.src = .region g ∧ x.dst = d ∧ x.mg = .summary g (overSummary s g))
        ∧ VaultsKept s t ∧ SpinelSame s t)
    ∧ (∀ g : Fin 16, domOn s (288 + g) = false → exec (.overMask g) s = .next s)
    ∧ (∀ (g : Fin 16) (c : Fin 8) (off : Fin 67108864) (v : BitVec 64), domOn s (288 + g) = true →
      s.blood.isolated.contains (g.val / 4) = false →
      (off.val = regOff REGION_QOS_VMIN g c →
        let f := fun (x : Fld) => bitsOf v.toNat x.lo x.w
        let u := fset (fset (fset s REGION_QOS_VMIN__RD (f REGION_QOS_VMIN__RD) g c) REGION_QOS_VMIN__WR
          (f REGION_QOS_VMIN__WR) g c) REGION_QOS_VMIN__RM (f REGION_QOS_VMIN__RM) g c
        (regionAdmits u g = true → exec (.qosWrite off v) s = .next u)
        ∧ (regionAdmits u g = false → ∃ t, exec (.qosWrite off v) s = .next t ∧ FieldWritten s t REGION_QOS_STATUS__ADM_ERR 1 g 0))
      ∧ (off.val = regOff REGION_QOS_LMIN g c →
        let u := fset s REGION_QOS_LMIN__ONYX (bitsOf v.toNat REGION_QOS_LMIN__ONYX.lo REGION_QOS_LMIN__ONYX.w) g c
        (regionAdmits u g = true → exec (.qosWrite off v) s = .next u)
        ∧ (regionAdmits u g = false → ∃ t, exec (.qosWrite off v) s = .next t ∧ FieldWritten s t REGION_QOS_STATUS__ADM_ERR 1 g 0))
      ∧ (off.val = regOff FAB_QOS_LMIN c 0 →
        let f := fun (x : Fld) => bitsOf v.toNat x.lo x.w
        let u := fset (fset s FAB_QOS_LMIN__TERRIER (f FAB_QOS_LMIN__TERRIER) c) FAB_QOS_LMIN__CUST (f FAB_QOS_LMIN__CUST) c
        (hubAdmits u = true → exec (.qosWrite off v) s = .next u)
        ∧ (hubAdmits u = false → ∃ t, exec (.qosWrite off v) s = .next t ∧ FieldWritten s t FAB_QOS_CTRL__ADM_ERR 1 0 0)))

/-- WCT reception and acknowledgement (R320 to R326). Clauses that are the model's own choice rest on logs 36, 39 and 75. -/
def Obligations.WctPacketsAreReceivedAndAcknowledged : Prop :=
  ∀ (s : State) (pk : WctPkt), pk.net.port < 16 →
    let h := pk.hdr
    let x := hDctx h
    let c := ctxOf s x
    let psn := hPsn h
    let next := (psn + 1) % 2 ^ 32
    let open_ := portPaused s (ctxPort c) (ctxPcp c) = false
    let d := psnDist (ctxEpsn c) psn
    let ce := c.ceSeen || pk.net.ce
    let inOrder := psn = ctxEpsn c ∧ psn ∉ c.got ∧ next ∉ c.got ∧ ∀ m ∈ c.rx, m.msn = hMsn h → m.cause = 0
    (∀ i op, (i, op) ∈ [(Instr.wctData pk, 1), (.wctAck pk, 2), (.wctNak pk, 3), (.collPacket pk, 4)] →
      let net := pk.net
      let n := 36 + pk.payload.length
      let dropped := fun (u t : State) (f : Nat → Prop) =>
        RegsAndEvents u t (fun off => off = regOff KELPIE_PORT_DROP_COUNT net.port 0 ∨ f off)
          ∧ rget t KELPIE_PORT_DROP_COUNT net.port = counterNext (rget s KELPIE_PORT_DROP_COUNT net.port) 1 % 2 ^ 64
      (portUp s net.port = false → exec i s = .next s)
      ∧ (portUp s net.port = true → (net.fecBad ≠ 0 ∨ 9216 < frameLen net n ∨ 1 < net.vlans.length
          ∨ net.etherType ∉ [0x0800, 0x86DD, 0x88F7, 0x8808, 0x0806]) →
        ∃ t, exec i s = .next t ∧ dropped s t (fun off => off = regOff KELPIE_PORT_FEC_CORR_COUNT net.port 0
            ∨ off = regOff KELPIE_PORT_FEC_UNCORR_COUNT net.port 0)
          ∧ (net.fecBad ≠ 0 → rget t KELPIE_PORT_FEC_UNCORR_COUNT net.port
            = counterNext (rget s KELPIE_PORT_FEC_UNCORR_COUNT net.port) net.fecBad % 2 ^ 64)
          ∧ (net.fecCorr ≠ 0 → rget t KELPIE_PORT_FEC_CORR_COUNT net.port
            = counterNext (rget s KELPIE_PORT_FEC_CORR_COUNT net.port) net.fecCorr % 2 ^ 64))
      ∧ (portUp s net.port = true → frameOk net n = true → net.fecCorr = 0 →
        net.etherType = 0x0806 ∨ net.isIp = true ∧ (net.isUdp = false
          ∨ net.dport ∉ [fget s KELPIE_CTRL__WCT_PORT, 4791, 319, 320]) →
        let sec := now s / 1000000000
        let k := if s.kelpie.ctrlRate.1 = sec then s.kelpie.ctrlRate.2 else 0
        (k < 4096 → exec i s
          = .next { s with kelpie := { s.kelpie with ctrlRate := (sec, k + 1), out := s.kelpie.out ++ [.ctrl net] } })
        ∧ (4096 ≤ k → ∃ t, exec i s = .next t ∧ dropped s t fun _ => False))
      ∧ (FrameArrives s net n → net.dport = fget s KELPIE_CTRL__WCT_PORT → hOp h = op →
      (wctGood pk = false ∨ ctxCount ≤ x ∨ ctxRoce c = true ∨ ctxMatches c pk.net = false) →
      ∃ t, exec i s = .next t ∧ dropped s t fun _ => False))
    ∧ (∀ i op, (i, op) ∈ [(Instr.wctData pk, 1), (.collPacket pk, 4)] → WctArrives s pk op →
      (devFailed s = true → ∃ t, exec i s = .next t ∧ VaultsKept s t ∧ SpinelSame s t ∧ ctxOf t x = c
        ∧ (open_ → t.kelpie.out = s.kelpie.out ++ [wctOut s x (wctHdr (ctxPeer c) { op := 3, psn := ackPsn c, msn := 2 }) []]))
      ∧ (devFailed s = false → (2 ^ 31 ≤ d ∨ psn ∈ c.got) → ∃ t, exec i s = .next t ∧ VaultsKept s t ∧ SpinelSame s t
        ∧ ctxOf t x = { c with unacked := 0, unackedAt := none, ceSeen := false }
        ∧ (open_ → t.kelpie.out = s.kelpie.out
          ++ [wctOut s x (wctHdr (ctxPeer c) { op := 2, ece := ce, psn := ackPsn c, hi := sackOf c }) []]))
      ∧ (devFailed s = false → 128 ≤ d → d < 2 ^ 31 → psn ∉ c.got → ∃ t, exec i s = .next t ∧ VaultsKept s t ∧ SpinelSame s t
        ∧ ctxOf t x = { c with ceSeen := ce } ∧ t.kelpie.out = s.kelpie.out))
    ∧ (WctArrives s pk 1 → devFailed s = false → inOrder → hAbort h = false →
      let r := hubWrite (rxEntered s pk) (hRva h) pk.payload 0 (ctxClass c)
      r.2 = 0 → ∃ t, exec (.wctData pk) s = .next t ∧ VaultsKept r.1 t ∧ SpinelSame r.1 t ∧ ctxEpsn (ctxOf t x) = next
        ∧ (hLast h = true → open_ → t.kelpie.out = s.kelpie.out
          ++ [wctOut s x (wctHdr (ctxPeer c) { op := 2, ece := ce, psn := psn, hi := sackOf (ctxOf t x) }) []])
        ∧ (hLast h = true → hRtrigEn h = true → (∀ m ∈ c.rx, m.msn ≠ hMsn h ∧ m.lastPsn ≠ some psn) →
          fget t KELPIE_KQ_TRIG__TRIG_CNT (hRtrig h) = (fget s KELPIE_KQ_TRIG__TRIG_CNT (hRtrig h) + 1) % 2 ^ 32
          ∧ smGet t.kelpie.imm (hRtrig h) 0 = hImm h))
    ∧ (WctArrives s pk 4 → devFailed s = false → inOrder →
      (collOf s (hCollId h) = none → rnrDue s c = true → ∃ t, exec (.collPacket pk) s = .next t ∧ VaultsKept s t ∧ SpinelSame s t
        ∧ (pk.net.ce = false → ctxOf t x = { c with rnrAt := some (now s) })
        ∧ (pk.net.ce = true → ctxOf t x = { c with rnrAt := some (now s), ceSeen := false, unacked := 0, unackedAt := none })
        ∧ (open_ → t.kelpie.out = s.kelpie.out ++ [wctOut s x (wctHdr (ctxPeer c) { op := 3, psn := ackPsn c, msn := 1 }) []]
          ++ if pk.net.ce then [wctOut s x (wctHdr (ctxPeer c) { op := 2, ece := true, psn := ackPsn c, hi := sackOf c }) []] else []))
      ∧ ∀ y, collOf s (hCollId h) = some y → y.cause = 0 → hAbort h = false → collPktOk y x h = true →
        (hPhase h = 1 →
          let r := hubWrite (rxEntered s pk) (dstOf y (hChunk h) + hOff h) pk.payload 0 (ctxClass c)
          r.2 = 0 → ∃ t, exec (.collPacket pk) s = .next t ∧ VaultsKept r.1 t ∧ SpinelSame r.1 t ∧ ctxEpsn (ctxOf t x) = next)
        ∧ (hPhase h = 0 → clDirect y = false → hChunk h = clRank y →
          let own := hubRead (rxEntered s pk) (ctxClass c) (clSrc y + hChunk h * clBytes y + hOff h) (pk.payload.length / wireRatio y 0)
          let r := hubWrite own.1 (dstOf y (hChunk h) + hOff h)
            (fromWire (clFmt y) (combineWire (clFmt y) pk.payload (toWire (clFmt y) own.2.bytes))) 0 (ctxClass c)
          own.2.cause = 0 → own.2.tag = 0 → r.2 = 0 →
          ∃ t, exec (.collPacket pk) s = .next t ∧ VaultsKept r.1 t ∧ SpinelSame r.1 t ∧ ctxEpsn (ctxOf t x) = next))
    ∧ (∀ e rest, c.tx = e :: rest → (∀ p ∈ c.tx, p.sentAt.isSome = true) →
      let n := (psnDist e.psn psn + 1) % 2 ^ 32
      let left := c.tx.filter fun p => n ≤ psnDist e.psn p.psn
      n ≤ c.tx.length →
      (WctArrives s pk 2 → 0 < n → ∃ t, exec (.wctAck pk) s = .next t ∧ VaultsKept s t ∧ SpinelSame s t
        ∧ (ctxOf t x).tx.map (fun p => p.psn) = left.map (fun p => p.psn) ∧ bitsOf (ctxOf t x).bits 480 32 = next
        ∧ (ctxOf t x).rto = fget s KELPIE_WCT_TIMERS__RTO ∧ (ctxOf t x).rtoAt = now s ∧ (ctxOf t x).holdAt = now s
        ∧ (ctxOf t x).ece = (c.ece || hEce h)
        ∧ (∀ w ∈ s.kelpie.wqes, w.ended = false → bitsOf w.bits 0 8 = 1 → smSorted s.kelpie.ctx = true →
          (∀ y ∈ s.kelpie.ctx, ∀ p ∈ y.2.tx, p.queue = w.queue → p.idx = w.idx → y.1 = x ∧ psnDist e.psn p.psn < n) →
          { w with ended := true, cause := 0 } ∈ t.kelpie.wqes)
        ∧ (∀ p ∈ left, ∀ a i, i < 128 → bitOf (hSack h) i = true → psnDist next p.psn ≤ i →
          (psnDist ((psn + 2) % 2 ^ 32) p.psn < 128 → bitOf (hSack h) (psnDist ((psn + 2) % 2 ^ 32) p.psn) = false) →
          p.sentAt = some a → a + fget s KELPIE_WCT_TIMERS__RETX_GAP * 1000 ≤ now s → rnrHeld c p.msn = false →
          canSend s c = true → wctOut s x p.hdr p.payload ∈ t.kelpie.out))
      ∧ (∀ p l, left = p :: l → WctArrives s pk 3 →
        (hCause h = 1 → ∃ t, exec (.wctNak pk) s = .next t ∧ VaultsKept s t ∧ SpinelSame s t ∧ (ctxOf t x).tx = left
          ∧ (ctxOf t x).rnrHold = some (p.msn, now s + fget s KELPIE_WCT_TIMERS__RNR_WAIT * 1000))
        ∧ (hCause h = 2 → (∀ y ∈ s.kelpie.colls, y.queue = p.queue → y.idx = p.idx → y.cause ≠ 0) →
          ∃ t, exec (.wctNak pk) s = .next t ∧ VaultsKept s t ∧ SpinelSame s t ∧ (ctxOf t x).tx = left
            ∧ ∀ w ∈ s.kelpie.wqes, w.queue = p.queue → w.idx = p.idx → w.ended = false →
              { w with ended := true, cause := 2 } ∈ t.kelpie.wqes)))

/-- The timers of a WCT context (R323 to R325, R327). Clauses that are the model's own choice rest on log 36. -/
def Obligations.WctTimersActWhenDue : Prop :=
  ∀ (s : State) (x : Fin 40960),
    let c := ctxOf s x
    let others := fun (t : State) => (∀ y, y ≠ x.val → ctxOf t y = ctxOf s y) ∧ VaultsKept s t ∧ SpinelSame s t
    let late := c.rtoAt + c.rto * 1000 ≤ now s
    (∀ a, c.unackedAt = some a → ctxReady c = true → devFailed s = false →
      (now s < a + 1000 → exec (.ackTimer x) s = .next s)
      ∧ (a + 1000 ≤ now s → ∃ t, exec (.ackTimer x) s = .next t ∧ t.regs = s.regs ∧ others t
        ∧ ctxOf t x = { c with unacked := 0, unackedAt := none, ceSeen := false }
        ∧ (portUp s (ctxPort c) = true → portPaused s (ctxPort c) (ctxPcp c) = false → t.kelpie.out = s.kelpie.out
          ++ [wctOut s x (wctHdr (ctxPeer c) { op := 2, ece := c.ceSeen, psn := ackPsn c, hi := sackOf c }) []])))
    ∧ (timersRun c = true →
      (late → canSend s c = true → ∃ t, exec (.wctRto x) s = .next t ∧ others t
        ∧ t.kelpie.out = s.kelpie.out ++ resent s x (fun _ => true)
        ∧ (ctxOf t x).rto = min (2 * c.rto) (fget s KELPIE_WCT_TIMERS__RTO_MAX) ∧ (ctxOf t x).rtoAt = now s
        ∧ (ctxOf t x).bits = c.bits ∧ (ctxOf t x).tx.map (fun p => (p.psn, p.hdr)) = c.tx.map (fun p => (p.psn, p.hdr)))
      ∧ (¬ late → exec (.wctRto x) s = .next s)
      ∧ (canSend s c = true → ∃ t, exec (.retxGap x) s = .next t ∧ others t
        ∧ t.kelpie.out = s.kelpie.out ++ resent s x (gapDue s) ∧ (ctxOf t x).bits = c.bits ∧ (ctxOf t x).rto = c.rto)
      ∧ (c.holdAt + fget s KELPIE_WCT_TIMERS__HOLD * 1000000000 ≤ now s → s.kelpie.colls = [] →
        ∃ t, exec (.wctHold x) s = .next t ∧ others t ∧ ctxOf t x = { ctxSet c 3 1 1 with tx := [] } ∧ t.kelpie.out = s.kelpie.out
          ∧ RegsAndEvents { s with kelpie := t.kelpie } t (fun _ => False) ∧ EventHeld s t evtWctConnFailed x
          ∧ ∀ w ∈ s.kelpie.wqes, ∀ p ∈ c.tx, w.queue = p.queue → w.idx = p.idx → w.ended = false →
              { w with ended := true, cause := 3 } ∈ t.kelpie.wqes)
      ∧ (now s < c.holdAt + fget s KELPIE_WCT_TIMERS__HOLD * 1000000000 → exec (.wctHold x) s = .next s))
    ∧ (∀ m u, c.rnrHold = some (m, u) →
      (now s < u → exec (.rnrWait x) s = .next s)
      ∧ (u ≤ now s → canSend s c = true → ∃ t, exec (.rnrWait x) s = .next t ∧ others t ∧ (ctxOf t x).rnrHold = none
        ∧ (ctxOf t x).bits = c.bits ∧ t.kelpie.out = s.kelpie.out
          ++ ((outstanding c).filter fun p => p.msn = m).map fun p => wctOut s x p.hdr p.payload))
    ∧ (ctxReady c = true →
      let due := c.ccAt + fget s KELPIE_CC_CTRL__CC_PERIOD * 1000 ≤ now s
      let rate := bitsOf c.bits 512 32
      let target := bitsOf c.bits 544 32
      let g := 2 ^ fget s KELPIE_CC_CTRL__G_SHIFT
      let alpha := min 65535 ((bitsOf c.bits 576 16 * (g - 1) + (if c.ece then 65536 else 0)) / g)
      let goal := if 5 < c.quiet + 1 then min (target + fget s KELPIE_CC_CTRL__AI_MBPS) (modeRate (portMode s (ctxPort c))) else target
      (¬ due → exec (.ccPeriod x) s = .next s)
      ∧ (due → ∃ t, exec (.ccPeriod x) s = .next t ∧ t.regs = s.regs ∧ others t ∧ t.kelpie.out = s.kelpie.out
        ∧ bitsOf (ctxOf t x).bits 576 16 = alpha ∧ (ctxOf t x).ece = false ∧ (ctxOf t x).ccAt = now s
        ∧ (c.ece = true → bitsOf (ctxOf t x).bits 512 32 = max 1000 (rate * (131072 - alpha) / 131072)
          ∧ bitsOf (ctxOf t x).bits 544 32 = rate ∧ (ctxOf t x).quiet = 0)
        ∧ (c.ece = false → bitsOf (ctxOf t x).bits 512 32 = max 1000 ((rate + goal) / 2)
          ∧ bitsOf (ctxOf t x).bits 544 32 = goal ∧ (ctxOf t x).quiet = c.quiet + 1)
        ∧ ∀ b, b < 512 ∨ 592 ≤ b → (ctxOf t x).bits.testBit b = c.bits.testBit b))

/-- The RoCE v2 responder (R336 to R338), pauses (R318) and ports (R317). Clauses that are the model's own choice rest on logs
38, 39 and 75. -/
def Obligations.RoceRespondsAndPortsPause : Prop :=
  ∀ s : State,
    (∀ pk : RocePkt, pk.net.port < 16 →
      let x := pk.qpn
      let c := ctxOf s x
      let u := roceEntered s pk
      let open_ := portPaused s (ctxPort c) (ctxPcp c) = false
      let d := (pk.psn + 2 ^ 24 - rocePsn c) % 2 ^ 24
      let answer := fun (i : Instr) (psn syn : Nat) => ∃ t, exec i s = .next t ∧ VaultsKept s t ∧ SpinelSame s t
        ∧ rocePsn (ctxOf t x) = rocePsn c ∧ (open_ → t.kelpie.out = u.kelpie.out ++ [roceOut s x roceAckOp psn syn []])
      (FrameArrives s pk.net (16 + (if roceReth pk.opcode then 16 else 0) + pk.payload.length) → pk.net.dport = 4791 →
        pk.icrcOk = false →
        exec (.rdmaWrite pk) s = .next s ∧ exec (.rdmaReadRequest pk) s = .next s)
      ∧ (RoceArrives s pk →
        (open_ → (∀ a, c.cnpAt = some a → a + 50000 ≤ now s) → u.kelpie.out = s.kelpie.out ++ if pk.net.ce then [roceOut s x roceCnpOp 0 0 []] else [])
        ∧ (pk.opcode < 6 ∨ pk.opcode = 9 ∨ pk.opcode = 11 ∨ 12 < pk.opcode → answer (.rdmaWrite pk) (rocePsn c) (nakSyn 1))
        ∧ (pk.opcode ∈ [6, 7, 8, 10] →
          (2 ^ 23 ≤ d → answer (.rdmaWrite pk) (rocePsn c + 2 ^ 24 - 1) ackSyn)
          ∧ (0 < d → d < 2 ^ 23 → c.seqNak = false → answer (.rdmaWrite pk) (rocePsn c) (nakSyn 0))
          ∧ (0 < d → d < 2 ^ 23 → c.seqNak = true → ∃ t, exec (.rdmaWrite pk) s = .next t ∧ t.kelpie.out = u.kelpie.out
            ∧ VaultsKept s t ∧ SpinelSame s t)
          ∧ (d = 0 → ∀ code, roceWrite s c pk = .error code → answer (.rdmaWrite pk) (rocePsn c) (nakSyn code))
          ∧ (d = 0 → ∀ a left key, roceWrite s c pk = .ok (a, left, key) →
            let n := pk.payload.length
            (n = left ∧ roceEnds pk.opcode = true) ∨ (n = ctxMtu c ∧ n < left ∧ roceEnds pk.opcode = false) →
            let r := hubWrite u a pk.payload 0 (ctxClass c)
            r.2 = 0 → ∃ t, exec (.rdmaWrite pk) s = .next t ∧ VaultsKept r.1 t ∧ SpinelSame r.1 t
              ∧ rocePsn (ctxOf t x) = (rocePsn c + 1) % 2 ^ 24
              ∧ (ctxOf t x).roceWr = (if roceEnds pk.opcode then none else some (a + n, left - n, key))
              ∧ (open_ → t.kelpie.out = u.kelpie.out
                ++ if pk.ackReq then [roceOut s x roceAckOp (rocePsn c) ackSyn []] else [])))
        ∧ (pk.opcode = 12 →
          (0 < d → d < 2 ^ 23 → c.seqNak = false → answer (.rdmaReadRequest pk) (rocePsn c) (nakSyn 0))
          ∧ (d = 0 ∨ 2 ^ 23 ≤ d →
            (rkeyOk s pk.rkey pk.va pk.len false = false → answer (.rdmaReadRequest pk) (rocePsn c) (nakSyn 2))
            ∧ (rkeyOk s pk.rkey pk.va pk.len false = true →
              let r := hubRead u (ctxClass c) pk.va pk.len
              let n := max 1 ((pk.len + ctxMtu c - 1) / ctxMtu c)
              r.2.cause = 0 → r.2.tag = 0 → ∃ t, exec (.rdmaReadRequest pk) s = .next t ∧ VaultsKept r.1 t ∧ SpinelSame r.1 t
                ∧ rocePsn (ctxOf t x) = (rocePsn c + if d = 0 then n else 0) % 2 ^ 24
                ∧ (open_ → t.kelpie.out = u.kelpie.out ++ (List.range n).map fun i =>
                  roceOut s x (if n = 1 then 0x10 else if i = 0 then 0x0D else if i + 1 = n then 0x0F else 0x0E) (pk.psn + i)
                    ackSyn ((r.2.bytes.drop (i * ctxMtu c)).take (ctxMtu c))))))))
    ∧ (∀ (n : Fin 16) (pri : Fin 8),
      let key := n.val * 8 + pri.val
      let mine := s.kelpie.held.filter fun f => f.1 = n.val && f.2.1 = pri.val
      let ended := fun (t : State) => smFind t.kelpie.pause key = none
        ∧ s.kelpie.out ++ mine.map (fun f => f.2.2) <+: t.kelpie.out ∧ (∀ x ∈ ctxsOn s n pri, (ctxOf t x).pausedAt = none)
        ∧ VaultsKept s t ∧ SpinelSame s t
      (∀ q, portUp s n = false → exec (.pause n pri q) s = .next s)
      ∧ (∀ q : BitVec 16, portUp s n = true → q ≠ 0 → ∃ t, exec (.pause n pri q) s = .next t
        ∧ smFind t.kelpie.pause key = some (now s + quantaNs s n q.toNat) ∧ t.kelpie.out = s.kelpie.out
        ∧ (∀ x ∈ ctxsOn s n pri, ctxOf t x = { ctxOf s x with pausedAt := some ((ctxOf s x).pausedAt.getD (now s)) })
        ∧ (∀ x, x ∉ ctxsOn s n pri → ctxOf t x = ctxOf s x) ∧ VaultsKept s t ∧ SpinelSame s t)
      ∧ (smSorted s.kelpie.pause = true → smSorted s.kelpie.ctx = true → portUp s n = true →
        (∃ t, exec (.pause n pri 0) s = .next t ∧ ended t)
        ∧ ∀ u, smFind s.kelpie.pause key = some u →
          (u ≤ now s → ∃ t, exec (.pauseEnd n pri) s = .next t ∧ ended t)
          ∧ (now s < u → exec (.pauseEnd n pri) s = .next s))
      ∧ (smFind s.kelpie.pause key = none → exec (.pauseEnd n pri) s = .next s))
    ∧ (∀ n : Fin 16,
      let dom := portExists (portMode s n) n = true ∧ domOn s (308 + n.val / 4) = true ∧ domOn s (312 + n.val / 8) = true
        ∧ smGet s.kelpie.retrainAt n 0 ≤ now s
      (fbit s KELPIE_PORT_STATUS__UP n = true →
        (∃ t, exec (.netLinkDown n) s = .next t ∧ fbit t KELPIE_PORT_STATUS__UP n = false ∧ portUp t n = false
          ∧ EventHeld s t evtNetLinkDown n ∧ RegsAndEvents { s with kelpie := t.kelpie } t
            (fun off => off = regOff KELPIE_PORT_STATUS n 0) ∧ smGet t.kelpie.retrainAt n 0 = now s + 1000000000)
        ∧ ∀ up, exec (.portRetrain n up) s = .next s)
      ∧ (fbit s KELPIE_PORT_STATUS__UP n = false → exec (.netLinkDown n) s = .next s
        ∧ (dom → (∃ t, exec (.portRetrain n true) s = .next t ∧ fbit t KELPIE_PORT_STATUS__UP n = true ∧ portUp t n = true
            ∧ EventHeld s t evtNetLinkUp n ∧ VaultsKept s t ∧ SpinelSame s t)
          ∧ exec (.portRetrain n false) s = .next { s with
              kelpie := { s.kelpie with retrainAt := smSet s.kelpie.retrainAt n (now s + 1000000000) } })))

/-- Context commands (R321) and work queues (R328 to R332). Clauses that are the model's own choice rest on logs 36, 37 and 64.
-/
def Obligations.ContextsAndWorkQueues : Prop :=
  ∀ s : State,
    (∀ x : Fin 40960,
      let c := ctxOf s x
      let w := ctxWords s
      let port := bitsOf w 4 4
      let cmd := fun off => off = regOff KELPIE_CTX_CMD 0 0
      let refused := ctxValid c = true ∨ port / 8 ≠ x.val / 20480 ∨ portMode s port = 0
        ∨ (bitOf w 2 = true ∧ bitOf w 0 = true
          ∧ 1024 ≤ (s.kelpie.ctx.filter fun y => y.1 ≠ x.val && ctxValid y.2 && ctxRoce y.2).length)
        ∨ ∃ f ∈ ctxReserved, bitsOf w f.1 f.2 ≠ 0
      (kelpieAny s = false → ∀ i ∈ [Instr.ctxLoad x, .ctxRead x, .ctxReset x], exec i s = .next s)
      ∧ (kelpieAny s = true → ctxOn s x = false → ∀ i ∈ [Instr.ctxLoad x, .ctxRead x, .ctxReset x],
        ∃ t, exec i s = .next t ∧ FieldWritten s t KELPIE_CTX_CMD__INDEX x.val 0 0)
      ∧ (ctxOn s x = true → (refused → ∃ t, exec (.ctxLoad x) s = .next t ∧ fbit t KELPIE_CTX_CMD__ERR = true ∧ RegsOnly s t cmd)
      ∧ (¬ refused → ∃ t, exec (.ctxLoad x) s = .next t ∧ RegsOnly { s with kelpie := t.kelpie } t cmd
        ∧ t.kelpie = { s.kelpie with ctx := smSet s.kelpie.ctx x (ctxOf t x) }
        ∧ (ctxOf t x).tx = [] ∧ (ctxOf t x).rx = [] ∧ (ctxOf t x).got = []
        ∧ bitsOf (ctxOf t x).bits 480 32 = 0 ∧ bitsOf (ctxOf t x).bits 512 32 = modeRate (portMode s port)
        ∧ bitsOf (ctxOf t x).bits 544 48 = 0 ∧ ctxFailed (ctxOf t x) = false
        ∧ ∀ b, b ≠ 3 → b < 480 ∨ 592 ≤ b → (ctxOf t x).bits.testBit b = w.testBit b)
      ∧ (∃ t, exec (.ctxRead x) s = .next t ∧ (∀ k, k < 16 → fget t KELPIE_CTX_WORD__DATA k = bitsOf c.bits (64 * k) 64)
        ∧ RegsOnly s t fun off => cmd off ∨ ∃ k, k < 16 ∧ off = regOff KELPIE_CTX_WORD k 0)
      ∧ (ctxValid c = false → ∃ t, exec (.ctxReset x) s = .next t ∧ RegsOnly s t cmd)
      ∧ (ctxValid c = true → s.kelpie.colls = [] → ∃ t, exec (.ctxReset x) s = .next t
        ∧ RegsOnly { s with kelpie := t.kelpie } t cmd ∧ ctxOf t x = { ctxSet c 0 1 0 with tx := [] }
        ∧ (∀ y, y ≠ x.val → ctxOf t y = ctxOf s y)
        ∧ ∀ v ∈ s.kelpie.wqes, ∀ p ∈ c.tx, v.queue = p.queue → v.idx = p.idx → v.ended = false →
            { v with ended := true, cause := 7 } ∈ t.kelpie.wqes)))
    ∧ (∀ q : Fin 1024,
      (∀ v : BitVec 16, kelpieAny s = false → exec (.kqTailWrite q v) s = .next s ∧ exec (.kqClear q) s = .next s)
      ∧ (∀ v : BitVec 16, kelpieAny s = true → ∃ t, exec (.kqTailWrite q v) s = .next t ∧ fget t KELPIE_KQ_PTR__TAIL q = v.toNat
        ∧ fget t KELPIE_KQ_PTR__HEAD q = fget s KELPIE_KQ_PTR__HEAD q
        ∧ fget t KELPIE_KQ_PTR__STATE q = (if kqState s q = 2 then 2
          else if fget s KELPIE_KQ_PTR__HEAD q % kqSize s q = v.toNat % kqSize s q ∧ kqStarted s q = [] then 0 else 1)
        ∧ RegsOnly s t fun off => off = regOff KELPIE_KQ_PTR q 0)
      ∧ (kelpieAny s = true → kqState s q = 2 → ∃ t, exec (.kqClear q) s = .next t ∧ FieldWritten s t KELPIE_KQ_PTR__STATE 0 q 0)
      ∧ (kqState s q ≠ 2 → exec (.kqClear q) s = .next s)
      ∧ (let i := kqNext s q
        let w := wqeBits s q
        let u := wqeStarted s q
        (∀ c op, (c, op) ∈ [(Instr.wqeWrite q, 1), (.wqeColl q, 2), (.wqeWait q, 3)] →
          (kqMayStart s q = false → exec c s = .next s)
          ∧ (kqMayStart s q = true → (wqeRead s q).2.cause ≠ 0 →
            ∃ t, exec c s = .next t ∧ ⟨q, i, 0, true, 1⟩ ∈ t.kelpie.wqes)
          ∧ (WqeReady s q op → bitOf w 10 = true → fbit s KELPIE_KQ_PTR__TRIG_FAIL q = true →
            (bitOf w 11 = true → kqStarted s q = []) → ∃ t, exec c s = .next t ∧ ⟨q, i, w, true, 9⟩ ∈ t.kelpie.wqes)
          ∧ (WqeReady s q op → (bitOf w 11 = true ∧ kqStarted s q ≠ [])
              ∨ (bitOf w 10 = true ∧ fbit s KELPIE_KQ_PTR__TRIG_FAIL q = false ∧ trigLeft s q < bitsOf w 32 16) →
            exec c s = .next s))
        ∧ (WqeReady s q 3 → WqeMayRun s q → ∃ t, exec (.wqeWait q) s = .next t ∧ ⟨q, i, w, true, 0⟩ ∈ t.kelpie.wqes
          ∧ t.msgs = (wqeRead s q).1.msgs ∧ VaultsKept (wqeRead s q).1 t
          ∧ fget t KELPIE_KQ_PTR__HEAD q = (i + 1) % kqSize s q % 2 ^ 16
          ∧ fget t KELPIE_KQ_TRIG__TRIG_USED q
            = (fget s KELPIE_KQ_TRIG__TRIG_USED q + if bitOf w 10 then bitsOf w 32 16 else 0) % 2 ^ 32)
        ∧ (WqeReady s q 1 → WqeMayRun s q →
          let x := bitsOf w 16 16
          let c := ctxOf s x
          let total := bitsOf w 192 32
          let n := max 1 ((total + ctxMtu c - 1) / ctxMtu c)
          let base := ctxNpsn c + (c.tx.filter fun p => p.sentAt.isNone).length
          let r := writePackets (takeMsn u x).1 q i w (takeMsn u x).2 (ctxMtu c) (total / ctxMtu c + 1) 0
          (ctxValid c = false ∨ ctxRoce c = true → ∃ t, exec (.wqeWrite q) s = .next t ∧ ⟨q, i, w, true, 7⟩ ∈ t.kelpie.wqes)
          ∧ (ctxValid c = true → ctxRoce c = false → ctxFailed c = true →
            ∃ t, exec (.wqeWrite q) s = .next t ∧ ⟨q, i, w, true, 3⟩ ∈ t.kelpie.wqes)
          ∧ (ctxReady c = true → c.nextMsn < 2 ^ 32 → r.2 = 0 → ∃ t, exec (.wqeWrite q) s = .next t
            ∧ ⟨q, i, w, false, 0⟩ ∈ t.kelpie.wqes ∧ (ctxOf t x).tx.length = c.tx.length + n
            ∧ ∀ k, k < n → ∃ p ∈ (ctxOf t x).tx, p.psn = (base + k) % 2 ^ 32 ∧ p.queue = q.val ∧ p.idx = i
              ∧ hOp p.hdr = 1 ∧ hPsn p.hdr = p.psn ∧ hMsn p.hdr = c.nextMsn ∧ hDctx p.hdr = ctxPeer c
              ∧ hFirst p.hdr = decide (k = 0) ∧ hLast p.hdr = decide (k + 1 = n)
              ∧ hLen p.hdr = min (ctxMtu c) (total - k * ctxMtu c)
              ∧ hRva p.hdr = (bitsOf w 128 48 + k * ctxMtu c) % 2 ^ 48))
        ∧ (WqeReady s q 2 → WqeMayRun s q →
          let d := hubRead u kqCls (bitsOf w 64 48) 64
          let desc := leNat d.2.bytes
          let ty := bitsOf desc 0 4
          let fmt := bitsOf desc 4 3
          let p := bitsOf desc 18 11
          let l := hubRead d.1 kqCls (bitsOf desc 256 48) (2 * p)
          d.2.cause = 0 → d.2.tag = 0 →
          (onlyFields collFields desc = true →
            (fmt = 3 ∧ (ty = 1 ∨ ty = 3)) ∨ (fmt ≠ 3 ∧ ty = 4) ∨ ((fmt = 1 ∨ fmt = 2) ∧ bitOf desc 7 = true) →
            ∃ t, exec (.wqeColl q) s = .next t ∧ ⟨q, i, w, true, 10⟩ ∈ t.kelpie.wqes)
          ∧ (collCause s desc = 0 → l.2.cause = 0 → l.2.tag = 0 →
            ∃ t y, exec (.wqeColl q) s = .next t ∧ collOf t (bitsOf desc 32 16) = some y ∧ y.queue = q.val ∧ y.idx = i
              ∧ y.desc = desc ∧ y.ctxs = elems 2 l.2.bytes)))
      ∧ (kqStarted s q = [] → exec (.wqeComplete q) s = .next s)
      ∧ (∀ v rest, kqStarted s q = v :: rest →
        (v.ended = false → exec (.wqeComplete q) s = .next s)
        ∧ (v.ended = true → (∀ y ∈ rest, y.idx ≠ v.idx) → ∃ t, exec (.wqeComplete q) s = .next t ∧ kqStarted t q = rest
          ∧ fget t KELPIE_KQ_PTR__HEAD q = fget s KELPIE_KQ_PTR__HEAD q
          ∧ (v.cause = 0 → s.kelpie.stopping.contains q.val = false → t.kelpie.stopping = s.kelpie.stopping
            ∧ (kqState s q = 1 → fget t KELPIE_KQ_PTR__STATE q
              = if rest = [] ∧ fget s KELPIE_KQ_PTR__HEAD q % kqSize s q = fget s KELPIE_KQ_PTR__TAIL q % kqSize s q then 0 else 1))
          ∧ (v.cause ≠ 0 → (bitOf v.bits 8 = false ∨ fbit s HUB_CNT_CTRL__SAT_EVT_EN = false →
              EventHeld s t evtKqError (q.val + v.idx * 2 ^ 16 + v.cause * 2 ^ 32))
            ∧ (rest = [] → fget t KELPIE_KQ_PTR__STATE q = 2) ∧ (rest ≠ [] → q.val ∈ t.kelpie.stopping))
          ∧ (let lt := bitsOf v.bits 256 9
            let route := routeMc s .hub (lt / 18)
            bitOf v.bits 8 = true → sendCause s (.region (lt / 18)) route = 0 →
            ∃ m, t.msgs = s.msgs ++ [m] ∧ m.typ = .spw ∧ m.lmask = 2 ^ (lt % 18)
              ∧ m.dstSpa = bitsOf v.bits 271 16 ∧ m.dstSlot = some (bitsOf v.bits 265 6)
              ∧ m.sectors = [⟨0, leBytes 32 (q.val + v.cause * 2 ^ 16
                + (if bitsOf v.bits 0 8 = 3 then smGet s.kelpie.imm q 0 else bitsOf v.bits 224 32) * 2 ^ 32 + v.idx * 2 ^ 64), 0⟩])
          ∧ VaultsKept s t ∧ SpinelSame s t)))

/-- The PTP clock (R339, R340), the barrier (R341) and the device start (R353 to R355). Clauses that are the model's own choice
rest on logs 39, 40 and 64. -/
def Obligations.TheBarrierStartsTheDevice : Prop :=
  ∀ s : State,
    let ack := aclkCount s
    let firedNow := fun (t : State) (late : Bool) => SyncFired s t late ∧ VaultsKept s t ∧ SpinelSame s t ∧ t.tiles = s.tiles
    let on := kelpieAny s = true
    (∀ v : BitVec 64, kelpieAny s = false →
      ∀ c ∈ [Instr.ptpStep v, .ptpSecRead, .syncArm, .syncDisarm, .syncDrive], exec c s = .next s)
    ∧ (∀ v : BitVec 64, on → ∃ t, exec (.ptpStep v) s = .next t
      ∧ (ptpNow t : Int) = ((ptpNow s : Int) + v.toInt * 2 ^ 44) % (2 ^ 48 * 1000000000 * 2 ^ 44)
      ∧ t.kelpie = { s.kelpie with ptpLow := t.kelpie.ptpLow }
      ∧ RegsOnly { s with kelpie := t.kelpie } t fun off => off = regOff KELPIE_PTP_SEC 0 0 ∨ off = regOff KELPIE_PTP_NS 0 0)
    ∧ (on → exec .ptpSecRead s = .next { s with kelpie := { s.kelpie with ptpLatch := some (rget s KELPIE_PTP_NS) } })
    ∧ (∀ (n : Fin 16) (rx : Bool) (ty : BitVec 4) (sq : BitVec 16) (corr : BitVec 64),
      let csum := (Config.ptpCsum s.draws).map fun v => v.toNat
      let e := (n.val, sq.toNat, fget s KELPIE_PTP_SEC__SEC * 2 ^ 46 + rget s KELPIE_PTP_NS % 2 ^ 46)
      let run := exec (.ptpEvent n rx ty sq corr) s
      (portUp s n = false ∨ 3 < ty.toNat → run = .next s)
      ∧ (portUp s n = true → ty.toNat ≤ 3 →
        (rx = true → ∃ t, run = .next t ∧ t.kelpie = { s.kelpie with rxTs := t.kelpie.rxTs } ∧ t.regs = s.regs
          ∧ t.kelpie.rxTs.head? = some e ∧ (t.kelpie.rxTs.filter fun y => y.1 = n.val).length ≤ 64
          ∧ (∀ m, m ≠ n.val → (t.kelpie.rxTs.filter fun y => y.1 = m) = s.kelpie.rxTs.filter fun y => y.1 = m))
        ∧ (rx = false → fbit s KELPIE_CTRL__ONESTEP = true → ty = 0 →
          ∃ t, run = .next t ∧ t.kelpie = { s.kelpie with out := s.kelpie.out
            ++ [.ptp n sq.toNat e.2.2 ((corr.toNat + Config.residence s.draws) % 2 ^ 64)
              (csum.map fun v => csumUpdate v corr.toNat ((corr.toNat + Config.residence s.draws) % 2 ^ 64))] }
            ∧ t.regs = s.regs)
        ∧ (rx = false → fbit s KELPIE_CTRL__ONESTEP = false ∨ ty ≠ 0 →
          ∃ t, run = .next t ∧ t.kelpie = { s.kelpie with txTs := t.kelpie.txTs, out := s.kelpie.out
            ++ [.ptp n sq.toNat e.2.2 corr.toNat csum] } ∧ t.regs = s.regs ∧ t.kelpie.txTs.head? = some e
            ∧ (t.kelpie.txTs.filter fun y => y.1 / 8 = n.val / 8).length ≤ 256)))
    ∧ (on → fbit s KELPIE_SYNC_CTRL__ARM = true → exec .syncArm s = .next s)
    ∧ (on → fbit s KELPIE_SYNC_CTRL__ARM = false → ∃ t, exec .syncArm s = .next t
      ∧ t.kelpie = { s.kelpie with armAt := ack, armLate := pastStart s }
      ∧ FieldWritten { s with kelpie := t.kelpie } t KELPIE_SYNC_CTRL__ARM 1 0 0)
    ∧ (on → ∃ t, exec .syncDisarm s = .next t ∧ FieldWritten s t KELPIE_SYNC_CTRL__ARM 0 0 0)
    ∧ (on → exec .syncDrive s = .next { s with kelpie := { s.kelpie with syncOut := some (now s) } })
    ∧ (∀ a, s.kelpie.syncOut = some a → (a + 40 ≤ now s →
        exec .syncOutPulseEnd s = .next { s with kelpie := { s.kelpie with syncOut := none } })
      ∧ (now s < a + 40 → exec .syncOutPulseEnd s = .next s))
    ∧ (fbit s KELPIE_SYNC_CTRL__ARM = false ∨ ack < s.kelpie.armAt + 2 → ∃ t, exec .syncInEdge s = .next t
      ∧ rget t KELPIE_SYNC_IGNORED_COUNT = counterNext (rget s KELPIE_SYNC_IGNORED_COUNT) 1 % 2 ^ 64
      ∧ RegsAndEvents s t fun off => off = regOff KELPIE_SYNC_IGNORED_COUNT 0 0)
    ∧ (fbit s KELPIE_SYNC_CTRL__ARM = true → fget s KELPIE_SYNC_CTRL__SRC = 0 → s.kelpie.armAt + 2 ≤ ack →
      ∃ t, exec .syncInEdge s = .next t ∧ firedNow t false)
    ∧ (fbit s KELPIE_SYNC_CTRL__ARM = true → fget s KELPIE_SYNC_CTRL__SRC = 1 → s.kelpie.armAt < ack → pastStart s = true →
      ∃ t, exec .ptpStartTime s = .next t ∧ firedNow t s.kelpie.armLate)
    ∧ (fbit s KELPIE_SYNC_CTRL__ARM = false ∨ fget s KELPIE_SYNC_CTRL__SRC ≠ 1 ∨ pastStart s = false →
      exec .ptpStartTime s = .next s)
    ∧ (∃ t, exec .hubStartGo s = .next t ∧ DeviceStarts s t ∧ t.kelpie = s.kelpie ∧ t.tiles = s.tiles
      ∧ VaultsKept s t ∧ SpinelSame s t)
    ∧ (∀ g : Fin 16,
      ((regionOf s g).startS = none ∨ domOn s (288 + g) = false → exec (.regionStart g) s = .next s)
      ∧ ∀ c a, (regionOf s g).startS = some (c, a) → domOn s (288 + g) = true →
        let late := if a < c then 0 else a + 1 - c
        let due := if a < c then c ≤ ack else a + 1 ≤ ack
        let left := setBits s.start.left g 1 0
        (¬ due → exec (.regionStart g) s = .next s)
        ∧ (due → ∃ t, exec (.regionStart g) s = .next t ∧ (regionOf t g).startS = none
          ∧ t.start = { s.start with left := left, s := if left = 0 then none else s.start.s }
          ∧ fbit t HUB_START__PENDING = (if left = 0 then false else fbit s HUB_START__PENDING)
          ∧ (0 < late → fbit t HUB_START__LATE = true ∧ bitOf (fget t HUB_START__LATE_MASK) g = true
            ∧ (fbit s HUB_CNT_CTRL__SAT_EVT_EN = false → fbit s HOST_EVT_CFG__ENABLE = false → s.host.evtBuf.length < 256 →
              ⟨evtRegionStartLate, s.host.evtSeq, now s, g.val + late % 2 ^ 32 * 2 ^ 32⟩ ∈ t.host.evtBuf))
          ∧ (∀ p ∈ armedTiles s g, fbit t TILE_COLLIE_CTRL__ARM p = false
            ∧ (tileState s p ≠ 1 → tileState s p ≠ 2 →
              (configOk s p = true → tileState t p = 1)
              ∧ (configOk s p = false → tileState t p = tileState s p ∧ fbit t TILE_COLLIE_STATUS__CFG_ERR p = true)))
          ∧ (∀ p, p < 288 → p ∉ armedTiles s g → tileState t p = tileState s p ∧ tileOf t p = tileOf s p)
          ∧ VaultsKept s t ∧ SpinelSame s t))

/-- STRICT (R347) and Opal's runs and digests (R356 to R358, R463). Clauses that are the model's own choice rest on log 41. -/
def Obligations.StrictModeIsGuardedAndTheDigestSigned : Prop :=
  ∀ s : State,
    (∀ v : BitVec 64,
      let strict := fbit s HUB_MODE__STRICT
      let set := v.getLsbD 0
      let stop := (∃ p, p < 288 ∧ (tileState s p = 1 ∨ tileState s p = 2 ∨ fbit s TILE_COLLIE_CTRL__ARM p = true))
        ∨ fbit s HUB_START__PENDING = true ∨ (∃ w ∈ s.kelpie.wqes, bitsOf w.bits 0 8 = 2) ∨ fbit s OPAL_STATUS__RUN_OPEN = true
        ∨ (set = true ∧ s.host.planFeat % 16 ≠ 0)
      let err := if v.getLsbD 1 then false else fbit s HUB_MODE__MODE_ERR
      ∃ t, exec (.hubModeWrite v) s = .next t ∧ RegsOnly s t (fun off => off = regOff HUB_MODE 0 0)
        ∧ (set ≠ strict → stop → fbit t HUB_MODE__STRICT = strict ∧ fbit t HUB_MODE__MODE_ERR = true)
        ∧ (set ≠ strict → ¬ stop → fbit t HUB_MODE__STRICT = set ∧ fbit t HUB_MODE__MODE_ERR = err)
        ∧ (set = strict → fbit t HUB_MODE__STRICT = strict ∧ fbit t HUB_MODE__MODE_ERR = err ∧ (v.getLsbD 1 = false → t = s)))
    ∧ (let p := fget s OPAL_P_FORMAT_MODE__P
      let ok := fbit s OPAL_STATUS__PLAN_VALID = true ∧ 1 ≤ p ∧ p ≤ 1024 ∧ fbit s OPAL_STATUS__RUN_OPEN = false
        ∧ fbit s OPAL_STATUS__SIG_BUSY = false
      let d := sha3_512 (opalBlock (fset s OPAL_P_FORMAT_MODE__MODE (rget s HUB_MODE % 2 ^ 32)))
      (¬ ok → ∃ t, exec .opalOpen s = .next t ∧ FieldWritten s t OPAL_STATUS__ERR 1 0 0)
      ∧ (ok → ∃ t, exec .opalOpen s = .next t
        ∧ fget t OPAL_P_FORMAT_MODE__MODE = rget s HUB_MODE % 2 ^ 32 ∧ fbit t OPAL_STATUS__RUN_OPEN = true
        ∧ fbit t OPAL_STATUS__DIGEST_VALID = true ∧ fbit t OPAL_STATUS__SIG_DONE = false
        ∧ (∀ w, w < 8 → rget t OPAL_DIGEST w = leNat ((d.drop (8 * w)).take 8))
        ∧ (fbit s OPAL_CTRL__SIGN = true → fbit t OPAL_STATUS__SIG_BUSY = true
          ∧ t.mastiff = { s.mastiff with jobs := s.mastiff.jobs ++ [.digest d (fget s OPAL_SIG_VA__VA * 32)] })
        ∧ (fbit s OPAL_CTRL__SIGN = false → fbit t OPAL_STATUS__SIG_BUSY = false ∧ t.mastiff = s.mastiff)
        ∧ RegsAndEvents { s with mastiff := t.mastiff } t fun off => off = regOff OPAL_P_FORMAT_MODE 0 0
          ∨ off = regOff OPAL_STATUS 0 0 ∨ off = regOff OPAL_DIGEST_COUNT 0 0 ∨ ∃ w, w < 8 ∧ off = regOff OPAL_DIGEST w 0))
    ∧ (∃ t, exec .opalClose s = .next t ∧ FieldWritten s t OPAL_STATUS__RUN_OPEN 0 0 0)
    ∧ ((∀ d va rest, s.mastiff.jobs ≠ .digest d va :: rest) → exec .opalSignDone s = .next s)
    ∧ (compUp s 0 = false → exec .opalSignDone s = .next s)
    ∧ (compUp s 0 = true → ∀ d va rest, s.mastiff.jobs = .digest d va :: rest →
      let u := fset { s with mastiff := { s.mastiff with jobs := rest } } OPAL_STATUS__SIG_BUSY 0
      let w := hubWrite u va (deviceSign s "OPALDG01" d ++ List.replicate 13 0) 0 7
      (fbit s MBX_STATUS__KEY_OK = false → ∃ t, exec .opalSignDone s = .next t ∧ t.mastiff = u.mastiff ∧ VaultsKept s t
        ∧ fbit t OPAL_STATUS__SIG_BUSY = false ∧ fbit t OPAL_STATUS__SIG_ERR = true
        ∧ fbit t MBX_STATUS__ERR = true ∧ fget t MBX_STATUS__CAUSE = 10)
      ∧ (fbit s MBX_STATUS__KEY_OK = true → ∃ t, exec .opalSignDone s = .next t ∧ t.mastiff = u.mastiff ∧ VaultsKept w.1 t
        ∧ fbit t OPAL_STATUS__SIG_BUSY = false ∧ (w.2 = 0 → fbit t OPAL_STATUS__SIG_DONE = true)
        ∧ (w.2 ≠ 0 → fbit t OPAL_STATUS__SIG_ERR = true
          ∧ fbit t OPAL_STATUS__SIG_DONE = fbit s OPAL_STATUS__SIG_DONE)))

/-- Agate (R240 to R247). Clauses that are the model's own choice rest on log 29. -/
def Obligations.AgateUpdatesRebuildsAndSwaps : Prop :=
  ∀ s : State,
    let a := s.agate
    let st := agateState s
    let stat := fun (off : Nat) => off = regOff AGATE_STATUS 0 0
    let all := fun (_ : Nat) => True
    (domOn s 316 = false → ∀ v : BitVec 64, ∀ c ∈ [Instr.liveUpdate v, .updAck, .agateRebuild, .agateCopyEnd, .agateAbort,
      .agateShdDataWrite v, .agateRetarget v, .sweepEnd, .agateSwap v, .agateExchange, .agateSwapped], exec c s = .next s)
    ∧ (domOn s 316 = true →
      (∀ v : BitVec 64,
        let i := fget s AGATE_UPD_INDEX__INDEX
        let j := fget s AGATE_SHD_INDEX__INDEX
        let e := v.toNat
        (updHeld s = true ∨ a.held ≠ [] → exec (.liveUpdate v) s = .next { s with agate := { a with held := a.held ++ [.upd i e] } })
        ∧ (a.held ≠ [] → exec (.agateSwap v) s = .next { s with agate := { a with held := a.held ++ [.gen e] } })
        ∧ (updHeld s = false → a.held = [] →
          (¬ EntryAccepted s e → ∃ t, exec (.liveUpdate v) s = .next t ∧ fbit t AGATE_STATUS__WR_ERR = true
            ∧ 1 ≤ fget t AGATE_STATUS__WR_CAUSE ∧ fget t AGATE_STATUS__WR_CAUSE ≤ 4 ∧ RegsOnly s t stat)
          ∧ (EntryAccepted s e → ∃ t, exec (.liveUpdate v) s = .next t ∧ bankGet t false i = entStored e
            ∧ entDecode (bankGet t false i) = some e ∧ BankKept s t false (fun k => k ≠ i) ∧ BankKept s t true all
            ∧ t.agate.log = (if (st = 1 ∨ st = 2) ∧ a.log.length < 4096 then a.log ++ [(i, e)] else a.log)
            ∧ fbit t AGATE_STATUS__LOG_OVF
              = (if (st = 1 ∨ st = 2) ∧ 4096 ≤ a.log.length then true else fbit s AGATE_STATUS__LOG_OVF)
            ∧ fbit t AGATE_STATUS__UPD_BUSY = true ∧ t.agate.updWait = reachedMask s
            ∧ (∀ g, g < 16 → regionReached s g = true →
                ∃ m ∈ t.msgs, m.typ = .mgmt ∧ m.src = .hub ∧ m.dst = .region g ∧ m.mg = .invalidate i)
            ∧ t.tiles = s.tiles ∧ VaultsKept s t ∧ SpinelSame s t))
        ∧ (st ≠ 2 → ∃ t, exec (.agateShdDataWrite v) s = .next t ∧ FieldWritten s t AGATE_STATUS__SHD_ERR 1 0 0)
        ∧ (st = 2 → ¬ EntryAccepted s e → ∃ t, exec (.agateShdDataWrite v) s = .next t ∧ fbit t AGATE_STATUS__WR_ERR = true
          ∧ RegsOnly s t stat)
        ∧ (st = 2 → EntryAccepted s e → ∃ t, exec (.agateShdDataWrite v) s = .next t ∧ t = { s with agate := t.agate }
          ∧ bankGet t true j = entStored e ∧ BankKept s t true (fun k => k ≠ j) ∧ BankKept s t false all
          ∧ ∀ k, k ∈ t.agate.rebuilt ↔ k = j ∨ k ∈ a.rebuilt)
        ∧ (let src := bitsOf e 0 9
          let dst := bitsOf e 16 9
          ∃ t, exec (.agateRetarget v) s = .next t ∧ fget t AGATE_RETARGET__FROM = src ∧ fget t AGATE_RETARGET__TO = dst
            ∧ AgateOnly s t (fun off => stat off ∨ off = regOff AGATE_RETARGET 0 0)
            ∧ t.agate = { a with sweep := if bitOf e 32 && st = 2 && a.sweep.isNone then some (src, dst) else a.sweep }
            ∧ (bitOf e 32 = true → st = 2 → a.sweep = none → fbit t AGATE_RETARGET__BUSY = true)
            ∧ (bitOf e 32 = true → st ≠ 2 ∨ a.sweep ≠ none → fbit t AGATE_STATUS__SHD_ERR = true))
        ∧ (let ok := st = 2 ∧ fbit s AGATE_STATUS__LOG_OVF = false ∧ a.sweep = none
            ∧ e % 2 ^ 32 = (fget s AGATE_GEN__GEN + 1) % 2 ^ 32
          (a.held = [] → ¬ ok → ∃ t, exec (.agateSwap v) s = .next t ∧ FieldWritten s t AGATE_STATUS__SWAP_ERR 1 0 0)
          ∧ (a.held = [] → ok → ∃ t, exec (.agateSwap v) s = .next t ∧ agateState t = 3 ∧ BankKept s t false all
            ∧ BankKept s t true (fun k => k ∈ a.rebuilt ∨ ∀ x ∈ a.log, x.1 ≠ k)
            ∧ (∀ l x r, a.log = l ++ x :: r → x.1 ∉ a.rebuilt → (∀ y ∈ r, y.1 ≠ x.1) → bankGet t true x.1 = entStored x.2)
            ∧ (∀ l x r, a.log = l ++ x :: r → x.1 ∈ a.rebuilt → (∀ y ∈ l, y.1 ∉ a.rebuilt) →
              fbit s HUB_CNT_CTRL__SAT_EVT_EN = false → EventHeld s t evtAgateConflict x.1)
            ∧ AgateOnly s t fun off => stat off ∨ off = regOff AGATE_CONFLICT_COUNT 0 0)))
      ∧ (fbit s AGATE_STATUS__UPD_BUSY = false ∨ allAcked s a.updWait = false → exec .updAck s = .next s)
      ∧ (fbit s AGATE_STATUS__UPD_BUSY = true → allAcked s a.updWait = true →
        (a.held = [] → ∃ t, exec .updAck s = .next t ∧ t.agate = { a with updWait := 0 }
          ∧ FieldWritten { s with agate := t.agate } t AGATE_STATUS__UPD_BUSY 0 0 0)
        ∧ ∀ i e us, a.held = .upd i e :: us → (∀ v w, us ≠ .gen v :: w) → st ≠ 3 → EntryAccepted s e → ∃ t, exec .updAck s = .next t
          ∧ bankGet t false i = entStored e ∧ BankKept s t false (fun k => k ≠ i) ∧ BankKept s t true all
          ∧ t.agate.held = us ∧ fbit t AGATE_STATUS__UPD_BUSY = true)
      ∧ (st ≠ 0 → exec .agateRebuild s = .next s)
      ∧ (st = 0 → ∃ t, exec .agateRebuild s = .next t ∧ t.agate = { a with log := [] } ∧ agateState t = 1
        ∧ fget t AGATE_STATUS__LOG_FILL = 0 ∧ AgateOnly s t stat)
      ∧ (st ≠ 1 → exec .agateCopyEnd s = .next s)
      ∧ (st = 1 → ∃ t, exec .agateCopyEnd s = .next t ∧ agateState t = 2 ∧ t.agate.rebuilt = [] ∧ t.agate.log = a.log
        ∧ BankKept s t false all ∧ ∀ i, bankGet t true i = bankGet s false i)
      ∧ (∃ t, exec .agateAbort s = .next t ∧ agateState t = 0 ∧ t.agate.log = [] ∧ t.agate.sweep = none
        ∧ fbit t AGATE_STATUS__LOG_OVF = false ∧ fget t AGATE_STATUS__LOG_FILL = 0 ∧ fbit t AGATE_RETARGET__BUSY = false
        ∧ BankKept s t true all ∧ BankKept s t false fun k => ∀ e, .upd k e ∉ a.held)
      ∧ (a.sweep = none → exec .sweepEnd s = .next s)
      ∧ (∀ src dst, a.sweep = some (src, dst) → fget s BH_STATUS__STATE ≠ 3 →
        let l := if activeBank s then a.bank0 else a.bank1
        let copy := fun (x : Nat × Nat) => (entDecode x.2).bind fun e =>
          if entValid e && entTile e = src then some (setBits e 4 9 dst) else none
        let passes := fun x => (copy x).any fun e => entRefuse s e = 0
        let fails := fun x => (copy x).any fun e => entRefuse s e ≠ 0
        smSorted l = true →
        ∃ t, exec .sweepEnd s = .next t ∧ t.agate.sweep = none ∧ fbit t AGATE_RETARGET__BUSY = false
          ∧ BankKept s t false all
          ∧ (∀ x ∈ l, (∀ e, copy x = some e → entRefuse s e = 0 → bankGet t true x.1 = entStored e ∧ x.1 ∈ t.agate.rebuilt)
            ∧ (passes x = false → bankGet t true x.1 = bankGet s true x.1))
          ∧ BankKept s t true (fun k => ∀ x ∈ l, x.1 ≠ k)
          ∧ fget t AGATE_RT_RESULT__RT_CHANGED = (l.filter passes).length % 2 ^ 20
          ∧ fget t AGATE_RT_RESULT__RT_FAILED = (l.filter fails).length % 2 ^ 20
          ∧ (∀ x, (l.find? fails) = some x → fget t AGATE_RT_RESULT__RT_FIRST = x.1 % 2 ^ 19)
          ∧ AgateOnly s t fun off => off = regOff AGATE_RETARGET 0 0 ∨ off = regOff AGATE_RT_RESULT 0 0)
      ∧ (st ≠ 3 → exec .agateExchange s = .next s)
      ∧ (st = 3 → ∃ t, exec .agateExchange s = .next t ∧ agateState t = 4 ∧ t.agate.log = [] ∧ t.agate.rebuilt = []
        ∧ fget t AGATE_GEN__GEN = (fget s AGATE_GEN__GEN + 1) % 2 ^ 32
        ∧ (∀ k, bankGet t true k = bankGet s false k) ∧ (∀ k, (∀ e, .upd k e ∉ a.held) → bankGet t false k = bankGet s true k)
        ∧ ∀ g, g < 16 → regionReached s g = true → ∃ m ∈ t.msgs, m.typ = .mgmt ∧ m.src = .hub ∧ m.dst = .region g
          ∧ m.mg = .gen ((fget s AGATE_GEN__GEN + 1) % 2 ^ 32))
      ∧ (st ≠ 4 ∨ allAcked s a.genWait = false ∨ oldPend s = true → exec .agateSwapped s = .next s)
      ∧ (st = 4 → allAcked s a.genWait = true → oldPend s = false → ∃ t, exec .agateSwapped s = .next t ∧ agateState t = 0
        ∧ t.agate = { a with genWait := 0 }
        ∧ (fbit s HUB_CNT_CTRL__SAT_EVT_EN = false → EventHeld s t evtAgateSwapped (fget s AGATE_GEN__GEN))
        ∧ AgateOnly { s with blood := t.blood } t fun off => stat off ∨ off = regOff AGATE_SWAP_COUNT 0 0))

/-- Topaz (R251 to R261). Clauses that are the model's own choice rest on logs 12, 30 and 33. -/
def Obligations.TopazKeepsSequencesPoolsAndAppends : Prop :=
  ∀ s : State,
    let busy := fun (t : State) (err : Nat) => t.topaz.cmd = none ∧ fbit t TOPAZ_CMD_STATUS__BUSY = false
      ∧ fget t TOPAZ_CMD_STATUS__ERR = if err = 0 then fget s TOPAZ_CMD_STATUS__ERR else err
    let cached := fun (q d : Nat) => ∃ x, s.topaz.cache.find? (fun x => x.1 = q) = some x ∧ x.2 = d
    let rows : List (Instr × Nat) := [(.topazOpen, 1), (.topazClose, 2), (.topazRead, 3), (.topazTruncate, 4)]
    let pushed := fun (t : State) (l : List Nat) => ∀ k, k < 288 → poolCount s k + (l.filter fun x => x = k).length ≤ poolSize s k →
      fget t TOPAZ_POOL_PTR__TAIL k = (fget s TOPAZ_POOL_PTR__TAIL k + (l.filter fun x => x = k).length) % 2 ^ 21
    (∀ i op, (i, op) ∈ rows →
      (s.topaz.cmd = none → exec i s = .next s)
      ∧ ∀ c, s.topaz.cmd = some c → (c.op ≠ op → exec i s = .next s)
        ∧ (c.op = op → fbit s TOPAZ_CTRL__ENABLE = false → ∃ t, exec i s = .next t ∧ busy t 2
          ∧ t.topaz = { s.topaz with cmd := none } ∧ RegsOnly { s with topaz := t.topaz } t
            fun off => off = regOff TOPAZ_CMD_STATUS 0 0))
    ∧ (∀ c, s.topaz.cmd = some c → fbit s TOPAZ_CTRL__ENABLE = true →
      let q := c.seq
      (c.op = 1 →
        let r := hubRead (bump s TOPAZ_CACHE_MISS_COUNT) 7 (descVa s q) 64
        let d := leNat r.2.bytes
        let new := setBits (setBits (staged s) 0 2 1) 32 32 (bitsOf d 32 32)
        let w := hubWrite r.1 (descVa s q) (leBytes 64 new) 0 7
        r.2.cause = 0 →
        (r.2.tag = 0 → bitsOf d 0 2 ≠ 0 → ∃ t, exec .topazOpen s = .next t ∧ busy t 2 ∧ VaultsKept r.1 t)
        ∧ (r.2.tag ≠ 0 ∨ bitsOf d 0 2 = 0 →
          (stagedOk (staged s) = false → ∃ t, exec .topazOpen s = .next t ∧ busy t 3 ∧ VaultsKept r.1 t)
          ∧ (stagedOk (staged s) = true → ∃ t, exec .topazOpen s = .next t ∧ busy t 0 ∧ VaultsKept w.1 t
            ∧ t.topaz.cache.head? = some (q, new))))
      ∧ (c.op = 3 →
        (∀ d, cached q d → ∃ t, exec .topazRead s = .next t ∧ busy t 0
          ∧ (∀ k, k < 8 → rget t TOPAZ_STAGE k = bitsOf d (64 * k) 64) ∧ VaultsKept s t)
        ∧ ((∀ d, ¬ cached q d) →
          let r := hubRead (bump s TOPAZ_CACHE_MISS_COUNT) 7 (descVa s q) 64
          (r.2.tag = 0 → r.2.cause = 0 → ∃ t, exec .topazRead s = .next t ∧ busy t 0 ∧ VaultsKept r.1 t
            ∧ ∀ k, k < 8 → rget t TOPAZ_STAGE k = bitsOf (leNat r.2.bytes) (64 * k) 64)
          ∧ (r.2.tag ≠ 0 → ∃ t, exec .topazRead s = .next t ∧ busy t 4 ∧ VaultsKept r.1 t ∧ EventHeld r.1 t evtSeqPoison q)))
      ∧ (c.op = 2 → ∀ d, cached q d →
        (bitsOf d 0 2 ≠ 1 → ∃ t, exec .topazClose s = .next t ∧ busy t 2 ∧ VaultsKept s t)
        ∧ (bitsOf d 0 2 = 1 → (∃ x ∈ s.topaz.flight, x.1 = q) → exec .topazClose s = .next s)
        ∧ (bitsOf d 0 2 = 1 → (∀ x ∈ s.topaz.flight, x.1 ≠ q) →
          let z := seqPages d ((List.range (dLayers d)).flatMap fun l => (List.range (dHeads d)).map fun k => (l, k)) s
          ∀ l, z.2 = some l → ∃ t, exec .topazClose s = .next t ∧ busy t 0 ∧ pushed t (l.map fun y => y.1)
            ∧ t.topaz.cache.head? = some (q, setBits (setBits d 0 2 0) 32 32 ((bitsOf d 32 32 + 1) % 2 ^ 32))))
      ∧ (c.op = 4 → ∀ d, cached q d →
        (bitsOf d 0 2 ≠ 1 → ∃ t, exec .topazTruncate s = .next t ∧ busy t 2 ∧ VaultsKept s t)
        ∧ (bitsOf d 0 2 = 1 → dLayers d ≤ c.layer ∨ dHeads d ≤ c.kvhead →
          ∃ t, exec .topazTruncate s = .next t ∧ busy t 3 ∧ VaultsKept s t)
        ∧ (bitsOf d 0 2 = 1 → c.layer < dLayers d → c.kvhead < dHeads d →
          (∃ x ∈ s.topaz.flight, x.1 = q ∧ x.2.1 = c.layer ∧ x.2.2.1 = c.kvhead) → exec .topazTruncate s = .next s)
        ∧ (bitsOf d 0 2 = 1 → c.layer < dLayers d → c.kvhead < dHeads d →
          (∀ x ∈ s.topaz.flight, ¬ (x.1 = q ∧ x.2.1 = c.layer ∧ x.2.2.1 = c.kvhead)) →
          let va := headVa d c.layer c.kvhead
          let r := hubRead s 7 va 32
          let h := leNat r.2.bytes
          let z := pagesFrom h 4096 ((c.len + 255) / 256) r.1
          r.2.tag = 0 → r.2.cause = 0 →
          (min (tailOf h 0) (tailOf h 1) < c.len → ∃ t, exec .topazTruncate s = .next t ∧ busy t 3 ∧ VaultsKept r.1 t)
          ∧ (c.len ≤ min (tailOf h 0) (tailOf h 1) → ∀ l, z.2 = some l → ∃ t, exec .topazTruncate s = .next t ∧ busy t 0
            ∧ pushed t (l.map fun _ => bitsOf h 64 9)
            ∧ (l = [] → VaultsKept (hubWrite z.1 va (leBytes 32 (setBits (setBits h 0 21 c.len) 32 21 c.len)) 0 7).1 t)))))
    ∧ (∀ (k : Fin 288) (v : BitVec 64),
      (poolSize s k ≤ poolCount s k → ∃ t, exec (.topazPoolPush k v) s = .next t
        ∧ RegsAndEvents s t (fun off => off = regOff TOPAZ_POOL_PTR k 0 ∨ off = regOff TOPAZ_POOL_DROP_COUNT 0 0)
        ∧ fbit t TOPAZ_POOL_PTR__FULL_ERR k = true
        ∧ rget t TOPAZ_POOL_DROP_COUNT = counterNext (rget s TOPAZ_POOL_DROP_COUNT) 1 % 2 ^ 64)
      ∧ (poolCount s k < poolSize s k → ∃ t, exec (.topazPoolPush k v) s = .next t
        ∧ fget t TOPAZ_POOL_PTR__TAIL k = (fget s TOPAZ_POOL_PTR__TAIL k + 1) % 2 ^ 21
        ∧ VaultsKept (hubWrite s (poolVa s k (fget s TOPAZ_POOL_PTR__TAIL k)) (leBytes 4 (bitsOf v.toNat 16 32)) 0 7).1 t
        ∧ (t.topaz.low.contains k.val = true ↔ poolCount t k ≤ fget s TOPAZ_POOL_CFG__LOW k * 16)))
    ∧ (∀ (p : Fin 288) (n : Nat),
      (tileRuns s p = false ∨ appendBy s p n = none → exec (.appendResolve p n) s = .next s ∧ exec (.appendDone p n) s = .next s)
      ∧ ∀ a, tileUp s p = true → appendBy s p n = some a →
        (a.res.isSome = true ∨ appendWaits s a = true ∨ firstAppend s a = false → exec (.appendResolve p n) s = .next s)
        ∧ (a.res = none → appendWaits s a = false → firstAppend s a = true → a.cause = 0 → fbit s TOPAZ_CTRL__ENABLE = true →
          (∀ c, s.topaz.cmd = some c → c.op ≠ 2 ∨ c.seq ≠ a.seq) → ∀ d, cached a.seq d →
          let ends := fun (u : State) (cause : Nat) => ∃ t y, exec (.appendResolve p n) s = .next t ∧ VaultsKept u t
            ∧ appendBy t p n = some y ∧ y.res = some [] ∧ y.cause = cause ∧ y.bad = true
          let r := hubRead s 7 (headVa d a.layer a.kvhead) 32
          let h := leNat r.2.bytes
          let lt := logField s p
          (bitsOf d 0 2 ≠ 1 → ends s 1)
          ∧ (bitsOf d 0 2 = 1 → dLayers d ≤ a.layer ∨ dHeads d ≤ a.kvhead → ends s 2)
          ∧ (bitsOf d 0 2 = 1 → a.layer < dLayers d → a.kvhead < dHeads d → r.2.tag = 0 → r.2.cause = 0 → bitOf h 73 = true →
            (bitsOf h 64 9 ≠ lt → ends r.1 3)
            ∧ (bitsOf h 64 9 = lt → (∃ i ∈ partsOf a.part, 256 * bitsOf h 128 13 < tailOf h i + a.ntok) → ends r.1 4)
            ∧ (bitsOf h 64 9 = lt → (∀ i ∈ partsOf a.part, tailOf h i + a.ntok ≤ 256 * bitsOf h 128 13) →
              (resolve s p a).2.cause = 0 → ∃ t y l, exec (.appendResolve p n) s = .next t ∧ appendBy t p n = some y
                ∧ y.res = some l ∧ y.cause = 0
                ∧ (l.map fun x => (x.1 % 65536, x.2)) = (partsOf a.part).flatMap (fun i => (List.range a.ntok).map fun k =>
                    (32768 * i + 128 * ((tailOf h i + k) % 256), pentVa h ((tailOf h i + k) / 256), i, k))
                ∧ ∀ i ∈ partsOf a.part, (a.seq, a.layer, a.kvhead, i, p.val, a.id) ∈ t.topaz.flight)))
        ∧ (a.res = none ∨ a.pend ≠ [] → exec (.appendDone p n) s = .next s)
        ∧ (a.res.isSome = true → a.pend = [] →
          let gone := fun (t : State) => appendBy t p n = none ∧ ∀ x ∈ t.topaz.flight, x.2.2.2.2.2 ≠ n
          (a.bad = true → ∃ t, exec (.appendDone p n) s = .next t ∧ VaultsKept s t ∧ gone t
            ∧ rget t TOPAZ_APPEND_FAIL_COUNT = counterNext (rget s TOPAZ_APPEND_FAIL_COUNT) 1 % 2 ^ 64)
          ∧ (a.bad = false → ∀ d, cached a.seq d →
            let va := headVa d a.layer a.kvhead
            let r := hubRead s 7 va 32
            let h := leNat r.2.bytes
            let new := (partsOf a.part).foldl (fun x i => setBits x (32 * i) 21 (tailOf x i + a.ntok)) h
            r.2.tag = 0 → r.2.cause = 0 → ∃ t, exec (.appendDone p n) s = .next t ∧ gone t
              ∧ VaultsKept (hubWrite r.1 va (leBytes 32 new) 0 7).1 t
              ∧ ∀ c, cmdBy (tileOf s p) a.unit a.cmd = some c → c.apps = [a.id] → c.faulted = false → c.stopped = false →
                  Ended t p a.unit c true)))

/-- The binding table and the standby set (R365). -/
def Obligations.BindingWritesObeyTheirRules : Prop :=
  ∀ (s : State) (g : Fin 16) (k : Fin 18) (v : BitVec 64),
    let slot := v.toNat % 32
    let bind := fset (fset s REGION_BIND__SLOT slot g k) REGION_BIND__BOUND (v.toNat / 256 % 2) g k
    let stand := fset s REGION_STANDBY__MASK (v.toNat % 2 ^ 18) g
    let beyond := v.getLsbD 8 = true ∧ 18 ≤ slot
    (domOn s (288 + g) = false → exec (.regionBindWrite g k v) s = .next s ∧ exec (.regionStandbyWrite g v) s = .next s)
    ∧ (domOn s (288 + g) = true →
      (BindingHeld s g ∨ beyond ∨ BindingBroken bind g →
        ∃ t, exec (.regionBindWrite g k v) s = .next t ∧ FieldWritten s t REGION_FENCE__BIND_ERR 1 g 0)
      ∧ (¬ BindingHeld s g → ¬ beyond → ¬ BindingBroken bind g → exec (.regionBindWrite g k v) s = .next bind)
      ∧ (BindingHeld s g ∨ BindingBroken stand g →
        ∃ t, exec (.regionStandbyWrite g v) s = .next t ∧ FieldWritten s t REGION_FENCE__BIND_ERR 1 g 0)
      ∧ (¬ BindingHeld s g → ¬ BindingBroken stand g → exec (.regionStandbyWrite g v) s = .next stand))

/-- Fences (R363, R364), recovery (R366, R370, R374) and parity (R367, R368). Clauses that are the model's own choice rest on
logs 42 and 76. -/
def Obligations.AFencedTileIsRecoveredOnAStandby : Prop :=
  ∀ s : State,
    let noSat := fbit s HUB_CNT_CTRL__SAT_EVT_EN = false
    let bh := fget s BH_STATUS__STATE
    (∀ p : Fin 288,
      let g := p.val / 18
      let k := p.val % 18
      ((tileOf s p).reports = [] ∨ domOn s (288 + g) = false → exec (.fence p) s = .next s)
      ∧ ∀ r rest, (tileOf s p).reports = r :: rest → domOn s (288 + g) = true →
        (fenced s p = true → exec (.fence p) s = .next { s with
          tiles := smSet s.tiles p { tileOf s p with reports := rest } })
        ∧ (fenced s p = false → ∃ t, exec (.fence p) s = .next t ∧ fenced t p = true
          ∧ (∀ q, q < 288 → q ≠ p.val → fenced t q = fenced s q) ∧ (tileOf t p).reports = rest ∧ (tileOf t p).waiting = []
          ∧ rget t REGION_FENCE_LOG g = rget s TILE_FAULT p % 2 ^ 64 ∧ rget t REGION_FENCE_INFO g = rget s TILE_FAULT_INFO p % 2 ^ 64
          ∧ (noSat → EventHeld s t evtTileFenced (g + k * 2 ^ 4 + r.code * 2 ^ 16 + 2 ^ 24))
          ∧ t.blood.logQ = s.blood.logQ ++ (if r.code = 0x4D then [] else [tileBadRec p])
          ∧ ((routeOf s (.region g) .hub).any (fun l => linkDown s l) = false →
            ∃ m ∈ t.msgs, m.typ = .mgmt ∧ m.src = .region g ∧ m.dst = .hub ∧ m.mg = .report k r.code 1)
          ∧ VaultsKept s t ∧ SpinelSame s t))
    ∧ (compUp s 2 = false → ∀ c ∈ [Instr.quiesce, .bhBind, .bhRebuild, .bhRelease], exec c s = .next s)
    ∧ (compUp s 2 = true →
      (s.blood.reports = [] ∨ bh ≠ 0 ∨ fbit s BH_CTRL__RECOVER_EN = false ∨ devFailed s = true ∨ stopHeld s = true →
        exec .quiesce s = .next s)
      ∧ (∀ r rest, s.blood.reports = r :: rest → bh = 0 → fbit s BH_CTRL__RECOVER_EN = true → devFailed s = false →
        stopHeld s = false → r.again = none → r.region < 16 → r.slot < 18 →
        let p := r.region * 18 + r.slot
        (logOf s p = none → ∃ t, exec .quiesce s = .next t ∧ t.blood = { s.blood with reports := rest }
          ∧ FieldWritten { s with blood := t.blood } t BH_STATUS__QUEUED (rest.length % 32) 0 0)
        ∧ (∀ lt, logOf s p = some lt → ∃ t x, exec .quiesce s = .next t ∧ t.blood.reports = rest ∧ t.blood.recov = some x
          ∧ x.ltile = some lt ∧ x.standby = none ∧ x.src = p ∧ x.swapped = false ∧ fget t BH_STATUS__STATE = 1
          ∧ fget t BH_STATUS__LOST = p ∧ TilesAborted s t ∧ VaultsKept s t ∧ t.kelpie = s.kelpie))
      ∧ (s.blood.recov = none → exec .bhBind s = .next s ∧ exec .bhRebuild s = .next s ∧ exec .bhRelease s = .next s)
      ∧ (∀ r lt, s.blood.recov = some r → r.ltile = some lt → lt < 288 →
        let g := lt / 18
        ((bh ≠ 1 ∧ bh ≠ 2) ∨ (∃ p, p < 288 ∧ tileRuns s p = true ∧ fbit s TILE_COLLIE_STATUS__QUIET p = false)
          ∨ agateState s ≠ 0 → exec .bhBind s = .next s)
        ∧ (bh = 1 ∨ bh = 2 → (∀ p, p < 288 → tileRuns s p = true → fbit s TILE_COLLIE_STATUS__QUIET p = true) →
          agateState s = 0 → r.standby = none →
          (∀ k, LowestStandby s g k → ∃ t, exec .bhBind s = .next t ∧ fget t BH_STATUS__STATE = 3
            ∧ t.blood = { s.blood with recov := some { r with standby := some (g * 18 + k) } }
            ∧ fget t REGION_BIND__SLOT g (lt % 18) = k ∧ bitOf (fget t REGION_STANDBY__MASK g) k = false
            ∧ (∀ j, j < 18 → j ≠ k → bitOf (fget t REGION_STANDBY__MASK g) j = bitOf (fget s REGION_STANDBY__MASK g) j)
            ∧ bitOf (fget t REGION_FENCE__REBUILDING g) k = true ∧ agateState t = 1 ∧ t.agate.log = []
            ∧ t.tiles = s.tiles ∧ VaultsKept s t ∧ SpinelSame s t)
          ∧ ((∀ k, ¬ LowestStandby s g k) → ∃ t, exec .bhBind s = .next t ∧ t.blood.recov = none
            ∧ fget t BH_STATUS__STATE = 0 ∧ (noSat → EventHeld s t evtCapacityReduced (r.rep.region + r.rep.slot * 2 ^ 4)))))
      ∧ (∀ r b, s.blood.recov = some r → r.standby = some b → b < 288 →
        let left := fget s BH_STATUS__PAGES_LEFT
        (bh ≠ 4 → (bh ≠ 3 ∨ r.swapped = false) → exec .bhRebuild s = .next s)
        ∧ (bh = 3 → r.swapped = true → ∃ t x, exec .bhRebuild s = .next t ∧ fget t BH_STATUS__STATE = 4
          ∧ t.blood.recov = some x ∧ x.next = 0 ∧ x.lost = 0
          ∧ fget t BH_STATUS__PAGES_LEFT = (entriesOn s b 0).length % 2 ^ 12)
        ∧ (bh = 4 → entriesOn s b r.next = [] → ∃ t, exec .bhRebuild s = .next t
          ∧ FieldWritten s t BH_STATUS__PAGES_LEFT 0 0 0)
        ∧ (bh = 4 → ∀ i rest, entriesOn s b r.next = i :: rest →
          let e := entryAt s i
          ∃ t x, exec .bhRebuild s = .next t ∧ t.blood.recov = some x ∧ x.next = i + 1 ∧ fget t BH_STATUS__STATE = 4
            ∧ fget t BH_STATUS__PAGES_LEFT = rest.length % 2 ^ 12
            ∧ (entKind e = 0 ∨ entKind e = 3 → x.lost = r.lost
              ∧ t.chans = (forS (List.range 1024) (fun w u => putWin u e w (zeroWin 3)) s).chans ∧ VaultsKept s t))
        ∧ (bh ≠ 4 ∨ left ≠ 0 ∨ vaultBusy s b = true → exec .bhRelease s = .next s)
        ∧ (bh = 4 → left = 0 → vaultBusy s b = false → ∃ t, exec .bhRelease s = .next t ∧ fget t BH_STATUS__STATE = 0 ∧ t.blood.recov = none
          ∧ bitOf (fget t REGION_FENCE__REBUILDING (b / 18)) (b % 18) = false
          ∧ rget t BH_RECOVERY_COUNT = counterNext (rget s BH_RECOVERY_COUNT) 1 % 2 ^ 64
          ∧ (noSat → r.lost = 0 → EventHeld s t evtRecoveryDone
            (r.ltile.getD 0 + b * 2 ^ 9 + fget s BH_REPLAY_STATUS__COUNT * 2 ^ 32))
          ∧ t.tiles = s.tiles ∧ VaultsKept s t ∧ SpinelSame s t)))
    ∧ (∀ i build, (i, build) ∈ [(Instr.parityBuild, true), (.parityVerify, false)] →
      let n := fget s BH_PARITY_CMD__FIRST_GROUP
      let count := fget s BH_PARITY_CMD__COUNT
      let l := groupOf s n
      let stops := fun (cause group : Nat) => ∃ t, exec i s = .next t
        ∧ fbit t BH_PARITY_STATUS__ERR = true ∧ fget t BH_PARITY_STATUS__CAUSE = cause
        ∧ fget t BH_PARITY_STATUS__BAD_GROUP = group % 2 ^ 15
        ∧ fget t BH_PARITY_STATUS__MISMATCH = 0 ∧ RegsOnly s t fun off => off = regOff BH_PARITY_STATUS 0 0
      ((∀ k, k < count → n + k < 32768 → noGroup (groupOf s (n + k)) = true) →
        (n + count ≤ 32768 → ∃ t, exec i s = .next t ∧ FieldWritten s t BH_PARITY_STATUS__MISMATCH 0 0 0)
        ∧ (32768 < n + count → stops 1 32768))
      ∧ (0 < count → noGroup l = false → goodGroup l = false → stops 1 n)
      ∧ (0 < count → noGroup l = false → goodGroup l = true → parityShut s l = true → stops 2 n)
      ∧ (count = 1 → noGroup l = false → goodGroup l = true → parityShut s l = false →
        let es := (l.filter fun x => !build || entKind x.2 = 1).map fun x => x.2
        let r := readPages (parityTile l) es (List.range 1024) (fset s BH_PARITY_STATUS__MISMATCH 0)
        (r.2.1 ≠ 0 → ∃ t, exec i s = .next t ∧ fbit t BH_PARITY_STATUS__ERR = true
          ∧ fget t BH_PARITY_STATUS__CAUSE = r.2.1 % 4 ∧ VaultsKept r.1 t)
        ∧ (r.2.1 = 0 → ∃ t, exec i s = .next t
          ∧ (build = true → ∀ x ∈ l, entKind x.2 = 2 →
            VaultsKept r.1 t ∧ t.chans = (forS r.2.2.zipIdx (fun w u => mergeAll u x.2 w.2 w.1) r.1).chans)
          ∧ (build = false → VaultsKept r.1 t ∧ fget t BH_PARITY_STATUS__MISMATCH
            = if ∃ w ∈ r.2.2, ∃ z ∈ xorAll w, ∃ y ∈ z.data, y ≠ 0 then 1 else 0))))

/-- Region faults (R377), draining and reset of a die (R380), isolation (R378) and loss of a die (R379). Clauses that are the
model's own choice rest on logs 42 and 65. -/
def Obligations.RegionsAndDiesFailAndDrain : Prop :=
  ∀ s : State, MemsCanonical s →
    let noSat := fbit s HUB_CNT_CTRL__SAT_EVT_EN = false
    let dieReg := fun (off : Nat) => off = regOff BH_DIE_STATUS 0 0
    (∀ (g : Fin 16) (code : BitVec 8),
      (code = 0 ∨ 3 < code.toNat ∨ fbit s REGION_FAULT__VALID g = true ∨ fbit s REGION_FENCE__REGION_FENCED g = true →
        exec (.regionFault g code) s = .next s)
      ∧ (1 ≤ code.toNat → code.toNat ≤ 3 → fbit s REGION_FAULT__VALID g = false → fbit s REGION_FENCE__REGION_FENCED g = false →
        let tiles := (List.range 18).map fun k => g.val * 18 + k
        ∃ t, exec (.regionFault g code) s = .next t ∧ fbit t REGION_FAULT__VALID g = true
          ∧ fget t REGION_FAULT__CODE g = code.toNat ∧ fbit t REGION_FENCE__REGION_FENCED g = true
          ∧ (∀ p, p < 288 → fenced t p = (decide (p / 18 = g.val) || fenced s p)) ∧ TilesAborted s t
          ∧ t.blood.logQ = s.blood.logQ ++ (tiles.filter fun p => tileGood s p).map tileBadRec
          ∧ (noSat → fbit s HOST_EVT_CFG__ENABLE = false → s.host.evtBuf.length < 255 → t.host.evtBuf = s.host.evtBuf
            ++ [⟨evtRegionFenced, s.host.evtSeq, now s, g.val + code.toNat * 2 ^ 8⟩,
              ⟨evtCapacityReduced, (s.host.evtSeq + 1) % 2 ^ 32, now s, g.val + 0x1F * 2 ^ 4⟩])
          ∧ VaultsKept s t ∧ SpinelSame s t))
    ∧ (∀ d : Fin 4,
      let runs := ∃ p, p / 72 = d.val ∧ (tileState s p = 1 ∨ tileState s p = 2 ∨ fbit s TILE_COLLIE_CTRL__ARM p = true)
      let named := ∃ x ∈ (if activeBank s then s.agate.bank1 else s.agate.bank0),
        entValid (entryAt s x.1) = true ∧ entTile (entryAt s x.1) / 72 = d.val
      let other := fget s BH_STATUS__STATE ≠ 0 ∨ (∃ e, e < 4 ∧ (dieState s e = 1 ∨ dieState s e = 3)) ∨ dieState s d ≠ 0
      let refused := fun (i : Instr) (c : Nat) => ∃ t, exec i s = .next t ∧ fbit t BH_DIE_STATUS__ERR = true
        ∧ fget t BH_DIE_STATUS__CAUSE = c ∧ (∀ e, e < 4 → dieState t e = dieState s e) ∧ RegsOnly s t dieReg
      (runs → refused (.dieDrain d) 1)
      ∧ (¬ runs → named → refused (.dieDrain d) 2)
      ∧ (¬ runs → ¬ named → other → refused (.dieDrain d) 3)
      ∧ (¬ runs → ¬ named → ¬ other → ∃ t, exec (.dieDrain d) s = .next t ∧ dieState t d = 1
        ∧ (∀ e, e < 4 → e ≠ d.val → dieState t e = dieState s e) ∧ RegsOnly s t dieReg)
      ∧ (dieState s d ≠ 1 ∨ dieIdle s d = false → exec (.dieDrained d) s = .next s)
      ∧ (dieState s d = 1 → dieIdle s d = true → ∃ u, exec (.dieDrained d) s = .next (postEvent u evtDieDrained d)
        ∧ dieState u d = 2 ∧ (∀ n ∈ dieDomains d, domOn u n = false) ∧ ∀ b ∈ dieBridges d, linkState u b = 0)
      ∧ (∀ full, (dieState s d ≠ 2 → refused (.dieReset d full) 3)
        ∧ (dieState s d = 2 → ∃ t, exec (.dieReset d full) s = .next t ∧ dieState t d = 3
          ∧ fbit t BH_DIE_CMD__FULL = full ∧ t.blood.isolated.contains d.val = false
          ∧ (pdState s (304 + d) = 0 → stopHeld s = false → s.boot.resetLow = none → 304 + d.val ∉ s.boot.excluded →
            domOn t (304 + d) = true)
          ∧ t.tiles = s.tiles ∧ t.msgs = s.msgs))
      ∧ (∀ up bad ecc rows,
        (dieState s d ≠ 3 ∨ domOn s (304 + d) = false ∨ compUp s 2 = false → exec (.dieReady d up bad ecc rows) s = .next s)
        ∧ (dieState s d = 3 → domOn s (304 + d) = true → compUp s 2 = true →
          (up.getLsbD 0 = false → ∃ t, exec (.dieReady d up bad ecc rows) s = .next t ∧ dieState t d = 3 ∧ linkState t d = 0
            ∧ t.tiles = s.tiles ∧ VaultsKept s t)
          ∧ (up.getLsbD 0 = true → ∃ u, exec (.dieReady d up bad ecc rows) s = .next (postEvent u evtDieReady d)
            ∧ dieState u d = 0 ∧ linkState u d = 2 ∧ fget u SEQ_MEMTEST__FULL = fget s BH_DIE_CMD__FULL
            ∧ (∀ g, g < 16 → g / 4 ≠ d.val →
              bitOf (fget u SEQ_MEMTEST__LOW_BAND) g = bitOf (fget s SEQ_MEMTEST__LOW_BAND) g)
            ∧ (∀ g, g / 4 = d.val → fget u REGION_JASPER_STATUS__MODE g = 0)
            ∧ (∀ g k, g / 4 = d.val → k < 18 → fbit u REGION_BIND__BOUND g k = false ∧ fget u REGION_STANDBY__MASK g = 0)
            ∧ ∀ p, p / 72 = d.val → domOn u p = true → fbit u TILE_VAULT_STATUS__TRAINED p = true)))
      ∧ (domOn s (304 + d) = false ∨ s.blood.isolated.contains d.val = true → exec (.clockLoss d) s = .next s)
      ∧ (domOn s (304 + d) = true → s.blood.isolated.contains d.val = false →
        ∃ t, exec (.clockLoss d) s = .next t ∧ t.blood = { s.blood with isolated := d.val :: s.blood.isolated }
          ∧ ∀ p, p / 72 = d.val → tileUp t p = false ∧ tileQuiet (tileOf t p) = true
            ∧ (∀ x, x < 2 ^ 32 → memGet t.vaultData (p * 2 ^ 32 + x) = 0)
            ∧ ∀ w, w < spWords → spTagOf t p w = 0)
      ∧ (∀ cause : BitVec 4,
        (dieState s d ≠ 0 ∨ lossSeen s d cause.toNat = false → exec (.dieLost d cause) s = .next s)
        ∧ (dieState s d = 0 → lossSeen s d cause.toNat = true → ∃ t, exec (.dieLost d cause) s = .next t
          ∧ dieState t d = 4 ∧ (∀ b ∈ dieBridges d, linkState t b = 0) ∧ devFailed t = true ∧ t.blood.isolated.contains d.val = true
          ∧ (fbit s BH_DEV_FAULT__VALID = false →
            rget t BH_DEV_FAULT = 1 + 1 * 2 ^ 8 + d.val * 2 ^ 16 + cause.toNat * 2 ^ 18)
          ∧ (fbit s BH_DEV_FAULT__VALID = true → rget t BH_DEV_FAULT = rget s BH_DEV_FAULT)
          ∧ (∀ p, p < 288 → p / 72 ≠ d.val → tileState t p ≠ 1 ∧ fbit t TILE_COLLIE_CTRL__ARM p = false)
          ∧ t.host.cmds = [] ∧ (noSat → EventHeld s t evtDeviceFailed (d.val + 1 * 2 ^ 8 + cause.toNat * 2 ^ 16)))))

/-- Sensors (R384 to R388), thresholds (R389, R390), the orderly stop (R405, R406) and the analog trip (R407). Clauses that are
the model's own choice rest on logs 43 and 77. -/
def Obligations.TemperaturesThrottleAndStop : Prop :=
  ∀ s : State, MemsCanonical s →
    let broken := fun (i : Nat) => fbit s HUSKY_SENSOR__BROKEN i
    let reg := fun (i : Nat) (off : Nat) => off = regOff HUSKY_SENSOR i 0
    let reads115 := fun (t : State) (i : Nat) => fget t HUSKY_SENSOR__TEMP i = 0x398 ∧ fget t HUSKY_SENSOR__RATE i = 0
      ∧ fbit t HUSKY_SENSOR__BROKEN i = true
    (∀ (i : Fin 1000) (a b : Int),
      let run := exec (.sensorSelfCheck i a b) s
      let h := { s.husky with selfPrev := smSet s.husky.selfPrev i (a, b) }
      let good := -320 ≤ a ∧ a ≤ 1200 ∧ 160 ≤ max a b - min a b ∧ max a b - min a b ≤ 240
        ∧ smFind s.husky.selfPrev i ≠ some (a, b)
      (s.husky.monOn = false ∨ sensorOn s i = false → run = .next s)
      ∧ (s.husky.monOn = true → sensorOn s i = true → good → run = .next { s with husky := h })
      ∧ (s.husky.monOn = true → sensorOn s i = true → ¬ good → ∃ t, run = .next t ∧ reads115 t i ∧ RegsAndEvents { s with husky := h } t (reg i)
        ∧ (broken i = false → EventHeld s t evtSensorBroken i)))
    ∧ (∀ raw : List Int, raw.length = 1000 → s.husky.monOn = false → exec (.thermalSample raw) s = .next s)
    ∧ (∀ raw : List Int, raw.length = 1000 → s.husky.monOn = true → ∃ t, exec (.thermalSample raw) s = .next t
      ∧ (∀ i, i < 1000 →
        let x := raw.getD i 0
        let old := smGet s.husky.hist i []
        let v := x + smGet s.boot.sensorCal i 0
        (sensorOn s i = false → sensorValid t i = false)
        ∧ (sensorOn s i = true → broken i = true ∨ x < -320 ∨ 1200 < x → sensorValid t i = true ∧ reads115 t i)
        ∧ (sensorOn s i = true → broken i = false → -320 ≤ x → x ≤ 1200 → sensorValid t i = true
          ∧ fget t HUSKY_SENSOR__TEMP i = ofInt 12 v ∧ fbit t HUSKY_SENSOR__BROKEN i = false
          ∧ fget t HUSKY_SENSOR__RATE i = ofInt 12 (match old[19]? with
            | some y => v - y
            | none => 0)
          ∧ smGet t.husky.hist i [] = (v :: old).take 20))
      ∧ (∀ p i, p < 288 → Hottest t (fun j => j / 3 = p) i →
        fget t HUSKY_TILE__MAX p = fget t HUSKY_SENSOR__TEMP i ∧ fget t HUSKY_TILE__SENSOR p = i % 3)
      ∧ (∀ i, Hottest t (fun j => j < 1000) i →
        fget t HUSKY_DEV_MAX__TEMP = fget t HUSKY_SENSOR__TEMP i ∧ fget t HUSKY_DEV_MAX__SENSOR = i)
      ∧ (s.husky.stoppedAt = none → ∀ g i, g < 16 →
        (Hottest t (fun j => j / 54 = g) i → i < 864 → fget t REGION_THERM__LOGIC_MAX g = fget t HUSKY_SENSOR__TEMP i
          ∧ fget t REGION_THERM__SLOT g = i % 54 / 3)
        ∧ (Hottest t (fun j => 864 ≤ j ∧ j < 992 ∧ (j - 864) / 8 = g) i → fget t REGION_DRAM_BAND__MAX_LAYER g = i % 8
          ∧ (8 * (bandEdgeOf s 2 : Int) ≤ tempOf t i → fget t REGION_DRAM_BAND__BAND g = 2)))
      ∧ ((∃ k i, k < 4 ∧ StopSensor t k i) →
        (∀ k, k < 4 → ((bitOf (fget t HUSKY_STATUS__STOP_CAUSE) k = true) ↔
          (∃ i, StopSensor t k i) ∨ (stopHeld s = true ∧ bitOf (fget s HUSKY_STATUS__STOP_CAUSE) k = true)))
        ∧ stopHeld t = true ∧ (stopHeld s = false → StopBegun s t)
        ∧ rget t HUSKY_THROTTLE_COUNT = rget s HUSKY_THROTTLE_COUNT)
      ∧ ((∀ k i, k < 4 → ¬ StopSensor t k i) →
        stopHeld t = stopHeld s ∧ fget t HUSKY_STATUS__STOP_CAUSE = fget s HUSKY_STATUS__STOP_CAUSE
        ∧ rget t HUSKY_STOP_COUNT = rget s HUSKY_STOP_COUNT
        ∧ (∀ i, 992 ≤ i → ThrottleSensor t i → t.husky.demandMax = true)
        ∧ ∀ p, p < 288 →
          let hot := ∃ i, ThrottleSensor t i ∧ (i / 3 = p ∨ (864 ≤ i ∧ i < 992 ∧ (i - 864) / 8 = p / 18))
          (hot → (tileOf t p).dutyThermal = min (tileOf s p).dutyThermal (fget s HUSKY_THRESH__DUTY_THROTTLE))
          ∧ (¬ hot → (tileOf s p).dutyThermal ≤ 64 →
            (tileOf s p).dutyThermal ≤ (tileOf t p).dutyThermal ∧ (tileOf t p).dutyThermal ≤ 64)
          ∧ fget t HUSKY_TILE__DUTY p = dutyNow t p % 128))
    ∧ (stopHeld s = true → ∃ t, exec .huskyStop s = .next t
      ∧ FieldWritten s t HUSKY_STATUS__STOP_CAUSE (fget s HUSKY_STATUS__STOP_CAUSE ||| 64) 0 0)
    ∧ (stopHeld s = false → ∃ t, exec .huskyStop s = .next t ∧ fget t HUSKY_STATUS__STOP_CAUSE = 64 ∧ StopBegun s t
      ∧ VaultsKept s t ∧ SpinelSame s t)
    ∧ (s.husky.stopAt = none → exec .stopComplete s = .next s)
    ∧ (∀ a, s.husky.stopAt = some a → allQuiet s = false → now s < a + 200000 → exec .stopComplete s = .next s)
    ∧ (∀ a, s.husky.stopAt = some a → allQuiet s = true ∨ a + 200000 ≤ now s →
      ∃ u, exec .stopComplete s = .next (postEvent u evtThermalStop (fget s HUSKY_STATUS__STOP_CAUSE))
        ∧ fget u HUSKY_STATUS__STATE = 2 ∧ u.husky.stopAt = none ∧ u.husky.stoppedAt = some (now s)
        ∧ rget u HUSKY_STOP_REC0 = now s % 2 ^ 64 ∧ fget u HUSKY_STOP_REC1__CAUSE = fget s HUSKY_STATUS__STOP_CAUSE
        ∧ fget u HUSKY_STOP_REC1__TEMP = fget s HUSKY_DEV_MAX__TEMP ∧ fget u HUSKY_STOP_REC1__SENSOR = fget s HUSKY_DEV_MAX__SENSOR
        ∧ (∀ r ∈ s.husky.requests, r.op = 1 → u.husky.requests = [] ∧ fget u HUSKY_PD_CMD__CAUSE = 6
          ∧ fbit u HUSKY_PD_CMD__ERR = true ∧ fbit u HUSKY_PD_STATE__CHANGING r.domain = false)
        ∧ ∀ n, n < 325 → if n < 288 ∨ 317 ≤ n then domOn u n = false else pdState u n = pdState s n)
    ∧ (let may := s.husky.stopAt = none
        ∧ (∀ i, i < 1000 → fbit s HUSKY_SENSOR__BROKEN i = false
          ∧ (sensorValid s i = true → tempOf s i ≤ 8 * ((fget s HUSKY_THRESH__TJ_THROTTLE : Int) - 10)))
        ∧ (∀ g, g < 16 → fget s REGION_DRAM_BAND__BAND g ≠ 2) ∧ ∃ a, s.husky.flowOkSince = some a ∧ a + 1000000000 ≤ now s
      (¬ may → ∃ t, exec .huskyResume s = .next t ∧ FieldWritten s t HUSKY_STATUS__ERR 1 0 0)
      ∧ (may → ∃ t, exec .huskyResume s = .next t
        ∧ stopHeld t = false ∧ fbit t HUSKY_STATUS__ERR = fbit s HUSKY_STATUS__ERR
        ∧ (∀ n, n < 325 → pdState t n ≠ pdState s n →
          n ∈ s.husky.resumeOn ∧ pdState s n = 0 ∧ pdState t n = 1 ∧ mayBeOn t n = true)
        ∧ (∀ n ∈ s.husky.resumeOn, pdState s n = 0 → mayBeOn s n = true → s.boot.resetLow = none →
          pdState t n = 1 ∨ n ∈ t.husky.resumeOn)
        ∧ (∀ n ∈ t.husky.resumeOn, n ∈ s.husky.resumeOn ∧ pdState t n = 0 ∧ t.husky.rampUp < Config.staticMw n)
        ∧ ∀ p, p < 288 → fget t HUSKY_TILE__DUTY p = dutyNow t p % 128))
    ∧ (∃ t, exec .thermtrip s = .next t ∧ t.boot = { s.boot with tripLow := true }
      ∧ FieldWritten { s with boot := t.boot } t HUSKY_STATUS__TRIPPED 1 0 0)

/-- The predictive model (R394), power (R395 to R398), telemetry (R475) and the coolant loop (R401 to R404). Clauses that are
the model's own choice rest on logs 7, 44, 45 and 77. -/
def Obligations.PowerIsEstimatedCappedAndCooled : Prop :=
  ∀ s : State, MemsCanonical s →
    let noSat := fbit s HUB_CNT_CTRL__SAT_EVT_EN = false
    let grade := gradeW s
    let nom := fget s HUSKY_TRAY_CFG__NOM_FLOW
    let tau := fget s HUSKY_TRAY_CFG__TAU * 1000000
    let margin := fget s HUSKY_THRESH__MARGIN
    let cap := fun (t : State) =>
      let c := min (min grade (fget t HUSKY_PCAP__USER_W)) (t.husky.flowCap.getD grade)
      (if fbit t HUSKY_STATUS__TRAY_LOST then min c (grade / 2) else c) % 2 ^ 16
    let duties := fun (t : State) => ∀ p, p < 288 → fget t HUSKY_TILE__DUTY p = dutyNow t p % 128
    let tileReg := fun (off : Nat) => ∃ p, p < 288 ∧ off = regOff HUSKY_TILE p 0
    let missed := fun (t : State) =>
      rget t HUSKY_TRAY_MISS_COUNT = counterNext (rget s HUSKY_TRAY_MISS_COUNT) 1 % 2 ^ 64 ∧ t.husky.missing = s.husky.missing + 1
        ∧ t.husky.valid = 0 ∧ t.husky.reportAt = now s ∧ t.husky.flows = s.husky.flows ∧ t.husky.flowCap = s.husky.flowCap
        ∧ fbit t HUSKY_STATUS__TRAY_LOST = (fbit s HUSKY_STATUS__TRAY_LOST || decide (5 ≤ s.husky.missing + 1))
        ∧ (fbit s HUSKY_STATUS__TRAY_LOST = false → 5 ≤ s.husky.missing + 1 → fget t HUSKY_STATUS__EFF_CAP_W = cap t)
    (compUp s 1 = false → exec .powerEstimate s = .next s ∧ exec .trayReportMissing s = .next s
      ∧ ∀ f, exec (.trayReport f) s = .next s)
    ∧ (compUp s 1 = false ∨ fbit s HUSKY_CTRL__PREDICT_EN = false → exec .modelStep s = .next s)
    ∧ (compUp s 1 = true → fbit s HUSKY_CTRL__PREDICT_EN = true → ∃ t, exec .modelStep s = .next t
      ∧ t.husky.modelNo = s.husky.modelNo + 1 ∧ duties t ∧ VaultsKept s t ∧ SpinelSame s t ∧ t.msgs = s.msgs
      ∧ margin ≤ fget t HUSKY_THRESH__MARGIN ∧ t.husky.rampUp ≤ s.husky.rampUp
      ∧ (∀ g n, g < 16 → n < 27 → smGet t.husky.nodes (g * 27 + n) 0
        = Config.rcNode false g n (nodesOf s g) (regionMw s g) (inletOf s) (fget s HUSKY_TRAY_STATUS__FLOW))
      ∧ (∀ g n i x a, g < 16 → n < 26 → i ∈ nodeSensors g n → (smGet s.husky.predicted (g * 27 + n) [])[49]? = some x →
        sensorValid s i = true → x + 8 * 3 < tempOf s i → smFind s.husky.driftSince i = some a → a + 100000000 ≤ now s →
        min 16 (2 * margin) ≤ fget t HUSKY_THRESH__MARGIN)
      ∧ ∀ g, g < 16 →
        let duty := fun (st : State) (k : Nat) => (tileOf st (g * 18 + k)).dutyModel
        let meets := fun (k d : Nat) => predict t g k (mwWith s g k d (regionMw s g)) < tileBound t
        let rise := (s.husky.modelNo + 1) % 10 = 0
        (∀ k, k < 18 → duty t k ≤ if rise then max (duty s k) (min 64 (duty s k + 4)) else duty s k)
        ∧ (¬ rise → (∀ k, k < 18 → meets k (duty s k)) →
          (∀ l, l < 8 → predict t g (18 + l) (regionMw s g) < 8 * (fget s HUSKY_THRESH__DRAM_LIMIT : Int)) →
          ∀ k, k < 18 → duty t k = duty s k)
        ∧ (¬ rise → fget t HUSKY_THRESH__MARGIN = margin → ∀ k, k < 18 → (∀ j, j < k → meets j (duty s j)) → ¬ meets k (duty s k) →
          duty t k = 0 ∨ ∃ d, duty t k ≤ d ∧ d < duty s k ∧ meets k d))
    ∧ (compUp s 1 = true → ∃ t, exec .powerEstimate s = .next t
      ∧ duties t ∧ fget t HUSKY_POWER__EST_W = deviceMw t / 1000 % 2 ^ 16 ∧ fget t HUSKY_STATUS__EFF_CAP_W = cap s
      ∧ t.husky.estNo = s.husky.estNo + 1
      ∧ t.husky.rampUp ≤ fget s HUSKY_RAMP__RAMP * 100 ∧ t.husky.rampDown ≤ fget s HUSKY_RAMP__RAMP * 100
      ∧ (let low := s.husky.capLow = true ∨ ∃ p, (tileOf s p).dutyCap < 64
        let ends := (s.husky.estNo + 1) % 10 = 0
        (t.husky.capLow = true ↔ ¬ ends ∧ low)
          ∧ (ends → low → rget t HUSKY_CAP_MS_COUNT = counterNext (rget s HUSKY_CAP_MS_COUNT) 1 % 2 ^ 64)
          ∧ (¬ ends ∨ ¬ low → rget t HUSKY_CAP_MS_COUNT = rget s HUSKY_CAP_MS_COUNT))
      ∧ (∀ n ∈ t.husky.resumeOn, n ∈ s.husky.resumeOn)
      ∧ (∀ n, n < 325 → pdState t n ≠ pdState s n → n ∈ s.husky.resumeOn ∧ stopHeld s = false ∧ pdState t n = 1)
      ∧ (s.husky.resumeOn = [] ∨ stopHeld s = true →
        (∃ up down low, t.husky = { s.husky with estNo := s.husky.estNo + 1, rampUp := up, rampDown := down, capLow := low })
        ∧ RegsAndEvents { s with tiles := t.tiles, husky := t.husky } t (fun off => off = regOff HUSKY_POWER 0 0
          ∨ off = regOff HUSKY_STATUS 0 0 ∨ off = regOff HUSKY_CAP_MS_COUNT 0 0 ∨ tileReg off)
        ∧ ((∃ k, (effCap s * 1000 < deviceMw t ∨ k = 0)
            ∧ ∀ p, p < 288 → inRun s p = true → (tileOf t p).dutyCap = (tileOf s p).dutyCap - k)
          ∨ (deviceMw t ≤ effCap s * 1000
            ∧ ∀ p, p < 288 → inRun s p = true → (tileOf t p).dutyCap = min 64 ((tileOf s p).dutyCap + 1))))
      ∧ ∀ p, p < 288 →
        let x := tileOf s p
        let y := tileOf t p
        let floor := if fbit s HUSKY_CTRL__WARM_EN = true ∧ x.fillMean ≠ 0 then x.fillMean * fget s HUSKY_RAMP__WARM_PCT / 100 else 0
        (inRun s p = false → y.dutyCap = x.dutyCap ∧ y.dutyRamp = x.dutyRamp ∧ y.runPower = x.runPower)
        ∧ x.dutyRamp ≤ y.dutyRamp ∧ y.dutyRamp ≤ x.dutyRamp + 1 ∧ y.fillMean = x.fillMean
        ∧ (domOn s p = true → y.estMw = tileEst s p ∧ y.actPlanes = 0 ∧ y.actGroups = 0 ∧ y.actBursts = 0 ∧ y.actSteps = 0)
        ∧ (domOn s p = true → inRun s p = true → y.filler = 0 ∧ y.runPower = (tileEst s p :: x.runPower).take 100)
        ∧ (tileUp s p = true → inRun s p = false → y.filler ≤ x.filler ∧ min x.filler floor ≤ y.filler
          ∧ x.filler ≤ y.filler + fget s HUSKY_RAMP__RAMP * 100)
        ∧ (tileUp s p = false → y.filler = 0))
    ∧ (∀ rd : List (Option (Nat × Nat × Nat)), rd.length = 8 →
      let fault := ∃ i v c x : Nat, rd[i]? = some (some (v, c, x)) ∧ x % 2 = 1
      let railReg := fun (off : Nat) => off = regOff HUSKY_POWER 0 0 ∨ ∃ i, i < 8 ∧ off = regOff HUSKY_RAIL i 0
      ∃ t, exec (.railTelemetry rd) s = .next t
        ∧ (∀ i v c x, rd[i]? = some (some (v, c, x)) → fget t HUSKY_RAIL__VOUT_MV i = v % 2 ^ 16
          ∧ fget t HUSKY_RAIL__IOUT i = c % 2 ^ 16 ∧ fget t HUSKY_RAIL__FAULT i = x % 2 ∧ fbit t HUSKY_RAIL__TELEM_VALID i = true
          ∧ (x % 2 = 1 →
            (i < 4 → domOn s (304 + i) = true → pdState t (304 + i) = 3) ∧ (4 ≤ i → devFailed t = true)))
        ∧ (∀ i, rd[i]? = some none → fget t HUSKY_RAIL__VOUT_MV i = fget s HUSKY_RAIL__VOUT_MV i
          ∧ fget t HUSKY_RAIL__IOUT i = fget s HUSKY_RAIL__IOUT i ∧ smGet t.husky.railMiss i 0 = smGet s.husky.railMiss i 0 + 1
          ∧ fbit t HUSKY_RAIL__TELEM_VALID i = (fbit s HUSKY_RAIL__TELEM_VALID i && decide (smGet s.husky.railMiss i 0 ≠ 2)))
        ∧ fget t HUSKY_POWER__MEAS_W
          = sumNat ((List.range 8).map fun i => fget t HUSKY_RAIL__VOUT_MV i * fget t HUSKY_RAIL__IOUT i / 10) / 1000 % 2 ^ 16
        ∧ (¬ fault → RegsAndEvents { s with husky := t.husky, tiles := t.tiles } t railReg
          ∧ (compUp s 1 = true → (∀ i, i < 8 → fbit t HUSKY_RAIL__TELEM_VALID i = true) →
            deviceMw t = sumNat ((List.range 8).map fun i => fget t HUSKY_RAIL__VOUT_MV i * fget t HUSKY_RAIL__IOUT i / 10))))
    ∧ (trayKnown s = false → exec .trayReportMissing s = .next s ∧ exec .demand s = .next s)
    ∧ (compUp s 1 = true → trayKnown s = true → ∃ t, exec .trayReportMissing s = .next t ∧ missed t
      ∧ RegsAndEvents { s with husky := t.husky } t (fun off => off = regOff HUSKY_STATUS 0 0 ∨ off = regOff HUSKY_TRAY_MISS_COUNT 0 0)
      ∧ (noSat → fbit s HUSKY_STATUS__TRAY_LOST = false → 5 ≤ s.husky.missing + 1 → EventHeld s t evtTrayLost 0))
    ∧ (∀ f : BitVec 64, compUp s 1 = true →
      let x := f.toNat
      let flow := bitsOf x 32 16
      let leak := fun (t : State) => f.getLsbD 57 = true → stopHeld t = true ∧ bitOf (fget t HUSKY_STATUS__STOP_CAUSE) 5 = true
      let inSeq := ∀ y, s.husky.lastSeq = some y → bitsOf x 48 8 = (y + 1) % 256 ∧ now s ≤ s.husky.reportAt + 15000000
      (nom = 0 ∨ s.husky.monOn = false → exec (.trayReport f) s = .next s)
      ∧ (nom ≠ 0 → s.husky.monOn = true → ∃ t, exec (.trayReport f) s = .next t ∧ t.husky.lastSeq = some (bitsOf x 48 8) ∧ leak t
        ∧ (¬ inSeq → missed t)
        ∧ (inSeq → t.husky.missing = 0 ∧ t.husky.valid = s.husky.valid + 1 ∧ t.husky.reportAt = now s
          ∧ t.husky.flows = (flow :: s.husky.flows).take 5
          ∧ fget t HUSKY_TRAY_STATUS__INLET = bitsOf x 0 16 ∧ fget t HUSKY_TRAY_STATUS__OUTLET = bitsOf x 16 16
          ∧ fbit t HUSKY_STATUS__TRAY_LOST = (fbit s HUSKY_STATUS__TRAY_LOST && decide (s.husky.valid + 1 < 10))
          ∧ (5 * flow < nom → 0 < s.husky.lowRun → stopHeld t = true ∧ bitOf (fget t HUSKY_STATUS__STOP_CAUSE) 4 = true)
          ∧ (nom ≤ 5 * flow → f.getLsbD 57 = false → stopHeld t = stopHeld s)
          ∧ (fbit t HUSKY_STATUS__FLOW_IMPLAUSIBLE = false →
            let m := sumNat t.husky.flows / t.husky.flows.length
            let cur := s.husky.flowCap.getD grade
            let want := if 4 * nom ≤ 5 * m then grade else if nom ≤ 2 * m then grade * (10 * m - 2 * nom) / (6 * nom) else grade / 2
            fget t HUSKY_TRAY_STATUS__FLOW = m % 2 ^ 16 ∧ fbit t HUSKY_STATUS__FLOW_LOW = decide (5 * m < 4 * nom)
              ∧ fget t HUSKY_STATUS__EFF_CAP_W = cap t
              ∧ t.husky.flowCap.getD grade = (if want ≤ cur then want
                else if s.husky.capAt + tau ≤ now s then min want (cur + grade * 5 / 100) else cur)))))
    ∧ (let cur := fget s HUSKY_TRAY_STATUS__DEMAND
      let reason := s.husky.demandMax = true ∨ (s.husky.flows ≠ [] ∧ 5 * fget s HUSKY_TRAY_STATUS__FLOW < 4 * nom)
      let sent := fun (d : Nat) => ∃ t, exec .demand s = .next t
        ∧ t.husky.demands = s.husky.demands ++ [d + s.husky.demandSeq * 2 ^ 16] ∧ t.husky.demandSeq = (s.husky.demandSeq + 1) % 256
        ∧ FieldWritten { s with husky := t.husky } t HUSKY_TRAY_STATUS__DEMAND d 0 0
      (trayKnown s = true → compUp s 1 = false → sent cur)
      ∧ (trayKnown s = true → compUp s 1 = true →
        (cur = 0 → ¬ reason → sent nom)
        ∧ (reason → cur = 0 ∨ s.husky.demandAt + tau / 4 ≤ now s → sent (fget s HUSKY_TRAY_CFG__MAX_FLOW))
        ∧ (reason → cur ≠ 0 → now s < s.husky.demandAt + tau / 4 → sent cur)
        ∧ (¬ reason → nom < cur → s.husky.demandAt + tau ≤ now s → sent (max nom (cur - nom / 10)))
        ∧ (¬ reason → 0 < cur → cur ≤ nom ∨ now s < s.husky.demandAt + tau → sent cur)))

/-- Power domains (R408 to R410), resets (R413 to R416, R478, R479) and CLKREQ_N (R472). Clauses that are the model's own choice
rest on logs 46, 47, 50, 75, 77, 78 and 79. -/
def Obligations.DomainsSwitchAndResetsRestart : Prop :=
  ∀ s : State, MemsCanonical s →
    let cmdReg := fun (off : Nat) => off = regOff HUSKY_PD_CMD 0 0
    let othersSame := fun (t : State) (n : Nat) => ∀ m, m < 325 → m ≠ n → pdState t m = pdState s m
    let lost := fun (t : State) (p : Nat) => ∀ x, x < 2 ^ 32 → memGet t.vaultData (p * 2 ^ 32 + x) = 0
    let idle := fun (t : State) (p : Nat) => tileQuiet (tileOf t p) = true ∧ ∀ w, w < spWords → spRaw t p w = List.replicate 32 0
    (∀ n : Fin 325,
      let stopped := fget s HUSKY_STATUS__STATE ≠ 0 ∨ s.husky.stopAt.isSome = true
      let off := ∃ m ∈ parentsOf n, domOn s m = false
      let excluded := n.val ∈ s.boot.excluded
      let stays := domOn s n = true ∨ off ∨ excluded ∨ s.boot.resetLow.isSome = true
        ∨ 308 ≤ n.val ∧ n.val < 312 ∧ portMode s (4 * (n.val - 308)) = 0
      let fits := Config.staticMw n ≤ s.husky.rampUp
      let allowed := { s.husky with requests := [], rampUp := s.husky.rampUp - Config.staticMw n }
      let runs := n.val < 288 ∧ (tileState s n = 1 ∨ tileState s n = 2 ∨ fbit s TILE_COLLIE_CTRL__ARM n = true)
      let kids := ∃ m, m < 325 ∧ n.val ∈ parentsOf m ∧ domOn s m = true
      let awake := s.boot.resetLow = none
      let free := awake ∧ s.husky.requests = [] ∧ n.val ≠ 314 ∧ pdState s n < 2
      let refused := fun (i : Instr) (c : Nat) => ∃ t, exec i s = .next t ∧ fbit t HUSKY_PD_CMD__ERR = true
        ∧ fget t HUSKY_PD_CMD__CAUSE = c ∧ fget t HUSKY_PD_CMD__DOMAIN = n.val ∧ RegsOnly s t cmdReg
      (∀ i ∈ [Instr.powerOn n, Instr.powerOff n],
        (¬ awake → exec i s = .next s)
        ∧ (awake → s.husky.requests ≠ [] → refused i 7)
        ∧ (awake → s.husky.requests = [] → n.val = 314 → refused i 4)
        ∧ (awake → s.husky.requests = [] → n.val ≠ 314 → 2 ≤ pdState s n → refused i 3))
      ∧ (free → excluded → refused (.powerOn n) 3)
      ∧ (free → ¬ excluded → stopped → refused (.powerOn n) 6)
      ∧ (free → ¬ excluded → ¬ stopped → off → refused (.powerOn n) 1)
      ∧ (free → ¬ excluded → ¬ stopped → ¬ off →
        (domOn s n = true → ∃ t, exec (.powerOn n) s = .next t ∧ FieldWritten s t HUSKY_PD_CMD__DOMAIN n 0 0)
        ∧ (domOn s n = false → ∃ t, exec (.powerOn n) s = .next t ∧ t.husky = { s.husky with requests := [⟨n, 1, true⟩] }
          ∧ fbit t HUSKY_PD_CMD__BUSY = true ∧ fbit t HUSKY_PD_STATE__CHANGING n = true ∧ pdState t n = 0
          ∧ RegsOnly { s with husky := t.husky } t fun off => cmdReg off ∨ off = regOff HUSKY_PD_STATE n 0))
      ∧ (free → runs → refused (.powerOff n) 5)
      ∧ (free → ¬ runs → kids → refused (.powerOff n) 2)
      ∧ (free → ¬ runs → ¬ kids →
        (domOn s n = false → ∃ t, exec (.powerOff n) s = .next t ∧ FieldWritten s t HUSKY_PD_CMD__DOMAIN n 0 0)
        ∧ (domOn s n = true → ∃ t, exec (.powerOff n) s = .next t ∧ pdState t n = 0 ∧ othersSame t n
          ∧ (n.val < 288 → idle t n ∧ fbit t TILE_VAULT_STATUS__SELF_REFRESH n = true)
          ∧ (288 ≤ n.val → n.val < 304 → ∀ p, p / 18 = n.val - 288 → lost t p)
          ∧ (304 ≤ n.val → n.val < 308 → ∀ i, i < 992 → sensorDie i = some (n.val - 304) → sensorValid t i = false)))
      ∧ ((∀ r rest, s.husky.requests = r :: rest → ¬ (r.domain = n.val ∧ r.op = 1)) → exec (.domainOn n) s = .next s)
      ∧ (¬ fits → exec (.domainOn n) s = .next s)
      ∧ (∀ r rest, s.husky.requests = r :: rest → r.domain = n.val → r.op = 1 → fits → stopped ∨ stays →
        ∃ t, exec (.domainOn n) s = .next t ∧ pdState t n = pdState s n ∧ fbit t HUSKY_PD_STATE__CHANGING n = false
          ∧ fbit t HUSKY_PD_CMD__BUSY = false ∧ othersSame t n ∧ t.husky = allowed
          ∧ (stopped → fbit t HUSKY_PD_CMD__ERR = true ∧ fget t HUSKY_PD_CMD__CAUSE = 6)
          ∧ RegsOnly { s with husky := t.husky } t fun o => cmdReg o ∨ o = regOff HUSKY_PD_STATE n 0)
      ∧ (∀ r rest, s.husky.requests = r :: rest → r.domain = n.val → r.op = 1 → fits → ¬ stopped → ¬ stays →
        ∃ t, exec (.domainOn n) s = .next t
        ∧ pdState t n = 1 ∧ fbit t HUSKY_PD_STATE__CHANGING n = false ∧ fbit t HUSKY_PD_CMD__BUSY = false ∧ othersSame t n
        ∧ t.husky = allowed ∧ VaultsKept s t
        ∧ (n.val < 288 → fbit t TILE_VAULT_STATUS__SELF_REFRESH n = false)
        ∧ (304 ≤ n.val → n.val < 308 → ∀ i, i < 992 → sensorDie i = some (n.val - 304) → i ∉ s.boot.deadSensors →
          sensorValid t i = true))
      ∧ (domOn s n = false → exec (.supplyFault n) s = .next s)
      ∧ (domOn s n = true → ∃ t, exec (.supplyFault n) s = .next t ∧ pdState t n = 3
        ∧ rget t HUSKY_PD_FAULT_COUNT = counterNext (rget s HUSKY_PD_FAULT_COUNT) 1 % 2 ^ 64
        ∧ (∀ m ∈ descendants n, domOn t m = false)
        ∧ (∀ m, m < 325 → m ≠ n.val → m ∉ descendants n → pdState t m = pdState s m)
        ∧ (n.val < 288 → fenced t n = true ∧ idle t n ∧ lost t n
          ∧ (fenced s n = false → rget t REGION_FENCE_LOG (n.val / 18) % 2 ^ 16 = 1 + 4 + 0x0F * 2 ^ 8
            ∧ rget t REGION_FENCE_LOG (n.val / 18) / 2 ^ 20 % 2 ^ 4 = 8 ∧ rget t REGION_FENCE_INFO (n.val / 18) = 0))
        ∧ (288 ≤ n.val → n.val < 304 → fbit s REGION_FENCE__REGION_FENCED (n.val - 288) = false →
          fbit t REGION_FAULT__VALID (n.val - 288) = true ∧ fget t REGION_FAULT__CODE (n.val - 288) = 3
            ∧ fbit t REGION_FENCE__REGION_FENCED (n.val - 288) = true ∧ ∀ p, p / 18 = n.val - 288 → lost t p)
        ∧ (304 ≤ n.val → n.val < 308 → dieState t (n.val - 304) = 4 ∧ devFailed t = true)
        ∧ (n.val = 314 ∨ n.val = 316 → devFailed t = true ∧ (fbit s BH_DEV_FAULT__VALID = false →
          rget t BH_DEV_FAULT = 1 + 2 * 2 ^ 8 + (if n.val = 314 then 2 else 1) * 2 ^ 18))
        ∧ (308 ≤ n.val → n.val < 312 → ∀ x ∈ s.kelpie.ctx, ctxPort x.2 / 4 = n.val - 308 → ctxValid (ctxOf t x.1) = false)
        ∧ (n.val = 314 → t.host.linkUp = false ∧ clkreqLow t = false) ∧ (n.val = 315 → linkState t 8 = 0)))
    ∧ (∀ strap : Fin 4,
      let mode := if strap.val = 3 then 2 else strap.val
      let cause := verifyFlash s
      let cleared := fun (t : State) => t.flash = s.flash ∧ t.pending = s.pending ∧ s.fuses.svn ≤ t.fuses.svn
        ∧ t.tiles = [] ∧ t.chans = [] ∧ t.regions = [] ∧ t.links = [] ∧ t.msgs = [] ∧ t.vaultData = [] ∧ t.vaultTag = []
        ∧ t.spData = [] ∧ t.spTag = [] ∧ t.host.cmds = [] ∧ t.kelpie = State.reset.kelpie ∧ t.agate = State.reset.agate ∧ now t = 0
      let booted := fun (t : State) => domOn t 314 = true ∧ clkreqLow t = true ∧ fget t SEQ_STATUS__MODE = mode
        ∧ (mode = 2 ∨ cause ≠ 0 → fget t HUB_BOOT_STATUS__STAGE = 8 ∧ fbit t MBX_STATUS__RECOVERY_WAIT = true
          ∧ fget t HUB_BOOT_STATUS__CAUSE = (if mode = 2 then 0 else cause) ∧ compUp t 3 = false)
        ∧ (mode < 2 → cause = 0 → fget t HUB_BOOT_STATUS__STAGE = 7 ∧ fget t HUB_FW_STATUS__RUNNING = 31 ∧ t.mastiff.crashed = []
          ∧ (∀ q img, activeSet s = some (q, img) → t.boot.set = some img ∧ t.boot.setSeq = q
            ∧ fbit t HUB_CFG_STATUS__ACTIVE_BAD = false
            ∧ fget t SEQ_STATUS__STATE = (if mode = 0 then 1 else 0) ∧ (mode = 0 → fget t SEQ_STATUS__CUR = 1))
          ∧ (activeSet s = none → t.boot.set = none ∧ fbit t HUB_CFG_STATUS__ACTIVE_BAD = true
            ∧ fget t SEQ_STATUS__STATE = (if mode = 0 then 2 else 0) ∧ (mode = 0 → fget t SEQ_STATUS__CAUSE = 9)))
      let stopsAt := fun (t : State) (n : Nat) => fget t HUB_BOOT_STATUS__STAGE = n ∧ ∀ k, k < 5 → compUp t k = false
      let boots := fun (t : State) (kept : Prop) =>
        (Config.refGood 0 s.draws = false → stopsAt t 0)
        ∧ (Config.refGood 0 s.draws = true → ¬ kept → Config.refGood 3 s.draws = false → stopsAt t 1)
        ∧ (Config.refGood 0 s.draws = true → kept ∨ Config.refGood 3 s.draws = true → booted t)
      (∃ t, exec (.coldReset strap) s = .next t ∧ cleared t ∧ boots t False ∧ t.bar4 = [] ∧ hostReady t = false
        ∧ t.boot.powered = true ∧ t.boot.resetLow = none ∧ (fbit t HUSKY_STATUS__TRIPPED = s.boot.tripLow)
        ∧ ∀ n, n < 325 → domOn t n = true → n = 314)
      ∧ (s.boot.resetLow.isSome = true → exec (.warmReset strap) s = .next s)
      ∧ (s.boot.resetLow = none → ∃ t, exec (.warmReset strap) s = .next t ∧ cleared t ∧ boots t (domOn s 314 = true)
        ∧ t.bar4 = s.bar4 ∧ t.host.linkUp = s.host.linkUp ∧ t.host.bme = s.host.bme ∧ t.host.pci = s.host.pci
        ∧ (∀ g, g < 16 → fget t REGION_FENCE__FENCED g = fget s REGION_FENCE__FENCED g
          ∧ fget t REGION_FENCE__REGION_FENCED g = fget s REGION_FENCE__REGION_FENCED g)
        ∧ (∀ i, i < 1000 → fget t HUSKY_SENSOR__BROKEN i = fget s HUSKY_SENSOR__BROKEN i
          ∧ fget t HUSKY_SENSOR__SUSPECT i = fget s HUSKY_SENSOR__SUSPECT i)
        ∧ fget t HUSKY_STATUS__TRIPPED = fget s HUSKY_STATUS__TRIPPED
        ∧ fget t HUSKY_STOP_REC0__TIME = fget s HUSKY_STOP_REC0__TIME ∧ fget t HUSKY_STOP_REC1__CAUSE = fget s HUSKY_STOP_REC1__CAUSE
        ∧ ∀ n, n < 325 → n ≠ 314 → pdState t n = if 2 ≤ pdState s n then pdState s n else 0))
    ∧ (∃ t, exec .perst s = .next t ∧ hostReady t = false ∧ t.host.linkUp = false ∧ t.host.pci = PciCfg.reset ∧ t.host.aer = []
      ∧ clkreqLow t = clkreqLow s ∧ t.tiles = s.tiles ∧ VaultsKept s t ∧ SpinelSame s t
      ∧ (∀ v, v < 2048 → rget t MSIX_ADDR v = MSIX_ADDR.reset ∧ rget t MSIX_DATA v = MSIX_DATA.reset)
      ∧ (∀ v, v < 32 → rget t MSIX_PBA v = 0)
      ∧ ((∀ a ∈ s.host.bar2, a.copy = none ∨ a.write = true) → RegsOnly { s with host := { s.host with
          linkUp := false, bme := false, pci := PciCfg.reset, aer := []
          bar2 := s.host.bar2.filter fun a => a.write || a.copy.isSome } } t fun off =>
        (0x00708000 ≤ off ∧ off < 0x00710000) ∨ (0x00710000 ≤ off ∧ off < 0x00710100))
      ∧ ∀ a x c, a ∈ s.host.bar2 → a.write = false → a.copy = some x → c ∈ s.host.cmds → c.ring = x.ring → c.cid = x.cid →
        (x.ring, x.cid, 4) ∈ t.host.finals ∧ ∀ y ∈ t.host.cmds, y.ring ≠ x.ring ∨ y.cid ≠ x.cid)
    ∧ (∃ t, exec .resetAsserted s = .next t ∧ t.boot.resetLow = some (now s) ∧ t.boot.powered = s.boot.powered
      ∧ t.boot.tripLow = s.boot.tripLow ∧ (∀ n, n < 325 → domOn t n = false) ∧ clkreqLow t = false ∧ t.vaultData = [] ∧ t.tiles = [] ∧ t.host.cmds = []
      ∧ hostReady t = false ∧ t.fuses = s.fuses ∧ t.flash = s.flash)
    ∧ (∃ t, exec .mgmtRailRemoved s = .next t ∧ t.boot.powered = false ∧ t.boot.tripLow = false
      ∧ fbit t HUSKY_STATUS__TRIPPED = false ∧ (∀ n, n < 325 → domOn t n = false) ∧ t.vaultData = [] ∧ t.tiles = []
      ∧ t.fuses = s.fuses ∧ t.flash = s.flash)

/-- The mailbox (R462, R465, R466, R468, R469), configuration sets (R418 to R424) and firmware compartments (R452, R454).
Clauses that are the model's own choice rest on logs 48, 55 and 56. -/
def Obligations.FirmwareSetsAndReportsAreGuarded : Prop :=
  ∀ s : State, MemsCanonical s →
    let mbx := fun (off : Nat) => off = regOff MBX_STATUS 0 0
    let cfg := fun (off : Nat) => off = regOff HUB_CFG_STATUS 0 0
    let refused := fun (i : Instr) (c : Nat) => ∃ t, exec i s = .next t ∧ fbit t MBX_STATUS__ERR = true
      ∧ fget t MBX_STATUS__CAUSE = c ∧ RegsOnly s t mbx
    let showsRunning := fun (t : State) => ∀ j, j < 5 → bitOf (fget t HUB_FW_STATUS__RUNNING) j = compUp t j
    (∀ img : List Byte, img.length < 2 ^ 25 → compUp s 0 = true →
      let wait := fbit s MBX_STATUS__RECOVERY_WAIT = true ∧ fbit s MBX_STATUS__BUSY = false
      let cause := verifyImage s img [0, 1]
      (¬ wait → refused (.mbxVerify img) 9)
      ∧ (wait → ∃ t, exec (.mbxVerify img) s = .next t ∧ t.flash = s.flash ∧ t.fuses = s.fuses ∧ t.bar4 = memWrite s.bar4 0 img
        ∧ fget t MBX_RECOVERY__BYTES = img.length ∧ t.tiles = s.tiles
        ∧ (cause ≠ 0 → fbit t MBX_STATUS__ERR = true ∧ fget t MBX_STATUS__CAUSE = cause
          ∧ fbit t MBX_STATUS__RECOVERY_WAIT = true ∧ t.mastiff = s.mastiff ∧ t.boot = s.boot)
        ∧ (cause = 0 → fbit t MBX_STATUS__RECOVERY_WAIT = false ∧ fget t HUB_BOOT_STATUS__STAGE = 7
          ∧ fget t SEQ_STATUS__MODE = 1 ∧ fget t HUB_FW_STATUS__RUNNING = 31
          ∧ t.mastiff = { s.mastiff with fwHeader := img.take 256, recovery := true, crashed := [] })))
    ∧ (compUp s 0 = false → exec .mbxReport s = .next s ∧ exec .reportDone s = .next s)
    ∧ (compUp s 0 = true →
      (fbit s MBX_STATUS__BUSY = true → refused .mbxReport 9)
      ∧ (fbit s MBX_STATUS__BUSY = false → fbit s MBX_STATUS__KEY_OK = false → refused .mbxReport 10)
      ∧ (fbit s MBX_STATUS__BUSY = false → fbit s MBX_STATUS__KEY_OK = true → ∃ t, exec .mbxReport s = .next t
        ∧ fbit t MBX_STATUS__BUSY = true ∧ fbit t MBX_STATUS__REPORT_DONE = false
        ∧ t.mastiff = { s.mastiff with jobs := s.mastiff.jobs ++ [.report (reportBytes s)] }
        ∧ RegsOnly { s with mastiff := t.mastiff } t mbx)
      ∧ (∀ bs rest, s.mastiff.jobs = .report bs :: rest → ∃ t, exec .reportDone s = .next t
        ∧ t.mastiff = { s.mastiff with jobs := rest } ∧ fbit t MBX_STATUS__BUSY = false ∧ fbit t MBX_STATUS__REPORT_DONE = true
        ∧ (∀ w, w < 628 → rget t MBX_REPORT w
          = leNat (((bs ++ deviceSign s "ATTEST01" bs ++ List.replicate 13 0).drop (8 * w)).take 8))
        ∧ RegsOnly { s with mastiff := t.mastiff } t fun off => mbx off ∨ ∃ w, w < 628 ∧ off = regOff MBX_REPORT w 0))
    ∧ ((∀ bs rest, s.mastiff.jobs ≠ .report bs :: rest) → exec .reportDone s = .next s)
    ∧ (∀ burnt : Bool, ∃ t, exec (.debugInstruction burnt) s = .next t ∧ fbit t MBX_STATUS__DEBUG_SESSION = true
      ∧ t.fuses = { s.fuses with debugEver := s.fuses.debugEver || (s.fuses.dbgArm && burnt) }
      ∧ fbit t MBX_STATUS__DEBUG_EVER = t.fuses.debugEver ∧ RegsOnly { s with fuses := t.fuses } t mbx)
    ∧ (compUp s 3 = false → (∀ ok, exec (.cfgWrite ok) s = .next s) ∧ exec .cfgSwap s = .next s ∧ exec .quietPoint s = .next s)
    ∧ (compUp s 3 = true →
      let va := fget s HUB_CFG_SRC__VA * 8
      let a := hubRead s 7 va 128
      let h := leNat a.2.bytes
      let b := hubRead a.1 7 (va + 128) (if setShape h then setLength h else 0)
      let img := a.2.bytes ++ b.2.bytes
      let k := 1 - activeSlot s
      let rejects := fun (i : Instr) (base : State) (c : Nat) => ∃ t, exec i s = .next t ∧ fbit t HUB_CFG_STATUS__ERR = true
        ∧ fget t HUB_CFG_STATUS__CAUSE = c ∧ EventHeld base t evtCfgRejected c ∧ RegsAndEvents base t cfg
      (∀ ok : Bool,
        (fbit s HUB_CFG_STATUS__BUSY = true ∨ fbit s HUB_CFG_STATUS__PENDING = true → rejects (.cfgWrite ok) s 8)
        ∧ (fbit s HUB_CFG_STATUS__BUSY = false → fbit s HUB_CFG_STATUS__PENDING = false →
          (a.2.cause ≠ 0 ∨ a.2.tag ≠ 0 → rejects (.cfgWrite ok) a.1 1)
          ∧ (a.2.cause = 0 → a.2.tag = 0 →
            (b.2.cause ≠ 0 ∨ b.2.tag ≠ 0 → rejects (.cfgWrite ok) b.1 2)
            ∧ (b.2.cause = 0 → b.2.tag = 0 →
              (setCause img none ≠ 0 → rejects (.cfgWrite ok) b.1 (setCause img none))
              ∧ (setCause img none = 0 → ok = false → rejects (.cfgWrite ok) (programSlot b.1 k []) 9)
              ∧ (setCause img none = 0 → ok = true → ∃ t, exec (.cfgWrite ok) s = .next t ∧ fbit t HUB_CFG_STATUS__DONE = true
                ∧ slotBytes t k = img ∧ slotBytes t (activeSlot s) = slotBytes s (activeSlot s) ∧ activePtr t = activePtr s
                ∧ RegsOnly { b.1 with flash := t.flash } t cfg)))))
      ∧ (setCause (slotImage s k) none ≠ 0 → rejects .cfgSwap s 10)
      ∧ (setCause (slotImage s k) none = 0 → ∃ t, exec .cfgSwap s = .next t ∧ fbit t HUB_CFG_STATUS__PENDING = true
        ∧ slotBytes t 0 = slotBytes s 0 ∧ slotBytes t 1 = slotBytes s 1 ∧ RegsOnly { s with flash := t.flash } t cfg
        ∧ (activePtr s = none → activeSlot t = k)
        ∧ (∀ x, activePtr s = some x → bitsOf x 0 32 + 1 < 2 ^ 32 →
          activeSlot t = k ∧ ∃ y, activePtr t = some y ∧ bitsOf y 0 32 = bitsOf x 0 32 + 1))
      ∧ (fbit s HUB_CFG_STATUS__PENDING = false ∨ activePtr s = none ∨ quietNow s false = false → exec .quietPoint s = .next s)
      ∧ (∀ x, activePtr s = some x → fbit s HUB_CFG_STATUS__PENDING = true →
        let new := slotImage s (bitsOf x 32 1)
        let q := bitsOf x 0 32
        let strict := match parseSet new with
          | some c => bitOf c.device 0
          | none => false
        (quietNow s strict = false → exec .quietPoint s = .next s)
        ∧ (quietNow s strict = true → setCause new none = 0 → ∃ t, exec .quietPoint s = .next t
          ∧ fbit t HUB_CFG_STATUS__PENDING = false ∧ fget t HUB_CFG_ACTIVE__SEQ = q ∧ fget t HUB_CFG_ACTIVE__SLOT = bitsOf x 32 1
          ∧ t.boot.set = some new ∧ t.flash = s.flash
          ∧ (s.boot.set ≠ some new → ∃ u, t = postEvent u evtCfgSwapped q ∧ fbit u HUB_CFG_STATUS__ACTIVE_BAD = false))))
    ∧ (∀ k : Fin 5,
      (∀ i ∈ [Instr.trap k, Instr.checkInTimeout k],
        (k.val = 0 ∨ compUp s 0 = false ∨ compUp s k = false → exec i s = .next s)
        ∧ (k.val ≠ 0 → compUp s 0 = true → compUp s k = true → ∃ t, exec i s = .next t
          ∧ t.mastiff = { s.mastiff with crashed := k.val :: s.mastiff.crashed } ∧ compUp t k = false ∧ showsRunning t
          ∧ RegsOnly { s with mastiff := t.mastiff } t fun off => off = regOff HUB_FW_STATUS 0 0))
      ∧ (let may := k.val ≠ 0 ∧ compUp s k = false ∧ compUp s 0 = true ∧ (k.val = 2 ∨ compUp s 2 = true)
          ∧ fget s HUB_BOOT_STATUS__STAGE = 7
        (¬ may → exec (.fwRestart k) s = .next s)
        ∧ (may → ∃ u, exec (.fwRestart k) s = .next (postEvent u evtFwRestart k) ∧ compUp u k = true ∧ showsRunning u
          ∧ rget u HUB_FW_RESTART_COUNT = counterNext (rget s HUB_FW_RESTART_COUNT) 1 % 2 ^ 64
          ∧ (∀ j, j < 5 → j ≠ k.val → compUp u j = compUp s j) ∧ VaultsKept s u ∧ SpinelSame s u
          ∧ (k.val = 3 → u.host.cmds = [])
          ∧ (k.val = 2 → s.blood.recov.isSome = true → fget u BH_STATUS__STATE = 1 ∧ TilesAborted s u))))
    ∧ (∃ t, exec .mastiffFault s = .next t ∧ (∀ j, j < 5 → compUp t j = false) ∧ fget t HUB_FW_STATUS__RUNNING = 0
      ∧ fbit t HUB_FW_STATUS__MASTIFF_FAILED = true
      ∧ RegsOnly { s with mastiff := t.mastiff } t fun off => off = regOff HUB_FW_STATUS 0 0)

/-- The bring-up steps (R426 to R431, Table 17.8). Clauses that are the model's own choice rest on logs 46, 49 and 79. -/
def Obligations.BringUpStepsRunInOrder : Prop :=
  ∀ s : State, MemsCanonical s →
    let cur := fget s SEQ_STATUS__CUR
    let runs := fun (n : Nat) => fget s SEQ_STATUS__STATE = 1 ∧ cur = n ∧ s.boot.out = none ∧ compUp s 3 = true
    let ended := fun (c : Nat) => { s with boot := { s.boot with out := some c } }
    let mayOn := fun (n : Nat) => pdState s n < 2 ∧ n ∉ s.boot.excluded ∧ s.boot.resetLow = none ∧ stopHeld s = false
    let seq := fun (off : Nat) => off = regOff SEQ_STATUS 0 0 ∨ off = regOff SEQ_STEP_LOG cur 0
    let ms := (now s - s.boot.stepAt) / 1000000 % 2 ^ 32
    let fails := fun (i : Instr) (c : Nat) => ∃ t, exec i s = .next t ∧ fget t SEQ_STATUS__STATE = 2 ∧ fget t SEQ_STATUS__CAUSE = c
      ∧ fbit t SEQ_STEP_LOG__FAILED cur = true ∧ fbit t SEQ_STEP_LOG__DONE cur = false ∧ fget t SEQ_STEP_LOG__CAUSE cur = c
      ∧ fget t SEQ_STEP_LOG__DURATION_MS cur = ms ∧ fget t SEQ_STATUS__LAST_DONE = fget s SEQ_STATUS__LAST_DONE
      ∧ t.boot = { s.boot with out := none, replay := [] } ∧ EventHeld s t evtStepFailed (cur + c * 2 ^ 8 + ms * 2 ^ 16)
      ∧ RegsAndEvents { s with boot := t.boot } t seq
    (∀ (rails : List (Nat × Nat × Nat)) (broken : List Nat) (rep : Option (BitVec 64)),
      rails.length = 8 → (∀ i ∈ broken, i < 1000) →
      let run := exec (.powerCheck rails broken rep) s
      (¬ runs 1 → run = .next s)
      ∧ (runs 1 → ∃ t, run = .next t
        ∧ (∀ i v c x, rails[i]? = some (v, c, x) → fget t HUSKY_RAIL__VOUT_MV i = v % 2 ^ 16 ∧ fget t HUSKY_RAIL__IOUT i = c % 2 ^ 16
          ∧ fget t HUSKY_RAIL__FAULT i = x % 2 ∧ fbit t HUSKY_RAIL__TELEM_VALID i = true)
        ∧ (∀ c, s.boot.set.bind parseSet = some c → rget t HUSKY_TRAY_CFG = c.tray.getD 0 0 % 2 ^ 64 ∧ t.boot.sensorCal = calMap c 0)
        ∧ (s.boot.set.bind parseSet = none → rget t HUSKY_TRAY_CFG = rget s HUSKY_TRAY_CFG)
        ∧ (∀ i v c x, rails[i]? = some (v, c, x) → x % 2 = 1 →
          (i < 4 → domOn s (304 + i) = true → pdState t (304 + i) = 3) ∧ (4 ≤ i → devFailed t = true))
        ∧ (let bad := ∃ i v c x, rails[i]? = some (v, c, x) ∧ (x % 2 = 1
              ∨ fget t HUSKY_RAIL__SETPOINT_MV i < 50 * (max v (fget t HUSKY_RAIL__SETPOINT_MV i) - min v (fget t HUSKY_RAIL__SETPOINT_MV i)))
          let hub := ∃ k, k < 8 ∧ fbit t HUSKY_SENSOR__BROKEN (992 + k) = true
          let trip := fbit s HUSKY_STATUS__TRIPPED = true
          let found := fun (i : Nat) => i < 1000 ∧ (i ∈ broken ∨ fbit s HUSKY_SENSOR__BROKEN i = true)
          let tray := 0 < fget t HUSKY_TRAY_CFG__NOM_FLOW ∧ fget t HUSKY_TRAY_CFG__NOM_FLOW ≤ fget t HUSKY_TRAY_CFG__MAX_FLOW
            ∧ fget t HUSKY_TRAY_CFG__TAU ≠ 0 ∧ fget t HUSKY_TRAY_CFG__CVOL ≠ 0 ∧ fget t HUSKY_TRAY_ADDR__ADDR ≠ 0
          (bad → t.boot.out = some 1) ∧ (¬ bad → trip → t.boot.out = some 2) ∧ (¬ bad → ¬ trip → hub → t.boot.out = some 3)
          ∧ (¬ bad → ¬ trip → ¬ hub → t.husky.monOn = true ∧ (¬ tray ∨ rep = none → t.boot.out = some 10)
            ∧ (tray → rep ≠ none → t.boot.out = some 0))
          ∧ (¬ bad → ¬ trip → ∀ i, found i →
            fbit t HUSKY_SENSOR__BROKEN i = true ∧ (i < 992 → sensorValid t i = false ∧ i ∈ t.boot.deadSensors)
            ∧ (i < 864 → i / 3 ∈ t.boot.excluded)
            ∧ (864 ≤ i → i < 992 → fbit t REGION_FENCE__REGION_FENCED ((i - 864) / 8) = true)))))
    ∧ (∀ (pll : Bool) (deskew : BitVec 4),
      (¬ runs 2 → exec (.clocks pll deskew) s = .next s)
      ∧ (runs 2 → pll = false → exec (.clocks pll deskew) s = .next (ended 4))
      ∧ (runs 2 → pll = true → ∃ t, exec (.clocks pll deskew) s = .next t ∧ t.boot = (ended (if deskew = 15 then 0 else 5)).boot
        ∧ t.start = (if deskew = 15 then { s.start with clk0 := now s } else s.start) ∧ t.tiles = s.tiles ∧ VaultsKept s t
        ∧ ∀ d, d < 4 → mayOn (304 + d) → domOn t (304 + d) = true))
    ∧ (∀ ok : Bool, (¬ runs 3 → exec (.fuses ok) s = .next s)
      ∧ (runs 3 → ok = false → exec (.fuses ok) s = .next (ended 6))
      ∧ (runs 3 → ok = true → ∃ t, exec (.fuses ok) s = .next t
        ∧ t.boot = (ended (if hashOf s.flash.fuseMap = s.fuses.mapHash then 0 else 7)).boot
        ∧ RegWritten { s with boot := t.boot } t HUB_ID (s.fuses.hubId % 2 ^ 64) 0 0))
    ∧ (∀ (up : BitVec 8) (bad : BitVec 16) (site : Fin 3) (rate : Fin 6) (half : Bool) (rep : Fin 32),
      let run := exec (.dieLinks up bad site rate half rep) s
      (¬ runs 4 → run = .next s)
      ∧ (runs 4 → ∃ t, run = .next t
        ∧ (∀ b, b < 8 → linkState t b = (if up.getLsbD b = true ∧ bridgePowered s b = true then 2 else 0)
          ∧ linkOf t (2 * b) = Link.reset ∧ linkOf t (2 * b + 1) = Link.reset)
        ∧ (∀ g, g < 16 → bad.getLsbD g = true → fbit t REGION_FENCE__REGION_FENCED g = true ∧ ∀ k, k < 18 → g * 18 + k ∈ t.boot.excluded)
        ∧ (∀ g, g < 16 → bad.getLsbD g = false → rget t REGION_FENCE g = rget s REGION_FENCE g)
        ∧ t.boot.site = (if partU s then site.val + 1 else 0) ∧ (partU s = true → site.val = 0 → pdState t 315 = 2)
        ∧ (partU s = true → linkState t 8 = if site.val = 2 then 2 else 0)
        ∧ ((∀ b, b < 4 → linkState t b = 2) → t.boot.out = some 0) ∧ ((∃ b, b < 4 ∧ linkState t b = 0) → t.boot.out = some 8)))
    ∧ (∀ bad : List (Nat × Nat × List Nat), (¬ runs 5 → exec (.vaultTrain bad) s = .next s)
      ∧ (runs 5 → ∃ t, exec (.vaultTrain bad) s = .next t ∧ t.boot.out = some 0 ∧ ∀ p, p < 288 →
        (p ∈ s.boot.excluded → pdState t p = pdState s p)
        ∧ (domOn s (304 + p / 72) = true → mayOn 316 → mayOn (288 + p / 18) → mayOn p →
          domOn t p = true)
        ∧ (domOn t p = true → fbit t TILE_VAULT_STATUS__TRAINED p = true ∧ ∀ c r, c < 8 → r ∈ fuseRecs s ++ logRecs s →
          recType r = 5 → recTile r = p → recChan r = c → chanOut t p c = true)))
    ∧ (∀ bad : List (Nat × Nat), (¬ runs 6 → exec (.eccSelftest bad) s = .next s)
      ∧ (runs 6 → ∃ t, exec (.eccSelftest bad) s = .next t ∧ t.boot.out = some 0 ∧ ∀ p, p < 288 → domOn s p = true →
        bitOf (rget t TILE_ECC_SELFTEST p) 18 = true ∧ ∀ k, k < 18 →
          bitOf (rget t TILE_ECC_SELFTEST p) k = (decide ((p, k) ∈ bad) || patternFails.contains k)
          ∧ ((p, k) ∈ bad → if k < 16 then chanOut t p (k % 8) = true else p ∈ t.boot.badTiles)))
    ∧ (∀ (rows : List (Nat × Nat × Nat)) (low : BitVec 16) (stop : Bool), (¬ runs 7 → exec (.memtest rows low stop) s = .next s)
      ∧ (runs 7 → stop = true ∨ stopHeld s = true → exec (.memtest rows low stop) s = .next (ended 14))
      ∧ (runs 7 → stop = false → stopHeld s = false → ∃ t, exec (.memtest rows low stop) s = .next t ∧ t.boot.out = some 0
        ∧ fget t SEQ_MEMTEST__FULL = s.boot.arg % 2 ∧ fget t SEQ_MEMTEST__LOW_BAND = low.toNat
        ∧ (∀ p, p < 288 → domOn s p = true → isGood s p = true →
          (tileOf t p).filler = Config.tileFullMw p ∧ ∀ x, x < 2 ^ 32 → memGet t.vaultData (p * 2 ^ 32 + x) = 0)
        ∧ ∀ p c w, (p, c, w) ∈ rows → p < 288 → isGood s p = true → c < 8 → chanActive s p c = true → w < chanRows s p →
          (smFind (chanOf t p c).remap w).isSome = true ∨ chanOut t p c = true))
    ∧ (¬ runs 8 → exec .floorplan s = .next s)
    ∧ (runs 8 → ∃ t, exec .floorplan s = .next t ∧ t.boot.out = some 0 ∧ t.agate.bank0 = [] ∧ t.agate.bank1 = [] ∧ rget t AGATE_GEN = 0
      ∧ (∀ p, p < 288 → (isBad s p = true → domOn t p = false) ∧ tileGood t p = isGood t p
        ∧ bitOf (fget t SEQ_FP_REGION__CAND (p / 18)) (p % 18) = (isGood t p && decide (fget t TILE_VAULT_STATUS__CH_OUT p = 0)))
      ∧ fget t SEQ_FP_SUMMARY__GOOD_TILES = ((List.range 288).filter fun p => isGood t p).length
      ∧ ∀ g, g < 16 → fget t REGION_STANDBY__MASK g = 0 ∧ ∀ k, k < 18 → fbit t REGION_BIND__BOUND g k = false)
    ∧ (∀ up : BitVec 16, (¬ runs 9 → exec (.netTrain up) s = .next s)
      ∧ (runs 9 →
        let modeOf := fun (q : Nat) => fget (bootModes s) KELPIE_QUAD_CFG__MODE q
        let miss := fun (h : Nat) => Config.refGood (1 + h) s.draws = false ∧ (modeOf (2 * h) ≠ 0 ∨ modeOf (2 * h + 1) ≠ 0)
        ∃ t, exec (.netTrain up) s = .next t
        ∧ (miss 0 ∨ miss 1 → t.boot.out = some 4) ∧ (¬ (miss 0 ∨ miss 1) → t.boot.out = some 0) ∧ ∀ q, q < 4 →
          let mode := modeOf q
          portMode t (4 * q) = mode
          ∧ (mode = 0 → domOn t (308 + q) = false)
          ∧ (mode ≠ 0 → (domOn s (308 + q) = true → portMode s (4 * q) ≠ mode) → (∀ r ∈ s.husky.requests, r.domain ≠ 308 + q) →
            mayOn (308 + q) → mayOn (312 + q / 2) → domOn t (308 + q) = true
              ∧ (¬ miss (q / 2) → ∀ n, n / 4 = q → portExists mode n = true → up.getLsbD n = true →
                fbit t KELPIE_PORT_STATUS__UP n = true))))
    ∧ (¬ runs 10 → exec .seqReady s = .next s)
    ∧ (runs 10 → s.boot.set = none → exec .seqReady s = .next (ended 0))
    ∧ (∀ img c, runs 10 → s.boot.set = some img → setCause img none = 0 → parseSet img = some c →
      ∃ t, exec .seqReady s = .next t ∧ t.boot.out = some 0 ∧ t.boot.set = some img
        ∧ rget t HUSKY_TRAY_CFG = c.tray.getD 0 0 % 2 ^ 64)
    ∧ (fget s SEQ_STATUS__STATE ≠ 1 ∨ s.boot.out = none → exec .stepDone s = .next s)
    ∧ (∀ c, fget s SEQ_STATUS__STATE = 1 → s.boot.out = some c → c ≤ 15 → cur ≤ 10 →
      (c ≠ 0 → fails .stepDone c)
      ∧ (c = 0 →
        let done := { s.boot with out := none, ready := s.boot.ready || cur = 10 }
        ∃ t, exec .stepDone s = .next t ∧ fbit t SEQ_STEP_LOG__DONE cur = true ∧ fbit t SEQ_STEP_LOG__FAILED cur = false
          ∧ fget t SEQ_STEP_LOG__CAUSE cur = 0 ∧ fget t SEQ_STEP_LOG__DURATION_MS cur = ms ∧ fget t SEQ_STATUS__LAST_DONE = cur
          ∧ (cur ≠ 10 → EventHeld s t evtStepDone (cur + ms * 2 ^ 16))
          ∧ (cur = 10 → fbit s HOST_EVT_CFG__ENABLE = false → s.host.evtBuf.length < 255 → t.host.evtBuf = s.host.evtBuf
            ++ [⟨evtDeviceReady, s.host.evtSeq, now s,
                fget s HUB_CFG_STATUS__ACTIVE_BAD + fget s HUB_CFG_ACTIVE__SEQ * 2 ^ 32⟩,
              ⟨evtStepDone, (s.host.evtSeq + 1) % 2 ^ 32, now s, cur + ms * 2 ^ 16⟩])
          ∧ RegsAndEvents { s with boot := t.boot } t seq
          ∧ (s.boot.replay = [] → fget t SEQ_STATUS__STATE = (if done.ready then 3 else 0) ∧ t.boot = done)
          ∧ ∀ x rest, s.boot.replay = x :: rest → fget t SEQ_STATUS__STATE = 1 ∧ fget t SEQ_STATUS__CUR = x.1 % 256
            ∧ t.boot = { done with replay := rest, stepAt := now s, arg := x.2 }))
    ∧ (let due := fget s SEQ_STATUS__STATE = 1 ∧ s.boot.out = none ∧ cur ≠ 9 ∧ s.boot.stepAt + stepLimitMs cur s.boot.arg * 1000000 ≤ now s
      (¬ due → exec .stepLimit s = .next s) ∧ (due → cur ≤ 10 → fails .stepLimit 15))

/-- Rings and doorbells (R437 to R440), negotiation (R441), the host link (R436) and BAR2 (R435). Clauses that are the model's
own choice rest on logs 51, 53, 54, 57, 61 and 74. -/
def Obligations.RingsAndLinkFollowTheirIndices : Prop :=
  ∀ s : State, MemsCanonical s →
    let errSet := fun (i : Instr) (f : Fld) (r : Nat) => ∃ t, exec i s = .next t ∧ FieldWritten s t f 1 r 0
    let pba := fun (off : Nat) => ∃ v, off = regOff MSIX_PBA v 0
    let between := fun (log old tail v : Nat) =>
      v < 2 ^ log ∧ (v + 2 ^ log - old % 2 ^ log) % 2 ^ log ≤ (tail + 2 ^ log - old % 2 ^ log) % 2 ^ log
    let granted := fbit s HOST_NEG_CTRL__GRANTED = true
    let fits := fun (r : Nat) (l : List (Nat × Nat)) => ∀ x ∈ l, x.1 + x.2 ≤ 2 ^ 25
      ∧ (∀ q y, q < 64 → q ≠ r → fbit s HOST_RING_CFG__ENABLE q = true → y ∈ ringSpans (rget s HOST_RING_CFG q) → spansMeet x y = false)
      ∧ (r ≠ 64 → fbit s HOST_EVT_CFG__ENABLE = true → spansMeet x (evtSpan (rget s HOST_EVT_CFG)) = false)
    let logIn := fun (n : Nat) => 4 ≤ n ∧ n ≤ 16
    (∀ (r : Fin 64) (v : BitVec 16) (ents : List (BitVec 512)), ents.length < 65536 →
      let log := fget s HOST_RING_CFG__SQ_LOG2 r
      let base := fget s HOST_RING_CFG__SQ_BASE r * 4096
      let old := fget s DB_SQ_TAIL__INDEX r
      ∃ t, exec (.sqTail r v ents) s = .next t
        ∧ (v.toNat < 2 ^ log → FieldWritten { s with bar4 := t.bar4 } t DB_SQ_TAIL__INDEX v.toNat r 0)
        ∧ (2 ^ log ≤ v.toNat → FieldWritten { s with bar4 := t.bar4 } t HOST_RING_CFG__ERR 1 r 0)
        ∧ (ents.length ≤ 2 ^ log → base + 2 ^ log * 64 ≤ 2 ^ 25 → ∀ i e, ents[i]? = some e →
          memRead t.bar4 (base + (old + i) % 2 ^ log * 64) 64 = leBytes 64 e.toNat))
    ∧ (∀ (r : Fin 64) (v : BitVec 16),
      let tail := fget s HOST_RING_STATE__CQ_TAIL r
      let ok := between (fget s HOST_RING_CFG__CQ_LOG2 r) (fget s DB_CQ_HEAD__INDEX r) tail v.toNat
      (¬ ok → errSet (.cqHead r v) HOST_RING_CFG__ERR r)
      ∧ (ok → ∃ t, exec (.cqHead r v) s = .next t ∧ fget t DB_CQ_HEAD__INDEX r = v.toNat
        ∧ RegsOnly { s with host := t.host } t (fun off => off = regOff DB_CQ_HEAD r 0 ∨ off = regOff HOST_RING_STATE r 0 ∨ pba off)
        ∧ fget t HOST_RING_STATE__CQ_TAIL r = tail ∧ fget t HOST_RING_STATE__SQ_HEAD r = fget s HOST_RING_STATE__SQ_HEAD r
        ∧ (v.toNat ≠ tail → IrqSent s t (fget s HOST_RING_CFG__VECTOR r)) ∧ (v.toNat = tail → t.host = s.host)))
    ∧ (∀ v : BitVec 16,
      let tail := fget s HOST_EVT_STATE__TAIL
      let ok := between (fget s HOST_EVT_CFG__LOG2) (fget s DB_EVT_HEAD__INDEX) tail v.toNat
      (¬ ok → errSet (.eventHead v) HOST_EVT_CFG__ERR 0)
      ∧ (ok → ∃ t, exec (.eventHead v) s = .next t ∧ fget t DB_EVT_HEAD__INDEX = v.toNat
        ∧ RegsOnly { s with host := t.host } t (fun off => off = regOff DB_EVT_HEAD 0 0 ∨ pba off)
        ∧ (v.toNat ≠ tail → IrqSent s t (fget s HOST_EVT_CFG__VECTOR)) ∧ (v.toNat = tail → t.host = s.host)))
    ∧ (∀ (r : Fin 64) (v : BitVec 64),
      let x := v.toNat
      let on := fbit s HOST_RING_CFG__ENABLE r = true
      let own := fun (off : Nat) => off = regOff HOST_RING_CFG r 0 ∨ off = regOff HOST_RING_STATE r 0 ∨ off = regOff DB_SQ_TAIL r 0
        ∨ off = regOff DB_CQ_HEAD r 0
      let keeps := fun (t : State) => rget t HOST_RING_CFG r / 4 = rget s HOST_RING_CFG r / 4
      let busy := ∃ c ∈ s.host.cmds, c.ring = r.val
      let good := granted ∧ logIn (bitsOf x 4 5) ∧ logIn (bitsOf x 9 5) ∧ fits r (ringSpans x)
        ∧ spansMeet (bitsOf x 16 13 * 4096, 2 ^ bitsOf x 4 5 * 64) (bitsOf x 32 13 * 4096, 2 ^ bitsOf x 9 5 * 32) = false
      ∃ t, exec (.ringEnable r v) s = .next t ∧ RegsOnly { s with host := t.host } t own
        ∧ (on → keeps t ∧ (v.getLsbD 0 = true → t.host = s.host ∧ fbit t HOST_RING_CFG__ENABLE r = true)
          ∧ (v.getLsbD 0 = false → ¬ busy → fbit t HOST_RING_CFG__ENABLE r = false)
          ∧ (v.getLsbD 0 = false → busy → fbit t HOST_RING_CFG__ENABLE r = true ∧ r.val ∈ t.host.stopping))
        ∧ (¬ on → fget t HOST_RING_CFG__SQ_LOG2 r = bitsOf x 4 5 ∧ fget t HOST_RING_CFG__CQ_LOG2 r = bitsOf x 9 5
          ∧ fget t HOST_RING_CFG__SQ_BASE r = bitsOf x 16 13 ∧ fget t HOST_RING_CFG__CQ_BASE r = bitsOf x 32 13
          ∧ fget t HOST_RING_CFG__VECTOR r = bitsOf x 48 11
          ∧ (v.getLsbD 0 = true → good → fbit t HOST_RING_CFG__ENABLE r = true ∧ rget t HOST_RING_STATE r = HOST_RING_STATE.reset
            ∧ rget t DB_SQ_TAIL r = 0 ∧ rget t DB_CQ_HEAD r = 0)
          ∧ (v.getLsbD 0 = true → ¬ good → fbit t HOST_RING_CFG__ENABLE r = false ∧ fbit t HOST_RING_CFG__ERR r = true)
          ∧ (v.getLsbD 0 = false → fbit t HOST_RING_CFG__ENABLE r = false ∧ t.host = s.host)))
    ∧ (∀ v : BitVec 64,
      let x := v.toNat
      let on := fbit s HOST_EVT_CFG__ENABLE = true
      let good := granted ∧ logIn (bitsOf x 4 5) ∧ fits 64 [evtSpan x]
      ∃ t, exec (.evtEnable v) s = .next t
        ∧ (on → fbit t HOST_EVT_CFG__ENABLE = v.getLsbD 0 ∧ rget t HOST_EVT_CFG / 4 = rget s HOST_EVT_CFG / 4 ∧ t.host = s.host)
        ∧ (¬ on → fget t HOST_EVT_CFG__LOG2 = bitsOf x 4 5 ∧ fget t HOST_EVT_CFG__BASE = bitsOf x 16 13
          ∧ fget t HOST_EVT_CFG__VECTOR = bitsOf x 32 11
          ∧ (v.getLsbD 0 = true → good → fbit t HOST_EVT_CFG__ENABLE = true ∧ t.host.evtBuf = []
            ∧ (hostReady s = false → t.host.waiting = s.host.waiting ++ s.host.evtBuf.map fun e => .evt e)
            ∧ (s.host.evtBuf = [] → rget t HOST_EVT_STATE = HOST_EVT_STATE.reset ∧ rget t DB_EVT_HEAD = 0))
          ∧ (v.getLsbD 0 = true → ¬ good → fbit t HOST_EVT_CFG__ENABLE = false ∧ fbit t HOST_EVT_CFG__ERR = true ∧ t.host = s.host)
          ∧ (v.getLsbD 0 = false → fbit t HOST_EVT_CFG__ENABLE = false ∧ t.host = s.host)))
    ∧ (let open_ := (∃ r, r < 64 ∧ fbit s HOST_RING_CFG__ENABLE r = true) ∨ fbit s HOST_EVT_CFG__ENABLE = true
      let match_ := fget s HOST_NEG_CTRL__HOST_MAJOR = fget s HOST_ABI__MAJOR ∧ bitOf (rget s HOST_FEAT_REQ 0) 0 = true
      let neg := fun (t : State) => RegsOnly s t fun off => off = regOff HOST_NEG_CTRL 0 0 ∨ ∃ i, i < 4 ∧ off = regOff HOST_FEAT_GRANT i 0
      (compUp s 3 = false → exec .negGo s = .next s)
      ∧ (compUp s 3 = true → open_ → errSet .negGo HOST_NEG_CTRL__ERR 0)
      ∧ (compUp s 3 = true → ¬ open_ → match_ → ∃ t, exec .negGo s = .next t ∧ neg t ∧ fbit t HOST_NEG_CTRL__GRANTED = true
        ∧ ∀ i, i < 4 → rget t HOST_FEAT_GRANT i = (rget s HOST_FEAT_OFFER i &&& rget s HOST_FEAT_REQ i) % 2 ^ 64)
      ∧ (compUp s 3 = true → ¬ open_ → ¬ match_ → ∃ t, exec .negGo s = .next t ∧ neg t ∧ fbit t HOST_NEG_CTRL__GRANTED = false
        ∧ fbit t HOST_NEG_CTRL__ERR = true ∧ ∀ i, i < 4 → rget t HOST_FEAT_GRANT i = 0))
    ∧ (∀ r : Fin 65,
      let due := ∃ a, smFind s.host.oldest r = some a ∧ smGet s.host.unsig r 0 ≠ 0 ∧ a + (coalOf s r).2 * 1000 ≤ now s
      (¬ due → exec (.coalesceTimer r) s = .next s)
      ∧ (due → ∃ t, exec (.coalesceTimer r) s = .next t ∧ RegsOnly { s with host := t.host } t pba ∧ IrqSent s t (vectorOf s r)))
    ∧ (∀ only : Bool, ∃ t, exec (.pcieLinkDown only) s = .next t ∧ hostReady t = false ∧ t.host.linkUp = (s.host.linkUp && only)
      ∧ t.tiles = s.tiles ∧ VaultsKept s t ∧ SpinelSame s t
      ∧ ((∀ a ∈ s.host.bar2, a.copy = none ∨ a.write = true) → t = { s with host := { s.host with
          linkUp := s.host.linkUp && only, bme := false
          bar2 := if only then s.host.bar2 else s.host.bar2.filter fun a => a.write || a.copy.isSome } })
      ∧ ∀ a x c, a ∈ s.host.bar2 → a.write = false → a.copy = some x → c ∈ s.host.cmds → c.ring = x.ring → c.cid = x.cid →
        (x.ring, x.cid, 4) ∈ t.host.finals ∧ ∀ y ∈ t.host.cmds, y.ring ≠ x.ring ∨ y.cid ≠ x.cid)
    ∧ (domOn s 314 = false → exec .pcieLinkUp s = .next s)
    ∧ (domOn s 314 = true →
      let pci := { s.host.pci with memEnable := true, d3hot := false, msixEnable := true, maxPayload := 2, maxReadReq := 4096 }
      ∃ t, exec .pcieLinkUp s = .next t ∧ hostReady t = true ∧ t.host.waiting = [] ∧ t.host.pci = pci ∧ VaultsKept s t
      ∧ SpinelSame s t ∧ t.tiles = s.tiles ∧ t.host.cmds = s.host.cmds
      ∧ (s.host.waiting = [] → t = { s with host := { s.host with linkUp := true, bme := true, pci := pci } })
      ∧ ∀ v rest, s.host.waiting = .irq v :: rest → irqMasked s v = false →
        s.host.msix ++ [(rget s MSIX_ADDR v, fget s MSIX_DATA__DATA v)] <+: t.host.msix)
    ∧ (∀ (o : BitVec 36) (n : Fin 4097), o.toNat % 4096 + n.val ≤ 4096 →
      let va := fget s PCIE_BAR2_BASE__VA * 2 ^ 36 + o.toNat
      let run := exec (.bar2Read o n) s
      let cls := fget s FAB_QOS_CTRL__HOST_CLASS
      let l := vaPieces (n.val / 2048 + 2) va n
      let acc : Bar2Acc := ⟨n, false, [], l, none, [], false, va, [], none, false⟩
      let after := fun (k : Nat) => hubReadPieces s cls (l.take k)
      let waits := fun (k : Nat) => ∃ x, l[k]? = some x ∧ pieceWaits (after k).1 acc x = true
      let d := (hubRead s cls va n).2
      let u := (hubRead s cls va n).1
      let size := payloadBytes s
      let alone := barsOpen s = true ∧ s.host.bar2 = []
      (barsOpen s = false → run = .next s)
      ∧ (barsOpen s = true → ∀ x rest, s.host.bar2 = x :: rest → x.wait.isSome = true → linkDown s 16 = false →
        run = .next { s with host := { s.host with bar2 := s.host.bar2 ++ [acc] } })
      ∧ (alone → vaCust va = false → ∀ k, waits k → (∀ j, j < k → ¬ waits j) → (after k).2.cause = 0 →
        ∃ t y, run = .next t ∧ VaultsKept (after k).1 t ∧ SpinelSame (after k).1 t ∧ t.msgs = (after k).1.msgs
          ∧ t.host.bar2Out = (after k).1.host.bar2Out
          ∧ t.host.bar2 = [y] ∧ y.pieces = l.drop k ∧ y.bytes = (after k).2.bytes ∧ y.wait = none)
      ∧ (alone → vaCust va = false → (∀ k, ¬ waits k) →
        ∃ t, run = .next t ∧ VaultsKept u t ∧ t.host.bar2 = []
        ∧ (d.cause ≠ 0 → t.host.bar2Out = u.host.bar2Out ++ [([], false, true)] ∧ t.host.aer = u.host.aer ++ [.completerAbort]
          ∧ t.regs = u.regs)
        ∧ (d.cause = 0 →
          let l := completionsOf size 40 va d.bytes d.marks
          t.host.bar2Out = u.host.bar2Out ++ l ∧ l.flatMap Prod.fst = d.bytes ∧ (∀ x ∈ l, x.1.length ≤ size ∧ x.2.2 = false)
          ∧ ((∀ x ∈ l, x.2.1 = false) → t.regs = u.regs ∧ t.host.aer = u.host.aer)
          ∧ ((∃ x ∈ l, x.2.1 = true) → .poisonedSent ∈ t.host.aer)
          ∧ (∀ x, l = [x] → x.2.1 = true →
            rget t PCIE_BAR2_POISON_COUNT = counterNext (rget u PCIE_BAR2_POISON_COUNT) 1 % 2 ^ 64)))
      ∧ (alone → vaCust va = true → 0 < n.val → ∃ t, run = .next t ∧ VaultsKept s t
        ∧ (sendCause s .cust [16] ≠ 0 → t.host.bar2Out = s.host.bar2Out ++ [([], false, true)] ∧ t.msgs = s.msgs)
        ∧ (sendCause s .cust [16] = 0 → ∃ m, t.msgs = s.msgs ++ [m] ∧ m.typ = .vrd ∧ m.src = .hub ∧ m.dst = .cust
          ∧ m.va = va / 2048 * 2048)))
    ∧ (∀ (o : BitVec 36) (data : List Byte) (ep : Bool), o.toNat % 4096 + data.length ≤ 4096 → data.length ≤ 512 →
      let va := fget s PCIE_BAR2_BASE__VA * 2 ^ 36 + o.toNat
      let run := exec (.bar2Write o data ep) s
      let cls := fget s FAB_QOS_CTRL__HOST_CLASS
      let l := vaPieces (data.length / 2048 + 2) va data.length
      let acc : Bar2Acc := ⟨data.length, true, data, l, none, [], false, va, [], none, false⟩
      let after := fun (k : Nat) => hubWritePieces s data 0 cls (l.take k)
      let waits := fun (k : Nat) => ∃ x, l[k]? = some x ∧ pieceWaits (after k).1 acc x = true
      let w := hubWrite s va data 0 cls
      let alone := barsOpen s = true ∧ ep = false ∧ s.host.bar2 = []
      let counted := fun (u : State) (c : Reg) => ∃ t, run = .next t ∧ rget t c = counterNext (rget u c) 1 % 2 ^ 64 ∧ VaultsKept u t
        ∧ RegsAndEvents u t fun off => off = regOff c 0 0
      (barsOpen s = false → run = .next s)
      ∧ (barsOpen s = true → ep = true → counted s PCIE_BAR2_POISON_COUNT)
      ∧ (barsOpen s = true → ep = false → ∀ x rest, s.host.bar2 = x :: rest → x.wait.isSome = true → linkDown s 16 = false →
        run = .next { s with host := { s.host with bar2 := s.host.bar2 ++ [acc] } })
      ∧ (alone → vaCust va = false → ∀ k, waits k → (∀ j, j < k → ¬ waits j) → (after k).2 = 0 →
        ∃ t y, run = .next t ∧ VaultsKept (after k).1 t ∧ SpinelSame (after k).1 t ∧ t.msgs = (after k).1.msgs ∧ t.host.bar2 = [y]
          ∧ y.pieces = l.drop k ∧ y.wait = none)
      ∧ (alone → vaCust va = false → (∀ k, ¬ waits k) →
        (w.2 = 0 → run = .next w.1) ∧ (w.2 ≠ 0 → counted w.1 PCIE_BAR2_DROP_COUNT))
      ∧ (alone → vaCust va = true → 0 < data.length → ∃ t, run = .next t
        ∧ VaultsKept s t ∧ (sendCause s .cust [16] = 0 → ∃ m, t.msgs = s.msgs ++ [m] ∧ m.src = .hub ∧ m.dst = .cust
          ∧ m.va = va / 2048 * 2048 ∧ (m.typ = .vwr ↔ (va % 32 = 0 ∧ (va + min data.length (2048 - va % 2048)) % 32 = 0)))))
    ∧ (∀ (off : Nat) (half : Bool) (v : BitVec 64), off < 0x4000000 →
      let o := off / 8 * 8
      let high := half = true ∧ off % 8 = 4
      let mask := if half = false then 2 ^ 64 - 1 else if off % 8 = 4 then 2 ^ 64 - 2 ^ 32 else 2 ^ 32 - 1
      let x := if off % 8 = 4 then v.toNat % 2 ^ 32 * 2 ^ 32 else v.toNat % (mask + 1)
      let run := exec (.registerWrite off half v) s
      (off % 8 ≠ 0 → ¬ high → run = .next s)
      ∧ (off % 8 = 0 ∨ high → regAt o = none ∨ blockOn s o = false → run = .next s)
      ∧ (off % 8 = 0 ∨ high → blockOn s o = true → ∀ a, regAt o = some a →
        (a.info.counter = true →
          ∃ t, run = .next t ∧ t.host = { s.host with latch := smDel s.host.latch o }
            ∧ (¬ high → x = 0 → RegWritten { s with host := t.host } t a.info.reg 0 a.i a.j)
            ∧ (high ∨ x ≠ 0 → t = { s with host := t.host }))
        ∧ (a.info.counter = false → a.info.reg ∉ actingRegs →
          ∃ t, run = .next t ∧ RegsOnly s t (fun r => r = o)
            ∧ ∀ f ∈ a.info.fields,
              let old := fget s f.1 a.i a.j
              let new := bitsOf ((rget s a.info.reg a.i a.j &&& (2 ^ 64 - 1 - mask)) ||| x) f.1.lo f.1.w
              (f.2 = .rw ∨ f.2 = .rws → fget t f.1 a.i a.j = if reservedValue f.1 new then old else new)
              ∧ (f.2 = .w1c → fget t f.1 a.i a.j = old - (old &&& bitsOf x f.1.lo f.1.w))
              ∧ (f.2 = .ro ∨ f.2 = .wo ∨ f.2 = .w1s → fget t f.1 a.i a.j = old))))
    ∧ (∀ off, off < 0x4000000 →
      (counterAt s off = none → exec (.counterClear off) s = .next s ∧ ∀ rq, exec (.counterLowRead rq off) s = .next s)
      ∧ ∀ a, counterAt s off = some a →
        (∃ t, exec (.counterClear off) s = .next t ∧ t.host = { s.host with latch := smDel s.host.latch off }
          ∧ RegWritten { s with host := t.host } t a.info.reg 0 a.i a.j)
        ∧ ∀ rq : Fin 5, ∃ t, exec (.counterLowRead rq off) s = .next t
          ∧ t = { s with host := { s.host with
              latch := smSet s.host.latch (rq.val * 2 ^ 26 + off) (rget s a.info.reg a.i a.j / 2 ^ 32) } }
          ∧ (rq.val = 0 → hostRead t (off + 4) true = rget s a.info.reg a.i a.j / 2 ^ 32))

/-- Host commands (R441 to R448) and FW_UPDATE (R465), while saturating counters post no event. Clauses that are the model's own
choice rest on logs 9, 41 and 51. -/
def Obligations.HostCommandsRunAndComplete : Prop :=
  ∀ (s : State) (r : Fin 64) (data : List Byte) (ok : Bool), MemsCanonical s → fbit s HUB_CNT_CTRL__SAT_EVT_EN = false →
    let e := headEntry s r
    let c := newCmd r e
    let p0 := popEntry s r
    let b := hostStarted s r
    let rows : List (Instr × (Nat → Prop)) := [(.hostNop r, fun op => op = 0 ∨ 6 < op), (.planLoad r, fun op => op = 1),
      (.planUnload r, fun op => op = 2), (.planRun r, fun op => op = 3), (.hostAbort r, fun op => op = 4),
      (.hostCopy r data ok, fun op => op = 5), (.fwUpdate r ok, fun op => op = 6 ∧ compUp s 0 = true)]
    let good := fun (op : Nat) => Served s r (fun x => x = op) ∧ EntryGood s r
    let ends := fun (i : Instr) (base : State) (st cause res : Nat) (P : State → Prop) =>
      EndsWith c s i base st cause res P
    (∀ x ∈ rows,
      let refused := fun (st cause : Nat) => ∃ t, exec x.1 s = .next t ∧ CqePosted p0 t c st cause 0 ∧ t.host.cmds = s.host.cmds
        ∧ VaultsKept s t ∧ SpinelSame s t ∧ t.tiles = s.tiles
      (¬ Served s r x.2 → exec x.1 s = .next s)
      ∧ (Served s r x.2 → badEntry e = true → refused 5 1)
      ∧ (Served s r x.2 → badEntry e = false → featGranted s (entOp e) = false → refused 5 3)
      ∧ (Served s r x.2 → badEntry e = false → featGranted s (entOp e) = true → (∃ y ∈ s.host.cmds, y.ring = r.val ∧ y.cid = entCid e) →
        refused 3 13))
    ∧ (good 0 → ends (.hostNop r) b 0 0 0 fun t => VaultsKept s t ∧ SpinelSame s t ∧ t.tiles = s.tiles)
    ∧ (good 2 → (strictBusy s = true → ends (.planUnload r) b 3 1 0 fun t => t.host.plan = s.host.plan)
      ∧ (strictBusy s = false → ends (.planUnload r) b 0 0 0 NoPlan))
    ∧ (good 1 → PlanLoadActs s r b)
    ∧ (good 3 →
      let valid := fbit s OPAL_STATUS__PLAN_VALID = true
      let busy := ∃ q ∈ planTiles s, tileState s q = 1 ∨ tileState s q = 2 ∨ fbit s TILE_COLLIE_CTRL__ARM q = true
      let same := fun (t : State) => t.tiles = s.tiles ∧ ∀ q, q < 288 → tileState t q = tileState s q
      (¬ valid → ends (.planRun r) b 3 2 0 same)
      ∧ (valid → busy → ends (.planRun r) b 3 1 0 same)
      ∧ (valid → ¬ busy → stopHeld s = true → ends (.planRun r) b 3 12 0 same)
      ∧ (valid → ¬ busy → stopHeld s = false → (∀ x ∈ s.host.planRegs, planReg x.2.1 = true) → ∃ t, exec (.planRun r) s = .next t
        ∧ ∃ y ∈ t.host.cmds, y.ring = r.val ∧ y.cid = c.cid ∧ y.op = 3
          ∧ ∀ lt ∈ s.host.plan, ∀ q, physOf s lt = some q → tileOpen s q = true →
            if bitOf e 64 then fbit t TILE_COLLIE_CTRL__ARM q = true else tileState t q = 1 ∨ y.firstFault.isSome = true))
    ∧ (planRunOf s r = none ∨ compUp s 3 = false ∨ planEnded s = false → exec (.planRunDone r) s = .next s)
    ∧ (∀ k, planRunOf s r = some k → compUp s 3 = true → planEnded s = true →
      let res := match k.firstFault with
        | some x => 1 + x.1 % 2 ^ 9 * 2 ^ 2 + x.2 % 2 ^ 8 * 2 ^ 11
        | none => if k.tStart.isNone || (planTiles s).any fun q => fbit s TILE_COLLIE_STATUS__ABORTED q then 2 else 0
      let at_ := bitsOf k.entry 128 48
      let w := hubWrite s at_ (resultRecord s k) 0 (fget s FAB_QOS_CTRL__HOST_CLASS)
      let done := fun (base : State) (st cause x : Nat) => ∃ t, exec (.planRunDone r) s = .next t ∧ CmdEnded base t k st cause x
      (resultRecord s k).length = 128 ∧ (at_ = 0 → done s 0 0 res)
      ∧ (at_ ≠ 0 → w.2 = 0 → done w.1 0 0 res) ∧ (at_ ≠ 0 → w.2 ≠ 0 → done w.1 4 6 0))
    ∧ (good 4 →
      let mine := fun (x : HostCmd) => x.ring = bitsOf e 64 6 && x.cid = bitsOf e 80 16
      let final := s.host.finals.find? fun x => x.1 = bitsOf e 64 6 && x.2.1 = bitsOf e 80 16
      let q := bitsOf e 64 6
      let queued := fenceHeld b q = true ∧ entCid (headEntry b q) = bitsOf e 80 16
      let gone := fun (t : State) => ∀ x ∈ t.host.cmds, x.ring ≠ r.val ∨ x.cid ≠ c.cid
      let own := fun (st cause res : Nat) => ∃ t, exec (.hostAbort r) s = .next t ∧ CqePosted b t c st cause res ∧ gone t
        ∧ ∀ x ∈ s.host.cmds, x ∈ t.host.cmds
      (∀ k, b.host.cmds.find? mine = some k →
        (k.op = 4 ∨ k.op = 6 → own 3 8 0)
        ∧ (k.op ≠ 4 → k.op ≠ 6 → ∃ u t, exec (.hostAbort r) s = .next t
          ∧ CmdEnded (cancelCmd b k).1 u k 1 0 (cancelCmd b k).2 ∧ CqePosted u t c 0 0 1
          ∧ gone t ∧ (∀ x ∈ t.host.cmds, mine x = false) ∧ VaultsKept s t
          ∧ (k.op = 3 → ∀ q ∈ planTiles s, q < 288 → tileState s q = 1 →
            tileState t q ≠ 1 ∧ fbit t TILE_COLLIE_STATUS__ABORTED q = true)
          ∧ (k.op = 1 → NoPlan t)))
      ∧ (b.host.cmds.find? mine = none → queued → ∃ u t, exec (.hostAbort r) s = .next t
        ∧ CmdEnded (skipEntry b q) u (newCmd q (headEntry b q)) 1 0 0 ∧ CqePosted u t c 0 0 1 ∧ gone t ∧ VaultsKept s t
        ∧ SpinelSame s t ∧ t.tiles = s.tiles)
      ∧ (b.host.cmds.find? mine = none → ¬ queued → (∀ x, final = some x → own 2 0 x.2.2) ∧ (final = none → own 3 8 0)))
    ∧ (good 5 → HostCopyActs s r data ok b)
    ∧ (good 6 → compUp s 0 = true →
      let cls := fget b FAB_QOS_CTRL__HOST_CLASS
      let va := bitsOf e 64 48
      let len := bitsOf e 128 32
      let x := hubRead b cls va (min len 8192)
      let head := x.2.bytes
      let bad := headCause x.1 head len [0] ≠ 0 ∨ bitsOf (imgHeader head) 64 7 < s.fuses.svn
      let y := hubRead x.1 cls (va + 8192) (bitsOf (imgHeader head) 96 32)
      let img := head ++ y.2.bytes
      let failed := fun (base : State) (cause : Nat) => ends (.fwUpdate r ok) base 4 cause 0 fun t => t.flash = s.flash
      (x.2.cause ≠ 0 ∨ x.2.tag ≠ 0 → failed x.1 6)
      ∧ (x.2.cause = 0 → x.2.tag = 0 →
        (bad → failed x.1 9)
        ∧ (¬ bad → y.2.cause ≠ 0 ∨ y.2.tag ≠ 0 → failed y.1 6)
        ∧ (¬ bad → y.2.cause = 0 → y.2.tag = 0 →
          (bodyHashed img = false → failed y.1 9)
          ∧ (bodyHashed img = true → ok = true → ends (.fwUpdate r ok) y.1 0 0 0 fun t => t.flash = { s.flash with fw := img })
          ∧ (bodyHashed img = true → ok = false → ends (.fwUpdate r ok) y.1 4 10 0 fun t => t.flash = { s.flash with fw := [] }))))
end

