-- ==== Sys2Proof/Laws/Bits.lean ====
section
/-! SUPPORT. Laws of bit fields, sparse maps and the byte memory. -/

namespace Sys2Proof.Machine

/-! ### Bit fields -/

@[simp] theorem bitsOf_lt (x lo w : Nat) : bitsOf x lo w < 2 ^ w := Nat.mod_lt _ (Nat.two_pow_pos w)

theorem bitsOf_testBit (x lo w i : Nat) : (bitsOf x lo w).testBit i = (decide (i < w) && x.testBit (lo + i)) := by
  simp [bitsOf, Nat.testBit_mod_two_pow, Nat.testBit_div_two_pow, Nat.add_comm]

theorem setBits_testBit (x lo w v i : Nat) :
    (setBits x lo w v).testBit i =
      if i < lo then x.testBit i else if i < lo + w then v.testBit (i - lo) else x.testBit i := by
  have h1 : setBits x lo w v = 2 ^ lo * (2 ^ w * (x / 2 ^ (lo + w)) + v % 2 ^ w) + x % 2 ^ lo := by
    simp only [setBits, Nat.pow_add, Nat.mul_add]
    rw [Nat.mul_comm (x / _) _, Nat.mul_assoc, Nat.mul_comm (v % _) _]
  rw [h1, Nat.testBit_two_pow_mul_add _ (Nat.mod_lt _ (Nat.two_pow_pos lo))]
  split
  · simp [Nat.testBit_mod_two_pow, *]
  · rename_i h
    rw [Nat.testBit_two_pow_mul_add _ (Nat.mod_lt _ (Nat.two_pow_pos w))]
    by_cases hw : i < lo + w
    · have : i - lo < w := by omega
      simp [Nat.testBit_mod_two_pow, this, hw]
    · have h2 : ¬ i - lo < w := by omega
      simp only [h2, hw, if_false, Nat.testBit_div_two_pow]
      congr 1; omega

/-- A field reads as what was written to it. -/
@[simp] theorem bitsOf_setBits_same (x lo w v : Nat) : bitsOf (setBits x lo w v) lo w = v % 2 ^ w := by
  apply Nat.eq_of_testBit_eq
  intro i
  rw [bitsOf_testBit, setBits_testBit, Nat.testBit_mod_two_pow]
  by_cases h : i < w
  · have h1 : ¬ lo + i < lo := by omega
    have h2 : lo + i < lo + w := by omega
    simp only [h1, h2, if_false, if_true, Nat.add_sub_cancel_left]
  · simp [h]

/-- A field is unchanged by a write of a field apart from it. -/
theorem bitsOf_setBits_disj (x lo w v lo' w' : Nat) (h : lo' + w' ≤ lo ∨ lo + w ≤ lo') :
    bitsOf (setBits x lo w v) lo' w' = bitsOf x lo' w' := by
  apply Nat.eq_of_testBit_eq
  intro i
  rw [bitsOf_testBit, bitsOf_testBit, setBits_testBit]
  by_cases hi : i < w'
  · rcases h with h | h
    · have : lo' + i < lo := by omega
      simp [hi, this]
    · have h1 : ¬ lo' + i < lo := by omega
      have h2 : ¬ lo' + i < lo + w := by omega
      simp [hi, h1, h2]
  · simp [hi]

/-- A field below bit 64 does not see the bits above. -/
theorem bitsOf_mod (x lo w n : Nat) (h : lo + w ≤ n) : bitsOf (x % 2 ^ n) lo w = bitsOf x lo w := by
  apply Nat.eq_of_testBit_eq
  intro i
  rw [bitsOf_testBit, bitsOf_testBit, Nat.testBit_mod_two_pow]
  by_cases hi : i < w
  · have : lo + i < n := by omega
    simp [this]
  · simp [hi]

/-- One bit read as a field. -/
theorem bitOf_eq_testBit (x i : Nat) : bitOf x i = x.testBit i := by
  simp [bitOf, Nat.testBit_eq_decide_div_mod_eq]

@[simp] theorem flag_true : flag true = 1 := rfl
@[simp] theorem flag_false : flag false = 0 := rfl

/-! ### Sparse maps -/

/-- A key reads as what was stored at it. -/
@[simp] theorem smFind_smSet_same {α : Type} (m : SMap α) (k : Nat) (v : α) : smFind (smSet m k v) k = some v := by
  induction m with
  | nil => simp [smSet, smFind]
  | cons x m ih =>
    obtain ⟨a, w⟩ := x
    unfold smSet
    split
    · simp [smFind]
    · split
      · simp [smFind]
      · rename_i h1 h2
        have : a ≠ k := fun e => h2 e.symm
        simp [smFind, this, h1, ih]

/-- Every other key reads as before a store. -/
theorem smFind_smSet_ne {α : Type} (m : SMap α) (k k' : Nat) (v : α) (h : k' ≠ k) :
    smFind (smSet m k v) k' = smFind m k' := by
  induction m with
  | nil =>
    have : k ≠ k' := fun e => h e.symm
    simp [smSet, smFind, this]
  | cons x m ih =>
    obtain ⟨a, w⟩ := x
    have hk : k ≠ k' := fun e => h e.symm
    unfold smSet
    split
    · rename_i h1
      simp only [smFind, hk, if_false]
      by_cases h2 : k' < k
      · have h3 : a ≠ k' := by omega
        have h4 : k' < a := by omega
        simp [h2, h3, h4]
      · simp [h2]
    · split
      · rename_i h1 h2
        subst h2
        simp only [smFind, hk, if_false]
      · simp only [smFind, ih]

/-- In a sorted map no key below the bound is found. -/
theorem smFind_below {α : Type} (m : SMap α) (lo k : Nat) (hs : smSortedFrom lo m = true) (h : k < lo) :
    smFind m k = none := by
  cases m with
  | nil => rfl
  | cons x m =>
    obtain ⟨a, w⟩ := x
    simp only [smSortedFrom, Bool.and_eq_true, decide_eq_true_eq] at hs
    have h1 : a ≠ k := by omega
    have h2 : k < a := by omega
    simp [smFind, h1, h2]

/-- A deleted key reads as nothing. -/
theorem smFind_smDel_same {α : Type} (m : SMap α) (lo k : Nat) (hs : smSortedFrom lo m = true) :
    smFind (smDel m k) k = none := by
  induction m generalizing lo with
  | nil => rfl
  | cons x m ih =>
    obtain ⟨a, w⟩ := x
    simp only [smSortedFrom, Bool.and_eq_true, decide_eq_true_eq] at hs
    unfold smDel
    split
    · have h1 : a ≠ k := by omega
      simp [smFind, *]
    · split
      · exact smFind_below m (a + 1) k hs.2 (by omega)
      · rename_i h1 h2
        have h3 : a ≠ k := fun e => h2 e.symm
        simp only [smFind, h3, if_false, h1, ih (a + 1) hs.2]

/-- Every other key reads as before a deletion. -/
theorem smFind_smDel_ne {α : Type} (m : SMap α) (lo k k' : Nat) (hs : smSortedFrom lo m = true) (h : k' ≠ k) :
    smFind (smDel m k) k' = smFind m k' := by
  induction m generalizing lo with
  | nil => rfl
  | cons x m ih =>
    obtain ⟨a, w⟩ := x
    simp only [smSortedFrom, Bool.and_eq_true, decide_eq_true_eq] at hs
    unfold smDel
    split
    · rfl
    · split
      · rename_i h1 h2
        subst h2
        have hk : k ≠ k' := fun e => h e.symm
        simp only [smFind, hk, if_false]
        split
        · exact smFind_below m (k + 1) k' hs.2 (by omega)
        · rfl
      · simp only [smFind, ih (a + 1) hs.2]

/-- A larger bound on the keys gives a smaller one. -/
theorem smSortedFrom_mono {α : Type} (m : SMap α) (lo lo' : Nat) (hs : smSortedFrom lo m = true) (h : lo' ≤ lo) :
    smSortedFrom lo' m = true := by
  cases m with
  | nil => rfl
  | cons x m =>
    simp only [smSortedFrom, Bool.and_eq_true, decide_eq_true_eq] at *
    exact ⟨by omega, hs.2⟩

/-- A store keeps the keys rising. -/
theorem smSortedFrom_smSet {α : Type} (m : SMap α) (lo k : Nat) (v : α) (hs : smSortedFrom lo m = true) (h : lo ≤ k) :
    smSortedFrom lo (smSet m k v) = true := by
  induction m generalizing lo with
  | nil => simp [smSet, smSortedFrom, h]
  | cons x m ih =>
    obtain ⟨a, w⟩ := x
    simp only [smSortedFrom, Bool.and_eq_true, decide_eq_true_eq] at hs
    unfold smSet
    split
    · simp only [smSortedFrom, Bool.and_eq_true, decide_eq_true_eq]
      exact ⟨h, by omega, hs.2⟩
    · split
      · rename_i h2
        subst h2
        simp [smSortedFrom, h, hs.2]
      · simp only [smSortedFrom, Bool.and_eq_true, decide_eq_true_eq]
        exact ⟨hs.1, ih (a + 1) hs.2 (by omega)⟩

/-- A deletion keeps the keys rising. -/
theorem smSortedFrom_smDel {α : Type} (m : SMap α) (lo k : Nat) (hs : smSortedFrom lo m = true) :
    smSortedFrom lo (smDel m k) = true := by
  induction m generalizing lo with
  | nil => rfl
  | cons x m ih =>
    obtain ⟨a, w⟩ := x
    have hs' := hs
    simp only [smSortedFrom, Bool.and_eq_true, decide_eq_true_eq] at hs
    unfold smDel
    split
    · exact hs'
    · split
      · exact smSortedFrom_mono m (a + 1) lo hs.2 (by omega)
      · simp only [smSortedFrom, Bool.and_eq_true, decide_eq_true_eq]
        exact ⟨hs.1, ih (a + 1) hs.2⟩

/-- A filter keeps the keys rising. -/
theorem smSortedFrom_filter {α : Type} (m : SMap α) (lo : Nat) (f : Nat × α → Bool) (hs : smSortedFrom lo m = true) :
    smSortedFrom lo (m.filter f) = true := by
  induction m generalizing lo with
  | nil => rfl
  | cons x m ih =>
    obtain ⟨a, w⟩ := x
    simp only [smSortedFrom, Bool.and_eq_true, decide_eq_true_eq] at hs
    rw [List.filter_cons]
    split
    · simp only [smSortedFrom, Bool.and_eq_true, decide_eq_true_eq]
      exact ⟨hs.1, ih (a + 1) hs.2⟩
    · exact smSortedFrom_mono _ (a + 1) lo (ih (a + 1) hs.2) (by omega)

@[simp] theorem smGet_smSet_same {α : Type} (m : SMap α) (k : Nat) (v d : α) : smGet (smSet m k v) k d = v := by
  simp [smGet]

theorem smGet_smSet_ne {α : Type} (m : SMap α) (k k' : Nat) (v d : α) (h : k' ≠ k) :
    smGet (smSet m k v) k' d = smGet m k' d := by
  simp [smGet, smFind_smSet_ne m k k' v h]

@[simp] theorem smGet_nil {α : Type} (k : Nat) (d : α) : smGet ([] : SMap α) k d = d := rfl

/-! ### Byte memory -/

/-- The canonical form from a bound on: sorted keys and no empty byte. -/
theorem memWfFrom_iff (m : Memory) (lo : Nat) :
    memWfFrom lo m = true ↔ smSortedFrom lo m = true ∧ ∀ x ∈ m, x.2 ≠ emptyByte := by
  induction m generalizing lo with
  | nil => simp [memWfFrom, smSortedFrom]
  | cons x m ih =>
    obtain ⟨a, b⟩ := x
    simp only [memWfFrom, smSortedFrom, Bool.and_eq_true, decide_eq_true_eq, ih, List.forall_mem_cons]
    constructor
    · rintro ⟨⟨h1, h2⟩, h3, h4⟩; exact ⟨⟨h1, h3⟩, h2, h4⟩
    · rintro ⟨⟨h1, h3⟩, h2, h4⟩; exact ⟨⟨h1, h2⟩, h3, h4⟩

theorem mem_smSet {α : Type} (m : SMap α) (k : Nat) (v : α) (x : Nat × α) (h : x ∈ smSet m k v) : x = (k, v) ∨ x ∈ m := by
  induction m with
  | nil => simpa [smSet] using h
  | cons y m ih =>
    obtain ⟨a, w⟩ := y
    unfold smSet at h
    split at h
    · simpa using h
    · split at h
      · rcases List.mem_cons.1 h with h | h
        · exact .inl h
        · exact .inr (List.mem_cons_of_mem _ h)
      · rcases List.mem_cons.1 h with h | h
        · exact .inr (h ▸ List.mem_cons_self ..)
        · rcases ih h with h | h
          · exact .inl h
          · exact .inr (List.mem_cons_of_mem _ h)

theorem mem_smDel {α : Type} (m : SMap α) (k : Nat) (x : Nat × α) (h : x ∈ smDel m k) : x ∈ m := by
  induction m with
  | nil => simpa [smDel] using h
  | cons y m ih =>
    obtain ⟨a, w⟩ := y
    unfold smDel at h
    split at h
    · exact h
    · split at h
      · exact List.mem_cons_of_mem _ h
      · rcases List.mem_cons.1 h with h | h
        · exact h ▸ List.mem_cons_self ..
        · exact List.mem_cons_of_mem _ (ih h)

/-- Storing a byte keeps the canonical form. -/
theorem memSet_wf (m : Memory) (a : Nat) (b : Byte) (h : m.wf = true) : (memSet m a b).wf = true := by
  obtain ⟨h1, h2⟩ := (memWfFrom_iff m 0).1 h
  unfold memSet Memory.wf
  split
  · exact (memWfFrom_iff _ _).2 ⟨smSortedFrom_smDel m 0 a h1, fun x hx => h2 x (mem_smDel m a x hx)⟩
  · refine (memWfFrom_iff _ _).2 ⟨smSortedFrom_smSet m 0 a b h1 (Nat.zero_le a), fun x hx => ?_⟩
    rcases mem_smSet m a b x hx with rfl | hx
    · assumption
    · exact h2 x hx

/-- Storing bytes keeps the canonical form. -/
theorem memWrite_wf (bs : List Byte) (m : Memory) (a : Nat) (h : m.wf = true) : (memWrite m a bs).wf = true := by
  induction bs generalizing m a with
  | nil => exact h
  | cons b bs ih => exact ih _ _ (memSet_wf m a b h)

/-- Losing bytes keeps the canonical form. -/
theorem memLose_wf (m : Memory) (a n : Nat) (h : m.wf = true) : (memLose m a n).wf = true := by
  obtain ⟨h1, h2⟩ := (memWfFrom_iff m 0).1 h
  exact (memWfFrom_iff _ _).2 ⟨smSortedFrom_filter m 0 _ h1, fun x hx => h2 x ((List.mem_filter.1 hx).1)⟩

/-- A byte reads as what was stored. -/
theorem memGet_memSet_same (m : Memory) (a : Nat) (b : Byte) (h : m.wf = true) : memGet (memSet m a b) a = b := by
  unfold memSet memGet smGet
  split
  · rename_i hb
    rw [smFind_smDel_same m 0 a ((memWfFrom_iff m 0).1 h).1, hb]; rfl
  · simp

/-- Every other byte reads as before a store. -/
theorem memGet_memSet_ne (m : Memory) (a a' : Nat) (b : Byte) (h : m.wf = true) (hn : a' ≠ a) :
    memGet (memSet m a b) a' = memGet m a' := by
  unfold memSet memGet smGet
  split
  · rw [smFind_smDel_ne m 0 a a' ((memWfFrom_iff m 0).1 h).1 hn]
  · rw [smFind_smSet_ne m a a' b hn]

/-- Bytes outside the stored range read as before. -/
theorem memGet_memWrite_out (bs : List Byte) (m : Memory) (a a' : Nat) (h : m.wf = true) (hn : a' < a ∨ a + bs.length ≤ a') :
    memGet (memWrite m a bs) a' = memGet m a' := by
  induction bs generalizing m a with
  | nil => rfl
  | cons b bs ih =>
    simp only [List.length_cons] at hn
    simp only [memWrite]
    rw [ih (memSet m a b) (a + 1) (memSet_wf m a b h) (by omega), memGet_memSet_ne m a a' b h (by omega)]

/-- Bytes inside the stored range read as what was stored. -/
theorem memGet_memWrite_in (bs : List Byte) (m : Memory) (a i : Nat) (h : m.wf = true) (hi : i < bs.length) :
    memGet (memWrite m a bs) (a + i) = bs[i] := by
  induction bs generalizing m a i with
  | nil => simp at hi
  | cons b bs ih =>
    simp only [memWrite]
    cases i with
    | zero =>
      rw [memGet_memWrite_out bs _ (a + 1) (a + 0) (memSet_wf m a b h) (by omega)]
      simpa using memGet_memSet_same m a b h
    | succ i =>
      have := ih (memSet m a b) (a + 1) i (memSet_wf m a b h) (by simpa using hi)
      rw [show a + (i + 1) = a + 1 + i by omega, this]; rfl

end Sys2Proof.Machine
end

