-- ==== Sys2Proof/Laws/Regs.lean ====
section
/-! SUPPORT. Laws of register and field access: what a write of a register or a field leaves in every register. -/

namespace Sys2Proof.Machine

/-! ### One register -/

/-- A register reads as the 64 bits written to it. -/
@[simp] theorem rget_rset_same (s : State) (r : Reg) (v i j : Nat) : rget (rset s r v i j) r i j = v % 2 ^ 64 := by
  simp [rget, rset]

/-- A register at another offset is unchanged. -/
theorem rget_rset_ne (s : State) (r r' : Reg) (v i j i' j' : Nat) (h : regOff r' i' j' ≠ regOff r i j) :
    rget (rset s r v i j) r' i' j' = rget s r' i' j' := by
  simp [rget, rset, smGet_smSet_ne _ _ _ _ _ h]

/-- Every register at another offset is unchanged by a write of a register. -/
theorem regs_rset_ne (s : State) (r : Reg) (v i j off : Nat) (h : off ≠ regOff r i j) :
    smFind (rset s r v i j).regs off = smFind s.regs off := by
  simp [rset, smFind_smSet_ne _ _ _ _ h]

/-- Every register at another offset is unchanged by a write of a field. -/
theorem regs_fset_ne (s : State) (f : Fld) (v i j off : Nat) (h : off ≠ regOff f.reg i j) :
    smFind (fset s f v i j).regs off = smFind s.regs off := regs_rset_ne _ _ _ _ _ _ h

/-- A field reads as what was written to it. -/
theorem fget_fset_same (s : State) (f : Fld) (v i j : Nat) (h : f.lo + f.w ≤ 64) :
    fget (fset s f v i j) f i j = v % 2 ^ f.w := by
  simp only [fget, fset, rget_rset_same]
  rw [bitsOf_mod _ _ _ _ h, bitsOf_setBits_same]

/-- A field of the same register apart from the written one is unchanged. -/
theorem fget_fset_disj (s : State) (r : Reg) (lo w lo' w' v i j : Nat) (h : lo' + w' ≤ lo ∨ lo + w ≤ lo') (hb : lo' + w' ≤ 64) :
    fget (fset s ⟨r, lo, w⟩ v i j) ⟨r, lo', w'⟩ i j = fget s ⟨r, lo', w'⟩ i j := by
  simp only [fget, fset, rget_rset_same]
  rw [bitsOf_mod _ _ _ _ hb, bitsOf_setBits_disj _ _ _ _ _ _ h]

/-- A field of a register at another offset is unchanged by a write of a field. -/
theorem fget_fset_ne (s : State) (f f' : Fld) (v i j i' j' : Nat) (h : regOff f'.reg i' j' ≠ regOff f.reg i j) :
    fget (fset s f v i j) f' i' j' = fget s f' i' j' := by
  simp only [fget, fset, rget_rset_ne _ _ _ _ _ _ _ _ h]

/-- A field of a register at another offset is unchanged by a write of a register. -/
theorem fget_rset_ne (s : State) (r : Reg) (f' : Fld) (v i j i' j' : Nat) (h : regOff f'.reg i' j' ≠ regOff r i j) :
    fget (rset s r v i j) f' i' j' = fget s f' i' j' := by
  simp only [fget, rget_rset_ne _ _ _ _ _ _ _ _ h]

/-- A field of a register that has been written whole. -/
theorem fget_rset_same (s : State) (f : Fld) (v i j : Nat) (h : f.lo + f.w ≤ 64) :
    fget (rset s f.reg v i j) f i j = bitsOf v f.lo f.w := by
  simp only [fget, rget_rset_same]
  rw [bitsOf_mod _ _ _ _ h]

/-- A register at another offset is unchanged by a write of a field. -/
theorem rget_fset_ne (s : State) (f : Fld) (r' : Reg) (v i j i' j' : Nat) (h : regOff r' i' j' ≠ regOff f.reg i j) :
    rget (fset s f v i j) r' i' j' = rget s r' i' j' := rget_rset_ne _ _ _ _ _ _ _ _ h

/-- Registers are read from the register map alone. -/
theorem rget_congr {s t : State} (r : Reg) (i j : Nat) (h : smFind t.regs (regOff r i j) = smFind s.regs (regOff r i j)) :
    rget t r i j = rget s r i j := by
  simp [rget, smGet, h]

theorem fget_congr {s t : State} (f : Fld) (i j : Nat) (h : smFind t.regs (regOff f.reg i j) = smFind s.regs (regOff f.reg i j)) :
    fget t f i j = fget s f i j := by
  simp [fget, rget_congr f.reg i j h]

theorem fget_lt (s : State) (f : Fld) (i j : Nat) : fget s f i j < 2 ^ f.w := bitsOf_lt _ _ _

theorem fbit_eq (s : State) (f : Fld) (i j : Nat) : fbit s f i j = (fget s f i j != 0) := rfl

end Sys2Proof.Machine
end

