-- ==== Sys2Proof/Laws/State.lean ====
section
/-! SUPPORT. What each named update of the state leaves: one lemma per field and update, each true by unfolding. -/

namespace Sys2Proof.Machine

/-! ### After a register write -/

@[simp] theorem rset_pending (s : State) (r : Reg) (v i j : Nat) : (rset s r v i j).pending = s.pending := rfl
@[simp] theorem rset_tiles (s : State) (r : Reg) (v i j : Nat) : (rset s r v i j).tiles = s.tiles := rfl
@[simp] theorem rset_chans (s : State) (r : Reg) (v i j : Nat) : (rset s r v i j).chans = s.chans := rfl
@[simp] theorem rset_regions (s : State) (r : Reg) (v i j : Nat) : (rset s r v i j).regions = s.regions := rfl
@[simp] theorem rset_links (s : State) (r : Reg) (v i j : Nat) : (rset s r v i j).links = s.links := rfl
@[simp] theorem rset_msgs (s : State) (r : Reg) (v i j : Nat) : (rset s r v i j).msgs = s.msgs := rfl
@[simp] theorem rset_nextId (s : State) (r : Reg) (v i j : Nat) : (rset s r v i j).nextId = s.nextId := rfl
@[simp] theorem rset_vaultData (s : State) (r : Reg) (v i j : Nat) : (rset s r v i j).vaultData = s.vaultData := rfl
@[simp] theorem rset_vaultChk (s : State) (r : Reg) (v i j : Nat) : (rset s r v i j).vaultChk = s.vaultChk := rfl
@[simp] theorem rset_vaultPage (s : State) (r : Reg) (v i j : Nat) : (rset s r v i j).vaultPage = s.vaultPage := rfl
@[simp] theorem rset_vaultTag (s : State) (r : Reg) (v i j : Nat) : (rset s r v i j).vaultTag = s.vaultTag := rfl
@[simp] theorem rset_unsealed (s : State) (r : Reg) (v i j : Nat) : (rset s r v i j).unsealed = s.unsealed := rfl
@[simp] theorem rset_spData (s : State) (r : Reg) (v i j : Nat) : (rset s r v i j).spData = s.spData := rfl
@[simp] theorem rset_spChk (s : State) (r : Reg) (v i j : Nat) : (rset s r v i j).spChk = s.spChk := rfl
@[simp] theorem rset_spTag (s : State) (r : Reg) (v i j : Nat) : (rset s r v i j).spTag = s.spTag := rfl
@[simp] theorem rset_bar4 (s : State) (r : Reg) (v i j : Nat) : (rset s r v i j).bar4 = s.bar4 := rfl
@[simp] theorem rset_agate (s : State) (r : Reg) (v i j : Nat) : (rset s r v i j).agate = s.agate := rfl
@[simp] theorem rset_hubQos (s : State) (r : Reg) (v i j : Nat) : (rset s r v i j).hubQos = s.hubQos := rfl
@[simp] theorem rset_topaz (s : State) (r : Reg) (v i j : Nat) : (rset s r v i j).topaz = s.topaz := rfl
@[simp] theorem rset_kelpie (s : State) (r : Reg) (v i j : Nat) : (rset s r v i j).kelpie = s.kelpie := rfl
@[simp] theorem rset_blood (s : State) (r : Reg) (v i j : Nat) : (rset s r v i j).blood = s.blood := rfl
@[simp] theorem rset_husky (s : State) (r : Reg) (v i j : Nat) : (rset s r v i j).husky = s.husky := rfl
@[simp] theorem rset_start (s : State) (r : Reg) (v i j : Nat) : (rset s r v i j).start = s.start := rfl
@[simp] theorem rset_mastiff (s : State) (r : Reg) (v i j : Nat) : (rset s r v i j).mastiff = s.mastiff := rfl
@[simp] theorem rset_fuses (s : State) (r : Reg) (v i j : Nat) : (rset s r v i j).fuses = s.fuses := rfl
@[simp] theorem rset_flash (s : State) (r : Reg) (v i j : Nat) : (rset s r v i j).flash = s.flash := rfl
@[simp] theorem rset_boot (s : State) (r : Reg) (v i j : Nat) : (rset s r v i j).boot = s.boot := rfl
@[simp] theorem rset_host (s : State) (r : Reg) (v i j : Nat) : (rset s r v i j).host = s.host := rfl
@[simp] theorem rset_draws (s : State) (r : Reg) (v i j : Nat) : (rset s r v i j).draws = s.draws := rfl

/-! ### After a field write -/

@[simp] theorem fset_pending (s : State) (f : Fld) (v i j : Nat) : (fset s f v i j).pending = s.pending := rfl
@[simp] theorem fset_tiles (s : State) (f : Fld) (v i j : Nat) : (fset s f v i j).tiles = s.tiles := rfl
@[simp] theorem fset_chans (s : State) (f : Fld) (v i j : Nat) : (fset s f v i j).chans = s.chans := rfl
@[simp] theorem fset_regions (s : State) (f : Fld) (v i j : Nat) : (fset s f v i j).regions = s.regions := rfl
@[simp] theorem fset_links (s : State) (f : Fld) (v i j : Nat) : (fset s f v i j).links = s.links := rfl
@[simp] theorem fset_msgs (s : State) (f : Fld) (v i j : Nat) : (fset s f v i j).msgs = s.msgs := rfl
@[simp] theorem fset_nextId (s : State) (f : Fld) (v i j : Nat) : (fset s f v i j).nextId = s.nextId := rfl
@[simp] theorem fset_vaultData (s : State) (f : Fld) (v i j : Nat) : (fset s f v i j).vaultData = s.vaultData := rfl
@[simp] theorem fset_vaultChk (s : State) (f : Fld) (v i j : Nat) : (fset s f v i j).vaultChk = s.vaultChk := rfl
@[simp] theorem fset_vaultPage (s : State) (f : Fld) (v i j : Nat) : (fset s f v i j).vaultPage = s.vaultPage := rfl
@[simp] theorem fset_vaultTag (s : State) (f : Fld) (v i j : Nat) : (fset s f v i j).vaultTag = s.vaultTag := rfl
@[simp] theorem fset_unsealed (s : State) (f : Fld) (v i j : Nat) : (fset s f v i j).unsealed = s.unsealed := rfl
@[simp] theorem fset_spData (s : State) (f : Fld) (v i j : Nat) : (fset s f v i j).spData = s.spData := rfl
@[simp] theorem fset_spChk (s : State) (f : Fld) (v i j : Nat) : (fset s f v i j).spChk = s.spChk := rfl
@[simp] theorem fset_spTag (s : State) (f : Fld) (v i j : Nat) : (fset s f v i j).spTag = s.spTag := rfl
@[simp] theorem fset_bar4 (s : State) (f : Fld) (v i j : Nat) : (fset s f v i j).bar4 = s.bar4 := rfl
@[simp] theorem fset_agate (s : State) (f : Fld) (v i j : Nat) : (fset s f v i j).agate = s.agate := rfl
@[simp] theorem fset_hubQos (s : State) (f : Fld) (v i j : Nat) : (fset s f v i j).hubQos = s.hubQos := rfl
@[simp] theorem fset_topaz (s : State) (f : Fld) (v i j : Nat) : (fset s f v i j).topaz = s.topaz := rfl
@[simp] theorem fset_kelpie (s : State) (f : Fld) (v i j : Nat) : (fset s f v i j).kelpie = s.kelpie := rfl
@[simp] theorem fset_blood (s : State) (f : Fld) (v i j : Nat) : (fset s f v i j).blood = s.blood := rfl
@[simp] theorem fset_husky (s : State) (f : Fld) (v i j : Nat) : (fset s f v i j).husky = s.husky := rfl
@[simp] theorem fset_start (s : State) (f : Fld) (v i j : Nat) : (fset s f v i j).start = s.start := rfl
@[simp] theorem fset_mastiff (s : State) (f : Fld) (v i j : Nat) : (fset s f v i j).mastiff = s.mastiff := rfl
@[simp] theorem fset_fuses (s : State) (f : Fld) (v i j : Nat) : (fset s f v i j).fuses = s.fuses := rfl
@[simp] theorem fset_flash (s : State) (f : Fld) (v i j : Nat) : (fset s f v i j).flash = s.flash := rfl
@[simp] theorem fset_boot (s : State) (f : Fld) (v i j : Nat) : (fset s f v i j).boot = s.boot := rfl
@[simp] theorem fset_host (s : State) (f : Fld) (v i j : Nat) : (fset s f v i j).host = s.host := rfl
@[simp] theorem fset_draws (s : State) (f : Fld) (v i j : Nat) : (fset s f v i j).draws = s.draws := rfl

/-! ### After a register reset -/

@[simp] theorem rreset_pending (s : State) (r : Reg) (i j : Nat) : (rreset s r i j).pending = s.pending := rfl
@[simp] theorem rreset_tiles (s : State) (r : Reg) (i j : Nat) : (rreset s r i j).tiles = s.tiles := rfl
@[simp] theorem rreset_chans (s : State) (r : Reg) (i j : Nat) : (rreset s r i j).chans = s.chans := rfl
@[simp] theorem rreset_regions (s : State) (r : Reg) (i j : Nat) : (rreset s r i j).regions = s.regions := rfl
@[simp] theorem rreset_links (s : State) (r : Reg) (i j : Nat) : (rreset s r i j).links = s.links := rfl
@[simp] theorem rreset_msgs (s : State) (r : Reg) (i j : Nat) : (rreset s r i j).msgs = s.msgs := rfl
@[simp] theorem rreset_nextId (s : State) (r : Reg) (i j : Nat) : (rreset s r i j).nextId = s.nextId := rfl
@[simp] theorem rreset_vaultData (s : State) (r : Reg) (i j : Nat) : (rreset s r i j).vaultData = s.vaultData := rfl
@[simp] theorem rreset_vaultChk (s : State) (r : Reg) (i j : Nat) : (rreset s r i j).vaultChk = s.vaultChk := rfl
@[simp] theorem rreset_vaultPage (s : State) (r : Reg) (i j : Nat) : (rreset s r i j).vaultPage = s.vaultPage := rfl
@[simp] theorem rreset_vaultTag (s : State) (r : Reg) (i j : Nat) : (rreset s r i j).vaultTag = s.vaultTag := rfl
@[simp] theorem rreset_unsealed (s : State) (r : Reg) (i j : Nat) : (rreset s r i j).unsealed = s.unsealed := rfl
@[simp] theorem rreset_spData (s : State) (r : Reg) (i j : Nat) : (rreset s r i j).spData = s.spData := rfl
@[simp] theorem rreset_spChk (s : State) (r : Reg) (i j : Nat) : (rreset s r i j).spChk = s.spChk := rfl
@[simp] theorem rreset_spTag (s : State) (r : Reg) (i j : Nat) : (rreset s r i j).spTag = s.spTag := rfl
@[simp] theorem rreset_bar4 (s : State) (r : Reg) (i j : Nat) : (rreset s r i j).bar4 = s.bar4 := rfl
@[simp] theorem rreset_agate (s : State) (r : Reg) (i j : Nat) : (rreset s r i j).agate = s.agate := rfl
@[simp] theorem rreset_hubQos (s : State) (r : Reg) (i j : Nat) : (rreset s r i j).hubQos = s.hubQos := rfl
@[simp] theorem rreset_topaz (s : State) (r : Reg) (i j : Nat) : (rreset s r i j).topaz = s.topaz := rfl
@[simp] theorem rreset_kelpie (s : State) (r : Reg) (i j : Nat) : (rreset s r i j).kelpie = s.kelpie := rfl
@[simp] theorem rreset_blood (s : State) (r : Reg) (i j : Nat) : (rreset s r i j).blood = s.blood := rfl
@[simp] theorem rreset_husky (s : State) (r : Reg) (i j : Nat) : (rreset s r i j).husky = s.husky := rfl
@[simp] theorem rreset_start (s : State) (r : Reg) (i j : Nat) : (rreset s r i j).start = s.start := rfl
@[simp] theorem rreset_mastiff (s : State) (r : Reg) (i j : Nat) : (rreset s r i j).mastiff = s.mastiff := rfl
@[simp] theorem rreset_fuses (s : State) (r : Reg) (i j : Nat) : (rreset s r i j).fuses = s.fuses := rfl
@[simp] theorem rreset_flash (s : State) (r : Reg) (i j : Nat) : (rreset s r i j).flash = s.flash := rfl
@[simp] theorem rreset_boot (s : State) (r : Reg) (i j : Nat) : (rreset s r i j).boot = s.boot := rfl
@[simp] theorem rreset_host (s : State) (r : Reg) (i j : Nat) : (rreset s r i j).host = s.host := rfl
@[simp] theorem rreset_draws (s : State) (r : Reg) (i j : Nat) : (rreset s r i j).draws = s.draws := rfl

/-! ### After taking a number -/

@[simp] theorem fresh_pending (s : State) : (fresh s).1.pending = s.pending := rfl
@[simp] theorem fresh_regs (s : State) : (fresh s).1.regs = s.regs := rfl
@[simp] theorem fresh_tiles (s : State) : (fresh s).1.tiles = s.tiles := rfl
@[simp] theorem fresh_chans (s : State) : (fresh s).1.chans = s.chans := rfl
@[simp] theorem fresh_regions (s : State) : (fresh s).1.regions = s.regions := rfl
@[simp] theorem fresh_links (s : State) : (fresh s).1.links = s.links := rfl
@[simp] theorem fresh_msgs (s : State) : (fresh s).1.msgs = s.msgs := rfl
@[simp] theorem fresh_vaultData (s : State) : (fresh s).1.vaultData = s.vaultData := rfl
@[simp] theorem fresh_vaultChk (s : State) : (fresh s).1.vaultChk = s.vaultChk := rfl
@[simp] theorem fresh_vaultPage (s : State) : (fresh s).1.vaultPage = s.vaultPage := rfl
@[simp] theorem fresh_vaultTag (s : State) : (fresh s).1.vaultTag = s.vaultTag := rfl
@[simp] theorem fresh_unsealed (s : State) : (fresh s).1.unsealed = s.unsealed := rfl
@[simp] theorem fresh_spData (s : State) : (fresh s).1.spData = s.spData := rfl
@[simp] theorem fresh_spChk (s : State) : (fresh s).1.spChk = s.spChk := rfl
@[simp] theorem fresh_spTag (s : State) : (fresh s).1.spTag = s.spTag := rfl
@[simp] theorem fresh_bar4 (s : State) : (fresh s).1.bar4 = s.bar4 := rfl
@[simp] theorem fresh_agate (s : State) : (fresh s).1.agate = s.agate := rfl
@[simp] theorem fresh_hubQos (s : State) : (fresh s).1.hubQos = s.hubQos := rfl
@[simp] theorem fresh_topaz (s : State) : (fresh s).1.topaz = s.topaz := rfl
@[simp] theorem fresh_kelpie (s : State) : (fresh s).1.kelpie = s.kelpie := rfl
@[simp] theorem fresh_blood (s : State) : (fresh s).1.blood = s.blood := rfl
@[simp] theorem fresh_husky (s : State) : (fresh s).1.husky = s.husky := rfl
@[simp] theorem fresh_start (s : State) : (fresh s).1.start = s.start := rfl
@[simp] theorem fresh_mastiff (s : State) : (fresh s).1.mastiff = s.mastiff := rfl
@[simp] theorem fresh_fuses (s : State) : (fresh s).1.fuses = s.fuses := rfl
@[simp] theorem fresh_flash (s : State) : (fresh s).1.flash = s.flash := rfl
@[simp] theorem fresh_boot (s : State) : (fresh s).1.boot = s.boot := rfl
@[simp] theorem fresh_host (s : State) : (fresh s).1.host = s.host := rfl
@[simp] theorem fresh_draws (s : State) : (fresh s).1.draws = s.draws := rfl

/-! ### After a change of a tile -/

@[simp] theorem onTile_pending (s : State) (p : Nat) (f : Tile → Tile) : (onTile s p f).pending = s.pending := rfl
@[simp] theorem onTile_regs (s : State) (p : Nat) (f : Tile → Tile) : (onTile s p f).regs = s.regs := rfl
@[simp] theorem onTile_chans (s : State) (p : Nat) (f : Tile → Tile) : (onTile s p f).chans = s.chans := rfl
@[simp] theorem onTile_regions (s : State) (p : Nat) (f : Tile → Tile) : (onTile s p f).regions = s.regions := rfl
@[simp] theorem onTile_links (s : State) (p : Nat) (f : Tile → Tile) : (onTile s p f).links = s.links := rfl
@[simp] theorem onTile_msgs (s : State) (p : Nat) (f : Tile → Tile) : (onTile s p f).msgs = s.msgs := rfl
@[simp] theorem onTile_nextId (s : State) (p : Nat) (f : Tile → Tile) : (onTile s p f).nextId = s.nextId := rfl
@[simp] theorem onTile_vaultData (s : State) (p : Nat) (f : Tile → Tile) : (onTile s p f).vaultData = s.vaultData := rfl
@[simp] theorem onTile_vaultChk (s : State) (p : Nat) (f : Tile → Tile) : (onTile s p f).vaultChk = s.vaultChk := rfl
@[simp] theorem onTile_vaultPage (s : State) (p : Nat) (f : Tile → Tile) : (onTile s p f).vaultPage = s.vaultPage := rfl
@[simp] theorem onTile_vaultTag (s : State) (p : Nat) (f : Tile → Tile) : (onTile s p f).vaultTag = s.vaultTag := rfl
@[simp] theorem onTile_unsealed (s : State) (p : Nat) (f : Tile → Tile) : (onTile s p f).unsealed = s.unsealed := rfl
@[simp] theorem onTile_spData (s : State) (p : Nat) (f : Tile → Tile) : (onTile s p f).spData = s.spData := rfl
@[simp] theorem onTile_spChk (s : State) (p : Nat) (f : Tile → Tile) : (onTile s p f).spChk = s.spChk := rfl
@[simp] theorem onTile_spTag (s : State) (p : Nat) (f : Tile → Tile) : (onTile s p f).spTag = s.spTag := rfl
@[simp] theorem onTile_bar4 (s : State) (p : Nat) (f : Tile → Tile) : (onTile s p f).bar4 = s.bar4 := rfl
@[simp] theorem onTile_agate (s : State) (p : Nat) (f : Tile → Tile) : (onTile s p f).agate = s.agate := rfl
@[simp] theorem onTile_hubQos (s : State) (p : Nat) (f : Tile → Tile) : (onTile s p f).hubQos = s.hubQos := rfl
@[simp] theorem onTile_topaz (s : State) (p : Nat) (f : Tile → Tile) : (onTile s p f).topaz = s.topaz := rfl
@[simp] theorem onTile_kelpie (s : State) (p : Nat) (f : Tile → Tile) : (onTile s p f).kelpie = s.kelpie := rfl
@[simp] theorem onTile_blood (s : State) (p : Nat) (f : Tile → Tile) : (onTile s p f).blood = s.blood := rfl
@[simp] theorem onTile_husky (s : State) (p : Nat) (f : Tile → Tile) : (onTile s p f).husky = s.husky := rfl
@[simp] theorem onTile_start (s : State) (p : Nat) (f : Tile → Tile) : (onTile s p f).start = s.start := rfl
@[simp] theorem onTile_mastiff (s : State) (p : Nat) (f : Tile → Tile) : (onTile s p f).mastiff = s.mastiff := rfl
@[simp] theorem onTile_fuses (s : State) (p : Nat) (f : Tile → Tile) : (onTile s p f).fuses = s.fuses := rfl
@[simp] theorem onTile_flash (s : State) (p : Nat) (f : Tile → Tile) : (onTile s p f).flash = s.flash := rfl
@[simp] theorem onTile_boot (s : State) (p : Nat) (f : Tile → Tile) : (onTile s p f).boot = s.boot := rfl
@[simp] theorem onTile_host (s : State) (p : Nat) (f : Tile → Tile) : (onTile s p f).host = s.host := rfl
@[simp] theorem onTile_draws (s : State) (p : Nat) (f : Tile → Tile) : (onTile s p f).draws = s.draws := rfl

/-! ### After a change of a stream -/

@[simp] theorem onStream_pending (s : State) (p k : Nat) (f : Stream → Stream) : (onStream s p k f).pending = s.pending := rfl
@[simp] theorem onStream_regs (s : State) (p k : Nat) (f : Stream → Stream) : (onStream s p k f).regs = s.regs := rfl
@[simp] theorem onStream_chans (s : State) (p k : Nat) (f : Stream → Stream) : (onStream s p k f).chans = s.chans := rfl
@[simp] theorem onStream_regions (s : State) (p k : Nat) (f : Stream → Stream) : (onStream s p k f).regions = s.regions := rfl
@[simp] theorem onStream_links (s : State) (p k : Nat) (f : Stream → Stream) : (onStream s p k f).links = s.links := rfl
@[simp] theorem onStream_msgs (s : State) (p k : Nat) (f : Stream → Stream) : (onStream s p k f).msgs = s.msgs := rfl
@[simp] theorem onStream_nextId (s : State) (p k : Nat) (f : Stream → Stream) : (onStream s p k f).nextId = s.nextId := rfl
@[simp] theorem onStream_vaultData (s : State) (p k : Nat) (f : Stream → Stream) : (onStream s p k f).vaultData = s.vaultData := rfl
@[simp] theorem onStream_vaultChk (s : State) (p k : Nat) (f : Stream → Stream) : (onStream s p k f).vaultChk = s.vaultChk := rfl
@[simp] theorem onStream_vaultPage (s : State) (p k : Nat) (f : Stream → Stream) : (onStream s p k f).vaultPage = s.vaultPage := rfl
@[simp] theorem onStream_vaultTag (s : State) (p k : Nat) (f : Stream → Stream) : (onStream s p k f).vaultTag = s.vaultTag := rfl
@[simp] theorem onStream_unsealed (s : State) (p k : Nat) (f : Stream → Stream) : (onStream s p k f).unsealed = s.unsealed := rfl
@[simp] theorem onStream_spData (s : State) (p k : Nat) (f : Stream → Stream) : (onStream s p k f).spData = s.spData := rfl
@[simp] theorem onStream_spChk (s : State) (p k : Nat) (f : Stream → Stream) : (onStream s p k f).spChk = s.spChk := rfl
@[simp] theorem onStream_spTag (s : State) (p k : Nat) (f : Stream → Stream) : (onStream s p k f).spTag = s.spTag := rfl
@[simp] theorem onStream_bar4 (s : State) (p k : Nat) (f : Stream → Stream) : (onStream s p k f).bar4 = s.bar4 := rfl
@[simp] theorem onStream_agate (s : State) (p k : Nat) (f : Stream → Stream) : (onStream s p k f).agate = s.agate := rfl
@[simp] theorem onStream_hubQos (s : State) (p k : Nat) (f : Stream → Stream) : (onStream s p k f).hubQos = s.hubQos := rfl
@[simp] theorem onStream_topaz (s : State) (p k : Nat) (f : Stream → Stream) : (onStream s p k f).topaz = s.topaz := rfl
@[simp] theorem onStream_kelpie (s : State) (p k : Nat) (f : Stream → Stream) : (onStream s p k f).kelpie = s.kelpie := rfl
@[simp] theorem onStream_blood (s : State) (p k : Nat) (f : Stream → Stream) : (onStream s p k f).blood = s.blood := rfl
@[simp] theorem onStream_husky (s : State) (p k : Nat) (f : Stream → Stream) : (onStream s p k f).husky = s.husky := rfl
@[simp] theorem onStream_start (s : State) (p k : Nat) (f : Stream → Stream) : (onStream s p k f).start = s.start := rfl
@[simp] theorem onStream_mastiff (s : State) (p k : Nat) (f : Stream → Stream) : (onStream s p k f).mastiff = s.mastiff := rfl
@[simp] theorem onStream_fuses (s : State) (p k : Nat) (f : Stream → Stream) : (onStream s p k f).fuses = s.fuses := rfl
@[simp] theorem onStream_flash (s : State) (p k : Nat) (f : Stream → Stream) : (onStream s p k f).flash = s.flash := rfl
@[simp] theorem onStream_boot (s : State) (p k : Nat) (f : Stream → Stream) : (onStream s p k f).boot = s.boot := rfl
@[simp] theorem onStream_host (s : State) (p k : Nat) (f : Stream → Stream) : (onStream s p k f).host = s.host := rfl
@[simp] theorem onStream_draws (s : State) (p k : Nat) (f : Stream → Stream) : (onStream s p k f).draws = s.draws := rfl

/-! ### After a change of an array -/

@[simp] theorem onGarnet_pending (s : State) (p : Nat) (f : Garnet → Garnet) : (onGarnet s p f).pending = s.pending := rfl
@[simp] theorem onGarnet_regs (s : State) (p : Nat) (f : Garnet → Garnet) : (onGarnet s p f).regs = s.regs := rfl
@[simp] theorem onGarnet_chans (s : State) (p : Nat) (f : Garnet → Garnet) : (onGarnet s p f).chans = s.chans := rfl
@[simp] theorem onGarnet_regions (s : State) (p : Nat) (f : Garnet → Garnet) : (onGarnet s p f).regions = s.regions := rfl
@[simp] theorem onGarnet_links (s : State) (p : Nat) (f : Garnet → Garnet) : (onGarnet s p f).links = s.links := rfl
@[simp] theorem onGarnet_msgs (s : State) (p : Nat) (f : Garnet → Garnet) : (onGarnet s p f).msgs = s.msgs := rfl
@[simp] theorem onGarnet_nextId (s : State) (p : Nat) (f : Garnet → Garnet) : (onGarnet s p f).nextId = s.nextId := rfl
@[simp] theorem onGarnet_vaultData (s : State) (p : Nat) (f : Garnet → Garnet) : (onGarnet s p f).vaultData = s.vaultData := rfl
@[simp] theorem onGarnet_vaultChk (s : State) (p : Nat) (f : Garnet → Garnet) : (onGarnet s p f).vaultChk = s.vaultChk := rfl
@[simp] theorem onGarnet_vaultPage (s : State) (p : Nat) (f : Garnet → Garnet) : (onGarnet s p f).vaultPage = s.vaultPage := rfl
@[simp] theorem onGarnet_vaultTag (s : State) (p : Nat) (f : Garnet → Garnet) : (onGarnet s p f).vaultTag = s.vaultTag := rfl
@[simp] theorem onGarnet_unsealed (s : State) (p : Nat) (f : Garnet → Garnet) : (onGarnet s p f).unsealed = s.unsealed := rfl
@[simp] theorem onGarnet_spData (s : State) (p : Nat) (f : Garnet → Garnet) : (onGarnet s p f).spData = s.spData := rfl
@[simp] theorem onGarnet_spChk (s : State) (p : Nat) (f : Garnet → Garnet) : (onGarnet s p f).spChk = s.spChk := rfl
@[simp] theorem onGarnet_spTag (s : State) (p : Nat) (f : Garnet → Garnet) : (onGarnet s p f).spTag = s.spTag := rfl
@[simp] theorem onGarnet_bar4 (s : State) (p : Nat) (f : Garnet → Garnet) : (onGarnet s p f).bar4 = s.bar4 := rfl
@[simp] theorem onGarnet_agate (s : State) (p : Nat) (f : Garnet → Garnet) : (onGarnet s p f).agate = s.agate := rfl
@[simp] theorem onGarnet_hubQos (s : State) (p : Nat) (f : Garnet → Garnet) : (onGarnet s p f).hubQos = s.hubQos := rfl
@[simp] theorem onGarnet_topaz (s : State) (p : Nat) (f : Garnet → Garnet) : (onGarnet s p f).topaz = s.topaz := rfl
@[simp] theorem onGarnet_kelpie (s : State) (p : Nat) (f : Garnet → Garnet) : (onGarnet s p f).kelpie = s.kelpie := rfl
@[simp] theorem onGarnet_blood (s : State) (p : Nat) (f : Garnet → Garnet) : (onGarnet s p f).blood = s.blood := rfl
@[simp] theorem onGarnet_husky (s : State) (p : Nat) (f : Garnet → Garnet) : (onGarnet s p f).husky = s.husky := rfl
@[simp] theorem onGarnet_start (s : State) (p : Nat) (f : Garnet → Garnet) : (onGarnet s p f).start = s.start := rfl
@[simp] theorem onGarnet_mastiff (s : State) (p : Nat) (f : Garnet → Garnet) : (onGarnet s p f).mastiff = s.mastiff := rfl
@[simp] theorem onGarnet_fuses (s : State) (p : Nat) (f : Garnet → Garnet) : (onGarnet s p f).fuses = s.fuses := rfl
@[simp] theorem onGarnet_flash (s : State) (p : Nat) (f : Garnet → Garnet) : (onGarnet s p f).flash = s.flash := rfl
@[simp] theorem onGarnet_boot (s : State) (p : Nat) (f : Garnet → Garnet) : (onGarnet s p f).boot = s.boot := rfl
@[simp] theorem onGarnet_host (s : State) (p : Nat) (f : Garnet → Garnet) : (onGarnet s p f).host = s.host := rfl
@[simp] theorem onGarnet_draws (s : State) (p : Nat) (f : Garnet → Garnet) : (onGarnet s p f).draws = s.draws := rfl

/-! ### After a change of a Jasper program -/

@[simp] theorem onProg_pending (s : State) (p : Nat) (f : JProg → JProg) : (onProg s p f).pending = s.pending := rfl
@[simp] theorem onProg_regs (s : State) (p : Nat) (f : JProg → JProg) : (onProg s p f).regs = s.regs := rfl
@[simp] theorem onProg_chans (s : State) (p : Nat) (f : JProg → JProg) : (onProg s p f).chans = s.chans := rfl
@[simp] theorem onProg_regions (s : State) (p : Nat) (f : JProg → JProg) : (onProg s p f).regions = s.regions := rfl
@[simp] theorem onProg_links (s : State) (p : Nat) (f : JProg → JProg) : (onProg s p f).links = s.links := rfl
@[simp] theorem onProg_msgs (s : State) (p : Nat) (f : JProg → JProg) : (onProg s p f).msgs = s.msgs := rfl
@[simp] theorem onProg_nextId (s : State) (p : Nat) (f : JProg → JProg) : (onProg s p f).nextId = s.nextId := rfl
@[simp] theorem onProg_vaultData (s : State) (p : Nat) (f : JProg → JProg) : (onProg s p f).vaultData = s.vaultData := rfl
@[simp] theorem onProg_vaultChk (s : State) (p : Nat) (f : JProg → JProg) : (onProg s p f).vaultChk = s.vaultChk := rfl
@[simp] theorem onProg_vaultPage (s : State) (p : Nat) (f : JProg → JProg) : (onProg s p f).vaultPage = s.vaultPage := rfl
@[simp] theorem onProg_vaultTag (s : State) (p : Nat) (f : JProg → JProg) : (onProg s p f).vaultTag = s.vaultTag := rfl
@[simp] theorem onProg_unsealed (s : State) (p : Nat) (f : JProg → JProg) : (onProg s p f).unsealed = s.unsealed := rfl
@[simp] theorem onProg_spData (s : State) (p : Nat) (f : JProg → JProg) : (onProg s p f).spData = s.spData := rfl
@[simp] theorem onProg_spChk (s : State) (p : Nat) (f : JProg → JProg) : (onProg s p f).spChk = s.spChk := rfl
@[simp] theorem onProg_spTag (s : State) (p : Nat) (f : JProg → JProg) : (onProg s p f).spTag = s.spTag := rfl
@[simp] theorem onProg_bar4 (s : State) (p : Nat) (f : JProg → JProg) : (onProg s p f).bar4 = s.bar4 := rfl
@[simp] theorem onProg_agate (s : State) (p : Nat) (f : JProg → JProg) : (onProg s p f).agate = s.agate := rfl
@[simp] theorem onProg_hubQos (s : State) (p : Nat) (f : JProg → JProg) : (onProg s p f).hubQos = s.hubQos := rfl
@[simp] theorem onProg_topaz (s : State) (p : Nat) (f : JProg → JProg) : (onProg s p f).topaz = s.topaz := rfl
@[simp] theorem onProg_kelpie (s : State) (p : Nat) (f : JProg → JProg) : (onProg s p f).kelpie = s.kelpie := rfl
@[simp] theorem onProg_blood (s : State) (p : Nat) (f : JProg → JProg) : (onProg s p f).blood = s.blood := rfl
@[simp] theorem onProg_husky (s : State) (p : Nat) (f : JProg → JProg) : (onProg s p f).husky = s.husky := rfl
@[simp] theorem onProg_start (s : State) (p : Nat) (f : JProg → JProg) : (onProg s p f).start = s.start := rfl
@[simp] theorem onProg_mastiff (s : State) (p : Nat) (f : JProg → JProg) : (onProg s p f).mastiff = s.mastiff := rfl
@[simp] theorem onProg_fuses (s : State) (p : Nat) (f : JProg → JProg) : (onProg s p f).fuses = s.fuses := rfl
@[simp] theorem onProg_flash (s : State) (p : Nat) (f : JProg → JProg) : (onProg s p f).flash = s.flash := rfl
@[simp] theorem onProg_boot (s : State) (p : Nat) (f : JProg → JProg) : (onProg s p f).boot = s.boot := rfl
@[simp] theorem onProg_host (s : State) (p : Nat) (f : JProg → JProg) : (onProg s p f).host = s.host := rfl
@[simp] theorem onProg_draws (s : State) (p : Nat) (f : JProg → JProg) : (onProg s p f).draws = s.draws := rfl

/-! ### After a change of a channel -/

@[simp] theorem onChan_pending (s : State) (p c : Nat) (f : Chan → Chan) : (onChan s p c f).pending = s.pending := rfl
@[simp] theorem onChan_regs (s : State) (p c : Nat) (f : Chan → Chan) : (onChan s p c f).regs = s.regs := rfl
@[simp] theorem onChan_tiles (s : State) (p c : Nat) (f : Chan → Chan) : (onChan s p c f).tiles = s.tiles := rfl
@[simp] theorem onChan_regions (s : State) (p c : Nat) (f : Chan → Chan) : (onChan s p c f).regions = s.regions := rfl
@[simp] theorem onChan_links (s : State) (p c : Nat) (f : Chan → Chan) : (onChan s p c f).links = s.links := rfl
@[simp] theorem onChan_msgs (s : State) (p c : Nat) (f : Chan → Chan) : (onChan s p c f).msgs = s.msgs := rfl
@[simp] theorem onChan_nextId (s : State) (p c : Nat) (f : Chan → Chan) : (onChan s p c f).nextId = s.nextId := rfl
@[simp] theorem onChan_vaultData (s : State) (p c : Nat) (f : Chan → Chan) : (onChan s p c f).vaultData = s.vaultData := rfl
@[simp] theorem onChan_vaultChk (s : State) (p c : Nat) (f : Chan → Chan) : (onChan s p c f).vaultChk = s.vaultChk := rfl
@[simp] theorem onChan_vaultPage (s : State) (p c : Nat) (f : Chan → Chan) : (onChan s p c f).vaultPage = s.vaultPage := rfl
@[simp] theorem onChan_vaultTag (s : State) (p c : Nat) (f : Chan → Chan) : (onChan s p c f).vaultTag = s.vaultTag := rfl
@[simp] theorem onChan_unsealed (s : State) (p c : Nat) (f : Chan → Chan) : (onChan s p c f).unsealed = s.unsealed := rfl
@[simp] theorem onChan_spData (s : State) (p c : Nat) (f : Chan → Chan) : (onChan s p c f).spData = s.spData := rfl
@[simp] theorem onChan_spChk (s : State) (p c : Nat) (f : Chan → Chan) : (onChan s p c f).spChk = s.spChk := rfl
@[simp] theorem onChan_spTag (s : State) (p c : Nat) (f : Chan → Chan) : (onChan s p c f).spTag = s.spTag := rfl
@[simp] theorem onChan_bar4 (s : State) (p c : Nat) (f : Chan → Chan) : (onChan s p c f).bar4 = s.bar4 := rfl
@[simp] theorem onChan_agate (s : State) (p c : Nat) (f : Chan → Chan) : (onChan s p c f).agate = s.agate := rfl
@[simp] theorem onChan_hubQos (s : State) (p c : Nat) (f : Chan → Chan) : (onChan s p c f).hubQos = s.hubQos := rfl
@[simp] theorem onChan_topaz (s : State) (p c : Nat) (f : Chan → Chan) : (onChan s p c f).topaz = s.topaz := rfl
@[simp] theorem onChan_kelpie (s : State) (p c : Nat) (f : Chan → Chan) : (onChan s p c f).kelpie = s.kelpie := rfl
@[simp] theorem onChan_blood (s : State) (p c : Nat) (f : Chan → Chan) : (onChan s p c f).blood = s.blood := rfl
@[simp] theorem onChan_husky (s : State) (p c : Nat) (f : Chan → Chan) : (onChan s p c f).husky = s.husky := rfl
@[simp] theorem onChan_start (s : State) (p c : Nat) (f : Chan → Chan) : (onChan s p c f).start = s.start := rfl
@[simp] theorem onChan_mastiff (s : State) (p c : Nat) (f : Chan → Chan) : (onChan s p c f).mastiff = s.mastiff := rfl
@[simp] theorem onChan_fuses (s : State) (p c : Nat) (f : Chan → Chan) : (onChan s p c f).fuses = s.fuses := rfl
@[simp] theorem onChan_flash (s : State) (p c : Nat) (f : Chan → Chan) : (onChan s p c f).flash = s.flash := rfl
@[simp] theorem onChan_boot (s : State) (p c : Nat) (f : Chan → Chan) : (onChan s p c f).boot = s.boot := rfl
@[simp] theorem onChan_host (s : State) (p c : Nat) (f : Chan → Chan) : (onChan s p c f).host = s.host := rfl
@[simp] theorem onChan_draws (s : State) (p c : Nat) (f : Chan → Chan) : (onChan s p c f).draws = s.draws := rfl

/-! ### After a change of a region controller -/

@[simp] theorem onRegion_pending (s : State) (g : Nat) (f : Region → Region) : (onRegion s g f).pending = s.pending := rfl
@[simp] theorem onRegion_regs (s : State) (g : Nat) (f : Region → Region) : (onRegion s g f).regs = s.regs := rfl
@[simp] theorem onRegion_tiles (s : State) (g : Nat) (f : Region → Region) : (onRegion s g f).tiles = s.tiles := rfl
@[simp] theorem onRegion_chans (s : State) (g : Nat) (f : Region → Region) : (onRegion s g f).chans = s.chans := rfl
@[simp] theorem onRegion_links (s : State) (g : Nat) (f : Region → Region) : (onRegion s g f).links = s.links := rfl
@[simp] theorem onRegion_msgs (s : State) (g : Nat) (f : Region → Region) : (onRegion s g f).msgs = s.msgs := rfl
@[simp] theorem onRegion_nextId (s : State) (g : Nat) (f : Region → Region) : (onRegion s g f).nextId = s.nextId := rfl
@[simp] theorem onRegion_vaultData (s : State) (g : Nat) (f : Region → Region) : (onRegion s g f).vaultData = s.vaultData := rfl
@[simp] theorem onRegion_vaultChk (s : State) (g : Nat) (f : Region → Region) : (onRegion s g f).vaultChk = s.vaultChk := rfl
@[simp] theorem onRegion_vaultPage (s : State) (g : Nat) (f : Region → Region) : (onRegion s g f).vaultPage = s.vaultPage := rfl
@[simp] theorem onRegion_vaultTag (s : State) (g : Nat) (f : Region → Region) : (onRegion s g f).vaultTag = s.vaultTag := rfl
@[simp] theorem onRegion_unsealed (s : State) (g : Nat) (f : Region → Region) : (onRegion s g f).unsealed = s.unsealed := rfl
@[simp] theorem onRegion_spData (s : State) (g : Nat) (f : Region → Region) : (onRegion s g f).spData = s.spData := rfl
@[simp] theorem onRegion_spChk (s : State) (g : Nat) (f : Region → Region) : (onRegion s g f).spChk = s.spChk := rfl
@[simp] theorem onRegion_spTag (s : State) (g : Nat) (f : Region → Region) : (onRegion s g f).spTag = s.spTag := rfl
@[simp] theorem onRegion_bar4 (s : State) (g : Nat) (f : Region → Region) : (onRegion s g f).bar4 = s.bar4 := rfl
@[simp] theorem onRegion_agate (s : State) (g : Nat) (f : Region → Region) : (onRegion s g f).agate = s.agate := rfl
@[simp] theorem onRegion_hubQos (s : State) (g : Nat) (f : Region → Region) : (onRegion s g f).hubQos = s.hubQos := rfl
@[simp] theorem onRegion_topaz (s : State) (g : Nat) (f : Region → Region) : (onRegion s g f).topaz = s.topaz := rfl
@[simp] theorem onRegion_kelpie (s : State) (g : Nat) (f : Region → Region) : (onRegion s g f).kelpie = s.kelpie := rfl
@[simp] theorem onRegion_blood (s : State) (g : Nat) (f : Region → Region) : (onRegion s g f).blood = s.blood := rfl
@[simp] theorem onRegion_husky (s : State) (g : Nat) (f : Region → Region) : (onRegion s g f).husky = s.husky := rfl
@[simp] theorem onRegion_start (s : State) (g : Nat) (f : Region → Region) : (onRegion s g f).start = s.start := rfl
@[simp] theorem onRegion_mastiff (s : State) (g : Nat) (f : Region → Region) : (onRegion s g f).mastiff = s.mastiff := rfl
@[simp] theorem onRegion_fuses (s : State) (g : Nat) (f : Region → Region) : (onRegion s g f).fuses = s.fuses := rfl
@[simp] theorem onRegion_flash (s : State) (g : Nat) (f : Region → Region) : (onRegion s g f).flash = s.flash := rfl
@[simp] theorem onRegion_boot (s : State) (g : Nat) (f : Region → Region) : (onRegion s g f).boot = s.boot := rfl
@[simp] theorem onRegion_host (s : State) (g : Nat) (f : Region → Region) : (onRegion s g f).host = s.host := rfl
@[simp] theorem onRegion_draws (s : State) (g : Nat) (f : Region → Region) : (onRegion s g f).draws = s.draws := rfl

/-! ### After a change of a link -/

@[simp] theorem onLink_pending (s : State) (l : Nat) (f : Link → Link) : (onLink s l f).pending = s.pending := rfl
@[simp] theorem onLink_regs (s : State) (l : Nat) (f : Link → Link) : (onLink s l f).regs = s.regs := rfl
@[simp] theorem onLink_tiles (s : State) (l : Nat) (f : Link → Link) : (onLink s l f).tiles = s.tiles := rfl
@[simp] theorem onLink_chans (s : State) (l : Nat) (f : Link → Link) : (onLink s l f).chans = s.chans := rfl
@[simp] theorem onLink_regions (s : State) (l : Nat) (f : Link → Link) : (onLink s l f).regions = s.regions := rfl
@[simp] theorem onLink_msgs (s : State) (l : Nat) (f : Link → Link) : (onLink s l f).msgs = s.msgs := rfl
@[simp] theorem onLink_nextId (s : State) (l : Nat) (f : Link → Link) : (onLink s l f).nextId = s.nextId := rfl
@[simp] theorem onLink_vaultData (s : State) (l : Nat) (f : Link → Link) : (onLink s l f).vaultData = s.vaultData := rfl
@[simp] theorem onLink_vaultChk (s : State) (l : Nat) (f : Link → Link) : (onLink s l f).vaultChk = s.vaultChk := rfl
@[simp] theorem onLink_vaultPage (s : State) (l : Nat) (f : Link → Link) : (onLink s l f).vaultPage = s.vaultPage := rfl
@[simp] theorem onLink_vaultTag (s : State) (l : Nat) (f : Link → Link) : (onLink s l f).vaultTag = s.vaultTag := rfl
@[simp] theorem onLink_unsealed (s : State) (l : Nat) (f : Link → Link) : (onLink s l f).unsealed = s.unsealed := rfl
@[simp] theorem onLink_spData (s : State) (l : Nat) (f : Link → Link) : (onLink s l f).spData = s.spData := rfl
@[simp] theorem onLink_spChk (s : State) (l : Nat) (f : Link → Link) : (onLink s l f).spChk = s.spChk := rfl
@[simp] theorem onLink_spTag (s : State) (l : Nat) (f : Link → Link) : (onLink s l f).spTag = s.spTag := rfl
@[simp] theorem onLink_bar4 (s : State) (l : Nat) (f : Link → Link) : (onLink s l f).bar4 = s.bar4 := rfl
@[simp] theorem onLink_agate (s : State) (l : Nat) (f : Link → Link) : (onLink s l f).agate = s.agate := rfl
@[simp] theorem onLink_hubQos (s : State) (l : Nat) (f : Link → Link) : (onLink s l f).hubQos = s.hubQos := rfl
@[simp] theorem onLink_topaz (s : State) (l : Nat) (f : Link → Link) : (onLink s l f).topaz = s.topaz := rfl
@[simp] theorem onLink_kelpie (s : State) (l : Nat) (f : Link → Link) : (onLink s l f).kelpie = s.kelpie := rfl
@[simp] theorem onLink_blood (s : State) (l : Nat) (f : Link → Link) : (onLink s l f).blood = s.blood := rfl
@[simp] theorem onLink_husky (s : State) (l : Nat) (f : Link → Link) : (onLink s l f).husky = s.husky := rfl
@[simp] theorem onLink_start (s : State) (l : Nat) (f : Link → Link) : (onLink s l f).start = s.start := rfl
@[simp] theorem onLink_mastiff (s : State) (l : Nat) (f : Link → Link) : (onLink s l f).mastiff = s.mastiff := rfl
@[simp] theorem onLink_fuses (s : State) (l : Nat) (f : Link → Link) : (onLink s l f).fuses = s.fuses := rfl
@[simp] theorem onLink_flash (s : State) (l : Nat) (f : Link → Link) : (onLink s l f).flash = s.flash := rfl
@[simp] theorem onLink_boot (s : State) (l : Nat) (f : Link → Link) : (onLink s l f).boot = s.boot := rfl
@[simp] theorem onLink_host (s : State) (l : Nat) (f : Link → Link) : (onLink s l f).host = s.host := rfl
@[simp] theorem onLink_draws (s : State) (l : Nat) (f : Link → Link) : (onLink s l f).draws = s.draws := rfl

/-! ### After a change of a message -/

@[simp] theorem onMsg_pending (s : State) (n : Nat) (f : Msg → Msg) : (onMsg s n f).pending = s.pending := rfl
@[simp] theorem onMsg_regs (s : State) (n : Nat) (f : Msg → Msg) : (onMsg s n f).regs = s.regs := rfl
@[simp] theorem onMsg_tiles (s : State) (n : Nat) (f : Msg → Msg) : (onMsg s n f).tiles = s.tiles := rfl
@[simp] theorem onMsg_chans (s : State) (n : Nat) (f : Msg → Msg) : (onMsg s n f).chans = s.chans := rfl
@[simp] theorem onMsg_regions (s : State) (n : Nat) (f : Msg → Msg) : (onMsg s n f).regions = s.regions := rfl
@[simp] theorem onMsg_links (s : State) (n : Nat) (f : Msg → Msg) : (onMsg s n f).links = s.links := rfl
@[simp] theorem onMsg_nextId (s : State) (n : Nat) (f : Msg → Msg) : (onMsg s n f).nextId = s.nextId := rfl
@[simp] theorem onMsg_vaultData (s : State) (n : Nat) (f : Msg → Msg) : (onMsg s n f).vaultData = s.vaultData := rfl
@[simp] theorem onMsg_vaultChk (s : State) (n : Nat) (f : Msg → Msg) : (onMsg s n f).vaultChk = s.vaultChk := rfl
@[simp] theorem onMsg_vaultPage (s : State) (n : Nat) (f : Msg → Msg) : (onMsg s n f).vaultPage = s.vaultPage := rfl
@[simp] theorem onMsg_vaultTag (s : State) (n : Nat) (f : Msg → Msg) : (onMsg s n f).vaultTag = s.vaultTag := rfl
@[simp] theorem onMsg_unsealed (s : State) (n : Nat) (f : Msg → Msg) : (onMsg s n f).unsealed = s.unsealed := rfl
@[simp] theorem onMsg_spData (s : State) (n : Nat) (f : Msg → Msg) : (onMsg s n f).spData = s.spData := rfl
@[simp] theorem onMsg_spChk (s : State) (n : Nat) (f : Msg → Msg) : (onMsg s n f).spChk = s.spChk := rfl
@[simp] theorem onMsg_spTag (s : State) (n : Nat) (f : Msg → Msg) : (onMsg s n f).spTag = s.spTag := rfl
@[simp] theorem onMsg_bar4 (s : State) (n : Nat) (f : Msg → Msg) : (onMsg s n f).bar4 = s.bar4 := rfl
@[simp] theorem onMsg_agate (s : State) (n : Nat) (f : Msg → Msg) : (onMsg s n f).agate = s.agate := rfl
@[simp] theorem onMsg_hubQos (s : State) (n : Nat) (f : Msg → Msg) : (onMsg s n f).hubQos = s.hubQos := rfl
@[simp] theorem onMsg_topaz (s : State) (n : Nat) (f : Msg → Msg) : (onMsg s n f).topaz = s.topaz := rfl
@[simp] theorem onMsg_kelpie (s : State) (n : Nat) (f : Msg → Msg) : (onMsg s n f).kelpie = s.kelpie := rfl
@[simp] theorem onMsg_blood (s : State) (n : Nat) (f : Msg → Msg) : (onMsg s n f).blood = s.blood := rfl
@[simp] theorem onMsg_husky (s : State) (n : Nat) (f : Msg → Msg) : (onMsg s n f).husky = s.husky := rfl
@[simp] theorem onMsg_start (s : State) (n : Nat) (f : Msg → Msg) : (onMsg s n f).start = s.start := rfl
@[simp] theorem onMsg_mastiff (s : State) (n : Nat) (f : Msg → Msg) : (onMsg s n f).mastiff = s.mastiff := rfl
@[simp] theorem onMsg_fuses (s : State) (n : Nat) (f : Msg → Msg) : (onMsg s n f).fuses = s.fuses := rfl
@[simp] theorem onMsg_flash (s : State) (n : Nat) (f : Msg → Msg) : (onMsg s n f).flash = s.flash := rfl
@[simp] theorem onMsg_boot (s : State) (n : Nat) (f : Msg → Msg) : (onMsg s n f).boot = s.boot := rfl
@[simp] theorem onMsg_host (s : State) (n : Nat) (f : Msg → Msg) : (onMsg s n f).host = s.host := rfl
@[simp] theorem onMsg_draws (s : State) (n : Nat) (f : Msg → Msg) : (onMsg s n f).draws = s.draws := rfl

/-! ### After a change of Kelpie -/

@[simp] theorem onKelpie_pending (s : State) (f : Kelpie → Kelpie) : (onKelpie s f).pending = s.pending := rfl
@[simp] theorem onKelpie_regs (s : State) (f : Kelpie → Kelpie) : (onKelpie s f).regs = s.regs := rfl
@[simp] theorem onKelpie_tiles (s : State) (f : Kelpie → Kelpie) : (onKelpie s f).tiles = s.tiles := rfl
@[simp] theorem onKelpie_chans (s : State) (f : Kelpie → Kelpie) : (onKelpie s f).chans = s.chans := rfl
@[simp] theorem onKelpie_regions (s : State) (f : Kelpie → Kelpie) : (onKelpie s f).regions = s.regions := rfl
@[simp] theorem onKelpie_links (s : State) (f : Kelpie → Kelpie) : (onKelpie s f).links = s.links := rfl
@[simp] theorem onKelpie_msgs (s : State) (f : Kelpie → Kelpie) : (onKelpie s f).msgs = s.msgs := rfl
@[simp] theorem onKelpie_nextId (s : State) (f : Kelpie → Kelpie) : (onKelpie s f).nextId = s.nextId := rfl
@[simp] theorem onKelpie_vaultData (s : State) (f : Kelpie → Kelpie) : (onKelpie s f).vaultData = s.vaultData := rfl
@[simp] theorem onKelpie_vaultChk (s : State) (f : Kelpie → Kelpie) : (onKelpie s f).vaultChk = s.vaultChk := rfl
@[simp] theorem onKelpie_vaultPage (s : State) (f : Kelpie → Kelpie) : (onKelpie s f).vaultPage = s.vaultPage := rfl
@[simp] theorem onKelpie_vaultTag (s : State) (f : Kelpie → Kelpie) : (onKelpie s f).vaultTag = s.vaultTag := rfl
@[simp] theorem onKelpie_unsealed (s : State) (f : Kelpie → Kelpie) : (onKelpie s f).unsealed = s.unsealed := rfl
@[simp] theorem onKelpie_spData (s : State) (f : Kelpie → Kelpie) : (onKelpie s f).spData = s.spData := rfl
@[simp] theorem onKelpie_spChk (s : State) (f : Kelpie → Kelpie) : (onKelpie s f).spChk = s.spChk := rfl
@[simp] theorem onKelpie_spTag (s : State) (f : Kelpie → Kelpie) : (onKelpie s f).spTag = s.spTag := rfl
@[simp] theorem onKelpie_bar4 (s : State) (f : Kelpie → Kelpie) : (onKelpie s f).bar4 = s.bar4 := rfl
@[simp] theorem onKelpie_agate (s : State) (f : Kelpie → Kelpie) : (onKelpie s f).agate = s.agate := rfl
@[simp] theorem onKelpie_hubQos (s : State) (f : Kelpie → Kelpie) : (onKelpie s f).hubQos = s.hubQos := rfl
@[simp] theorem onKelpie_topaz (s : State) (f : Kelpie → Kelpie) : (onKelpie s f).topaz = s.topaz := rfl
@[simp] theorem onKelpie_blood (s : State) (f : Kelpie → Kelpie) : (onKelpie s f).blood = s.blood := rfl
@[simp] theorem onKelpie_husky (s : State) (f : Kelpie → Kelpie) : (onKelpie s f).husky = s.husky := rfl
@[simp] theorem onKelpie_start (s : State) (f : Kelpie → Kelpie) : (onKelpie s f).start = s.start := rfl
@[simp] theorem onKelpie_mastiff (s : State) (f : Kelpie → Kelpie) : (onKelpie s f).mastiff = s.mastiff := rfl
@[simp] theorem onKelpie_fuses (s : State) (f : Kelpie → Kelpie) : (onKelpie s f).fuses = s.fuses := rfl
@[simp] theorem onKelpie_flash (s : State) (f : Kelpie → Kelpie) : (onKelpie s f).flash = s.flash := rfl
@[simp] theorem onKelpie_boot (s : State) (f : Kelpie → Kelpie) : (onKelpie s f).boot = s.boot := rfl
@[simp] theorem onKelpie_host (s : State) (f : Kelpie → Kelpie) : (onKelpie s f).host = s.host := rfl
@[simp] theorem onKelpie_draws (s : State) (f : Kelpie → Kelpie) : (onKelpie s f).draws = s.draws := rfl

/-! ### After a change of a context -/

@[simp] theorem onCtx_pending (s : State) (x : Nat) (f : Ctx → Ctx) : (onCtx s x f).pending = s.pending := rfl
@[simp] theorem onCtx_regs (s : State) (x : Nat) (f : Ctx → Ctx) : (onCtx s x f).regs = s.regs := rfl
@[simp] theorem onCtx_tiles (s : State) (x : Nat) (f : Ctx → Ctx) : (onCtx s x f).tiles = s.tiles := rfl
@[simp] theorem onCtx_chans (s : State) (x : Nat) (f : Ctx → Ctx) : (onCtx s x f).chans = s.chans := rfl
@[simp] theorem onCtx_regions (s : State) (x : Nat) (f : Ctx → Ctx) : (onCtx s x f).regions = s.regions := rfl
@[simp] theorem onCtx_links (s : State) (x : Nat) (f : Ctx → Ctx) : (onCtx s x f).links = s.links := rfl
@[simp] theorem onCtx_msgs (s : State) (x : Nat) (f : Ctx → Ctx) : (onCtx s x f).msgs = s.msgs := rfl
@[simp] theorem onCtx_nextId (s : State) (x : Nat) (f : Ctx → Ctx) : (onCtx s x f).nextId = s.nextId := rfl
@[simp] theorem onCtx_vaultData (s : State) (x : Nat) (f : Ctx → Ctx) : (onCtx s x f).vaultData = s.vaultData := rfl
@[simp] theorem onCtx_vaultChk (s : State) (x : Nat) (f : Ctx → Ctx) : (onCtx s x f).vaultChk = s.vaultChk := rfl
@[simp] theorem onCtx_vaultPage (s : State) (x : Nat) (f : Ctx → Ctx) : (onCtx s x f).vaultPage = s.vaultPage := rfl
@[simp] theorem onCtx_vaultTag (s : State) (x : Nat) (f : Ctx → Ctx) : (onCtx s x f).vaultTag = s.vaultTag := rfl
@[simp] theorem onCtx_unsealed (s : State) (x : Nat) (f : Ctx → Ctx) : (onCtx s x f).unsealed = s.unsealed := rfl
@[simp] theorem onCtx_spData (s : State) (x : Nat) (f : Ctx → Ctx) : (onCtx s x f).spData = s.spData := rfl
@[simp] theorem onCtx_spChk (s : State) (x : Nat) (f : Ctx → Ctx) : (onCtx s x f).spChk = s.spChk := rfl
@[simp] theorem onCtx_spTag (s : State) (x : Nat) (f : Ctx → Ctx) : (onCtx s x f).spTag = s.spTag := rfl
@[simp] theorem onCtx_bar4 (s : State) (x : Nat) (f : Ctx → Ctx) : (onCtx s x f).bar4 = s.bar4 := rfl
@[simp] theorem onCtx_agate (s : State) (x : Nat) (f : Ctx → Ctx) : (onCtx s x f).agate = s.agate := rfl
@[simp] theorem onCtx_hubQos (s : State) (x : Nat) (f : Ctx → Ctx) : (onCtx s x f).hubQos = s.hubQos := rfl
@[simp] theorem onCtx_topaz (s : State) (x : Nat) (f : Ctx → Ctx) : (onCtx s x f).topaz = s.topaz := rfl
@[simp] theorem onCtx_blood (s : State) (x : Nat) (f : Ctx → Ctx) : (onCtx s x f).blood = s.blood := rfl
@[simp] theorem onCtx_husky (s : State) (x : Nat) (f : Ctx → Ctx) : (onCtx s x f).husky = s.husky := rfl
@[simp] theorem onCtx_start (s : State) (x : Nat) (f : Ctx → Ctx) : (onCtx s x f).start = s.start := rfl
@[simp] theorem onCtx_mastiff (s : State) (x : Nat) (f : Ctx → Ctx) : (onCtx s x f).mastiff = s.mastiff := rfl
@[simp] theorem onCtx_fuses (s : State) (x : Nat) (f : Ctx → Ctx) : (onCtx s x f).fuses = s.fuses := rfl
@[simp] theorem onCtx_flash (s : State) (x : Nat) (f : Ctx → Ctx) : (onCtx s x f).flash = s.flash := rfl
@[simp] theorem onCtx_boot (s : State) (x : Nat) (f : Ctx → Ctx) : (onCtx s x f).boot = s.boot := rfl
@[simp] theorem onCtx_host (s : State) (x : Nat) (f : Ctx → Ctx) : (onCtx s x f).host = s.host := rfl
@[simp] theorem onCtx_draws (s : State) (x : Nat) (f : Ctx → Ctx) : (onCtx s x f).draws = s.draws := rfl

/-! ### After a change of a collective -/

@[simp] theorem onColl_pending (s : State) (x : Nat) (f : Coll → Coll) : (onColl s x f).pending = s.pending := rfl
@[simp] theorem onColl_regs (s : State) (x : Nat) (f : Coll → Coll) : (onColl s x f).regs = s.regs := rfl
@[simp] theorem onColl_tiles (s : State) (x : Nat) (f : Coll → Coll) : (onColl s x f).tiles = s.tiles := rfl
@[simp] theorem onColl_chans (s : State) (x : Nat) (f : Coll → Coll) : (onColl s x f).chans = s.chans := rfl
@[simp] theorem onColl_regions (s : State) (x : Nat) (f : Coll → Coll) : (onColl s x f).regions = s.regions := rfl
@[simp] theorem onColl_links (s : State) (x : Nat) (f : Coll → Coll) : (onColl s x f).links = s.links := rfl
@[simp] theorem onColl_msgs (s : State) (x : Nat) (f : Coll → Coll) : (onColl s x f).msgs = s.msgs := rfl
@[simp] theorem onColl_nextId (s : State) (x : Nat) (f : Coll → Coll) : (onColl s x f).nextId = s.nextId := rfl
@[simp] theorem onColl_vaultData (s : State) (x : Nat) (f : Coll → Coll) : (onColl s x f).vaultData = s.vaultData := rfl
@[simp] theorem onColl_vaultChk (s : State) (x : Nat) (f : Coll → Coll) : (onColl s x f).vaultChk = s.vaultChk := rfl
@[simp] theorem onColl_vaultPage (s : State) (x : Nat) (f : Coll → Coll) : (onColl s x f).vaultPage = s.vaultPage := rfl
@[simp] theorem onColl_vaultTag (s : State) (x : Nat) (f : Coll → Coll) : (onColl s x f).vaultTag = s.vaultTag := rfl
@[simp] theorem onColl_unsealed (s : State) (x : Nat) (f : Coll → Coll) : (onColl s x f).unsealed = s.unsealed := rfl
@[simp] theorem onColl_spData (s : State) (x : Nat) (f : Coll → Coll) : (onColl s x f).spData = s.spData := rfl
@[simp] theorem onColl_spChk (s : State) (x : Nat) (f : Coll → Coll) : (onColl s x f).spChk = s.spChk := rfl
@[simp] theorem onColl_spTag (s : State) (x : Nat) (f : Coll → Coll) : (onColl s x f).spTag = s.spTag := rfl
@[simp] theorem onColl_bar4 (s : State) (x : Nat) (f : Coll → Coll) : (onColl s x f).bar4 = s.bar4 := rfl
@[simp] theorem onColl_agate (s : State) (x : Nat) (f : Coll → Coll) : (onColl s x f).agate = s.agate := rfl
@[simp] theorem onColl_hubQos (s : State) (x : Nat) (f : Coll → Coll) : (onColl s x f).hubQos = s.hubQos := rfl
@[simp] theorem onColl_topaz (s : State) (x : Nat) (f : Coll → Coll) : (onColl s x f).topaz = s.topaz := rfl
@[simp] theorem onColl_blood (s : State) (x : Nat) (f : Coll → Coll) : (onColl s x f).blood = s.blood := rfl
@[simp] theorem onColl_husky (s : State) (x : Nat) (f : Coll → Coll) : (onColl s x f).husky = s.husky := rfl
@[simp] theorem onColl_start (s : State) (x : Nat) (f : Coll → Coll) : (onColl s x f).start = s.start := rfl
@[simp] theorem onColl_mastiff (s : State) (x : Nat) (f : Coll → Coll) : (onColl s x f).mastiff = s.mastiff := rfl
@[simp] theorem onColl_fuses (s : State) (x : Nat) (f : Coll → Coll) : (onColl s x f).fuses = s.fuses := rfl
@[simp] theorem onColl_flash (s : State) (x : Nat) (f : Coll → Coll) : (onColl s x f).flash = s.flash := rfl
@[simp] theorem onColl_boot (s : State) (x : Nat) (f : Coll → Coll) : (onColl s x f).boot = s.boot := rfl
@[simp] theorem onColl_host (s : State) (x : Nat) (f : Coll → Coll) : (onColl s x f).host = s.host := rfl
@[simp] theorem onColl_draws (s : State) (x : Nat) (f : Coll → Coll) : (onColl s x f).draws = s.draws := rfl

/-! ### After a change of the Step Sequencer -/

@[simp] theorem onBoot_pending (s : State) (f : Boot → Boot) : (onBoot s f).pending = s.pending := rfl
@[simp] theorem onBoot_regs (s : State) (f : Boot → Boot) : (onBoot s f).regs = s.regs := rfl
@[simp] theorem onBoot_tiles (s : State) (f : Boot → Boot) : (onBoot s f).tiles = s.tiles := rfl
@[simp] theorem onBoot_chans (s : State) (f : Boot → Boot) : (onBoot s f).chans = s.chans := rfl
@[simp] theorem onBoot_regions (s : State) (f : Boot → Boot) : (onBoot s f).regions = s.regions := rfl
@[simp] theorem onBoot_links (s : State) (f : Boot → Boot) : (onBoot s f).links = s.links := rfl
@[simp] theorem onBoot_msgs (s : State) (f : Boot → Boot) : (onBoot s f).msgs = s.msgs := rfl
@[simp] theorem onBoot_nextId (s : State) (f : Boot → Boot) : (onBoot s f).nextId = s.nextId := rfl
@[simp] theorem onBoot_vaultData (s : State) (f : Boot → Boot) : (onBoot s f).vaultData = s.vaultData := rfl
@[simp] theorem onBoot_vaultChk (s : State) (f : Boot → Boot) : (onBoot s f).vaultChk = s.vaultChk := rfl
@[simp] theorem onBoot_vaultPage (s : State) (f : Boot → Boot) : (onBoot s f).vaultPage = s.vaultPage := rfl
@[simp] theorem onBoot_vaultTag (s : State) (f : Boot → Boot) : (onBoot s f).vaultTag = s.vaultTag := rfl
@[simp] theorem onBoot_unsealed (s : State) (f : Boot → Boot) : (onBoot s f).unsealed = s.unsealed := rfl
@[simp] theorem onBoot_spData (s : State) (f : Boot → Boot) : (onBoot s f).spData = s.spData := rfl
@[simp] theorem onBoot_spChk (s : State) (f : Boot → Boot) : (onBoot s f).spChk = s.spChk := rfl
@[simp] theorem onBoot_spTag (s : State) (f : Boot → Boot) : (onBoot s f).spTag = s.spTag := rfl
@[simp] theorem onBoot_bar4 (s : State) (f : Boot → Boot) : (onBoot s f).bar4 = s.bar4 := rfl
@[simp] theorem onBoot_agate (s : State) (f : Boot → Boot) : (onBoot s f).agate = s.agate := rfl
@[simp] theorem onBoot_hubQos (s : State) (f : Boot → Boot) : (onBoot s f).hubQos = s.hubQos := rfl
@[simp] theorem onBoot_topaz (s : State) (f : Boot → Boot) : (onBoot s f).topaz = s.topaz := rfl
@[simp] theorem onBoot_kelpie (s : State) (f : Boot → Boot) : (onBoot s f).kelpie = s.kelpie := rfl
@[simp] theorem onBoot_blood (s : State) (f : Boot → Boot) : (onBoot s f).blood = s.blood := rfl
@[simp] theorem onBoot_husky (s : State) (f : Boot → Boot) : (onBoot s f).husky = s.husky := rfl
@[simp] theorem onBoot_start (s : State) (f : Boot → Boot) : (onBoot s f).start = s.start := rfl
@[simp] theorem onBoot_mastiff (s : State) (f : Boot → Boot) : (onBoot s f).mastiff = s.mastiff := rfl
@[simp] theorem onBoot_fuses (s : State) (f : Boot → Boot) : (onBoot s f).fuses = s.fuses := rfl
@[simp] theorem onBoot_flash (s : State) (f : Boot → Boot) : (onBoot s f).flash = s.flash := rfl
@[simp] theorem onBoot_host (s : State) (f : Boot → Boot) : (onBoot s f).host = s.host := rfl
@[simp] theorem onBoot_draws (s : State) (f : Boot → Boot) : (onBoot s f).draws = s.draws := rfl

/-! ### After a change of a BAR2 access -/

@[simp] theorem onBar2_pending (s : State) (f : Bar2Acc → Bar2Acc) : (onBar2 s f).pending = s.pending := rfl
@[simp] theorem onBar2_regs (s : State) (f : Bar2Acc → Bar2Acc) : (onBar2 s f).regs = s.regs := rfl
@[simp] theorem onBar2_tiles (s : State) (f : Bar2Acc → Bar2Acc) : (onBar2 s f).tiles = s.tiles := rfl
@[simp] theorem onBar2_chans (s : State) (f : Bar2Acc → Bar2Acc) : (onBar2 s f).chans = s.chans := rfl
@[simp] theorem onBar2_regions (s : State) (f : Bar2Acc → Bar2Acc) : (onBar2 s f).regions = s.regions := rfl
@[simp] theorem onBar2_links (s : State) (f : Bar2Acc → Bar2Acc) : (onBar2 s f).links = s.links := rfl
@[simp] theorem onBar2_msgs (s : State) (f : Bar2Acc → Bar2Acc) : (onBar2 s f).msgs = s.msgs := rfl
@[simp] theorem onBar2_nextId (s : State) (f : Bar2Acc → Bar2Acc) : (onBar2 s f).nextId = s.nextId := rfl
@[simp] theorem onBar2_vaultData (s : State) (f : Bar2Acc → Bar2Acc) : (onBar2 s f).vaultData = s.vaultData := rfl
@[simp] theorem onBar2_vaultChk (s : State) (f : Bar2Acc → Bar2Acc) : (onBar2 s f).vaultChk = s.vaultChk := rfl
@[simp] theorem onBar2_vaultPage (s : State) (f : Bar2Acc → Bar2Acc) : (onBar2 s f).vaultPage = s.vaultPage := rfl
@[simp] theorem onBar2_vaultTag (s : State) (f : Bar2Acc → Bar2Acc) : (onBar2 s f).vaultTag = s.vaultTag := rfl
@[simp] theorem onBar2_unsealed (s : State) (f : Bar2Acc → Bar2Acc) : (onBar2 s f).unsealed = s.unsealed := rfl
@[simp] theorem onBar2_spData (s : State) (f : Bar2Acc → Bar2Acc) : (onBar2 s f).spData = s.spData := rfl
@[simp] theorem onBar2_spChk (s : State) (f : Bar2Acc → Bar2Acc) : (onBar2 s f).spChk = s.spChk := rfl
@[simp] theorem onBar2_spTag (s : State) (f : Bar2Acc → Bar2Acc) : (onBar2 s f).spTag = s.spTag := rfl
@[simp] theorem onBar2_bar4 (s : State) (f : Bar2Acc → Bar2Acc) : (onBar2 s f).bar4 = s.bar4 := rfl
@[simp] theorem onBar2_agate (s : State) (f : Bar2Acc → Bar2Acc) : (onBar2 s f).agate = s.agate := rfl
@[simp] theorem onBar2_hubQos (s : State) (f : Bar2Acc → Bar2Acc) : (onBar2 s f).hubQos = s.hubQos := rfl
@[simp] theorem onBar2_topaz (s : State) (f : Bar2Acc → Bar2Acc) : (onBar2 s f).topaz = s.topaz := rfl
@[simp] theorem onBar2_kelpie (s : State) (f : Bar2Acc → Bar2Acc) : (onBar2 s f).kelpie = s.kelpie := rfl
@[simp] theorem onBar2_blood (s : State) (f : Bar2Acc → Bar2Acc) : (onBar2 s f).blood = s.blood := rfl
@[simp] theorem onBar2_husky (s : State) (f : Bar2Acc → Bar2Acc) : (onBar2 s f).husky = s.husky := rfl
@[simp] theorem onBar2_start (s : State) (f : Bar2Acc → Bar2Acc) : (onBar2 s f).start = s.start := rfl
@[simp] theorem onBar2_mastiff (s : State) (f : Bar2Acc → Bar2Acc) : (onBar2 s f).mastiff = s.mastiff := rfl
@[simp] theorem onBar2_fuses (s : State) (f : Bar2Acc → Bar2Acc) : (onBar2 s f).fuses = s.fuses := rfl
@[simp] theorem onBar2_flash (s : State) (f : Bar2Acc → Bar2Acc) : (onBar2 s f).flash = s.flash := rfl
@[simp] theorem onBar2_boot (s : State) (f : Bar2Acc → Bar2Acc) : (onBar2 s f).boot = s.boot := rfl
@[simp] theorem onBar2_draws (s : State) (f : Bar2Acc → Bar2Acc) : (onBar2 s f).draws = s.draws := rfl

/-! ### After a change of a host command -/

@[simp] theorem onHostCmd_pending (s : State) (c : HostCmd) (f : HostCmd → HostCmd) : (onHostCmd s c f).pending = s.pending := rfl
@[simp] theorem onHostCmd_regs (s : State) (c : HostCmd) (f : HostCmd → HostCmd) : (onHostCmd s c f).regs = s.regs := rfl
@[simp] theorem onHostCmd_tiles (s : State) (c : HostCmd) (f : HostCmd → HostCmd) : (onHostCmd s c f).tiles = s.tiles := rfl
@[simp] theorem onHostCmd_chans (s : State) (c : HostCmd) (f : HostCmd → HostCmd) : (onHostCmd s c f).chans = s.chans := rfl
@[simp] theorem onHostCmd_regions (s : State) (c : HostCmd) (f : HostCmd → HostCmd) : (onHostCmd s c f).regions = s.regions := rfl
@[simp] theorem onHostCmd_links (s : State) (c : HostCmd) (f : HostCmd → HostCmd) : (onHostCmd s c f).links = s.links := rfl
@[simp] theorem onHostCmd_msgs (s : State) (c : HostCmd) (f : HostCmd → HostCmd) : (onHostCmd s c f).msgs = s.msgs := rfl
@[simp] theorem onHostCmd_nextId (s : State) (c : HostCmd) (f : HostCmd → HostCmd) : (onHostCmd s c f).nextId = s.nextId := rfl
@[simp] theorem onHostCmd_vaultData (s : State) (c : HostCmd) (f : HostCmd → HostCmd) : (onHostCmd s c f).vaultData = s.vaultData := rfl
@[simp] theorem onHostCmd_vaultChk (s : State) (c : HostCmd) (f : HostCmd → HostCmd) : (onHostCmd s c f).vaultChk = s.vaultChk := rfl
@[simp] theorem onHostCmd_vaultPage (s : State) (c : HostCmd) (f : HostCmd → HostCmd) : (onHostCmd s c f).vaultPage = s.vaultPage := rfl
@[simp] theorem onHostCmd_vaultTag (s : State) (c : HostCmd) (f : HostCmd → HostCmd) : (onHostCmd s c f).vaultTag = s.vaultTag := rfl
@[simp] theorem onHostCmd_unsealed (s : State) (c : HostCmd) (f : HostCmd → HostCmd) : (onHostCmd s c f).unsealed = s.unsealed := rfl
@[simp] theorem onHostCmd_spData (s : State) (c : HostCmd) (f : HostCmd → HostCmd) : (onHostCmd s c f).spData = s.spData := rfl
@[simp] theorem onHostCmd_spChk (s : State) (c : HostCmd) (f : HostCmd → HostCmd) : (onHostCmd s c f).spChk = s.spChk := rfl
@[simp] theorem onHostCmd_spTag (s : State) (c : HostCmd) (f : HostCmd → HostCmd) : (onHostCmd s c f).spTag = s.spTag := rfl
@[simp] theorem onHostCmd_bar4 (s : State) (c : HostCmd) (f : HostCmd → HostCmd) : (onHostCmd s c f).bar4 = s.bar4 := rfl
@[simp] theorem onHostCmd_agate (s : State) (c : HostCmd) (f : HostCmd → HostCmd) : (onHostCmd s c f).agate = s.agate := rfl
@[simp] theorem onHostCmd_hubQos (s : State) (c : HostCmd) (f : HostCmd → HostCmd) : (onHostCmd s c f).hubQos = s.hubQos := rfl
@[simp] theorem onHostCmd_topaz (s : State) (c : HostCmd) (f : HostCmd → HostCmd) : (onHostCmd s c f).topaz = s.topaz := rfl
@[simp] theorem onHostCmd_kelpie (s : State) (c : HostCmd) (f : HostCmd → HostCmd) : (onHostCmd s c f).kelpie = s.kelpie := rfl
@[simp] theorem onHostCmd_blood (s : State) (c : HostCmd) (f : HostCmd → HostCmd) : (onHostCmd s c f).blood = s.blood := rfl
@[simp] theorem onHostCmd_husky (s : State) (c : HostCmd) (f : HostCmd → HostCmd) : (onHostCmd s c f).husky = s.husky := rfl
@[simp] theorem onHostCmd_start (s : State) (c : HostCmd) (f : HostCmd → HostCmd) : (onHostCmd s c f).start = s.start := rfl
@[simp] theorem onHostCmd_mastiff (s : State) (c : HostCmd) (f : HostCmd → HostCmd) : (onHostCmd s c f).mastiff = s.mastiff := rfl
@[simp] theorem onHostCmd_fuses (s : State) (c : HostCmd) (f : HostCmd → HostCmd) : (onHostCmd s c f).fuses = s.fuses := rfl
@[simp] theorem onHostCmd_flash (s : State) (c : HostCmd) (f : HostCmd → HostCmd) : (onHostCmd s c f).flash = s.flash := rfl
@[simp] theorem onHostCmd_boot (s : State) (c : HostCmd) (f : HostCmd → HostCmd) : (onHostCmd s c f).boot = s.boot := rfl
@[simp] theorem onHostCmd_draws (s : State) (c : HostCmd) (f : HostCmd → HostCmd) : (onHostCmd s c f).draws = s.draws := rfl

/-! ### After a change of Husky -/

@[simp] theorem onHusky_pending (s : State) (f : Husky → Husky) : (onHusky s f).pending = s.pending := rfl
@[simp] theorem onHusky_regs (s : State) (f : Husky → Husky) : (onHusky s f).regs = s.regs := rfl
@[simp] theorem onHusky_tiles (s : State) (f : Husky → Husky) : (onHusky s f).tiles = s.tiles := rfl
@[simp] theorem onHusky_chans (s : State) (f : Husky → Husky) : (onHusky s f).chans = s.chans := rfl
@[simp] theorem onHusky_regions (s : State) (f : Husky → Husky) : (onHusky s f).regions = s.regions := rfl
@[simp] theorem onHusky_links (s : State) (f : Husky → Husky) : (onHusky s f).links = s.links := rfl
@[simp] theorem onHusky_msgs (s : State) (f : Husky → Husky) : (onHusky s f).msgs = s.msgs := rfl
@[simp] theorem onHusky_nextId (s : State) (f : Husky → Husky) : (onHusky s f).nextId = s.nextId := rfl
@[simp] theorem onHusky_vaultData (s : State) (f : Husky → Husky) : (onHusky s f).vaultData = s.vaultData := rfl
@[simp] theorem onHusky_vaultChk (s : State) (f : Husky → Husky) : (onHusky s f).vaultChk = s.vaultChk := rfl
@[simp] theorem onHusky_vaultPage (s : State) (f : Husky → Husky) : (onHusky s f).vaultPage = s.vaultPage := rfl
@[simp] theorem onHusky_vaultTag (s : State) (f : Husky → Husky) : (onHusky s f).vaultTag = s.vaultTag := rfl
@[simp] theorem onHusky_unsealed (s : State) (f : Husky → Husky) : (onHusky s f).unsealed = s.unsealed := rfl
@[simp] theorem onHusky_spData (s : State) (f : Husky → Husky) : (onHusky s f).spData = s.spData := rfl
@[simp] theorem onHusky_spChk (s : State) (f : Husky → Husky) : (onHusky s f).spChk = s.spChk := rfl
@[simp] theorem onHusky_spTag (s : State) (f : Husky → Husky) : (onHusky s f).spTag = s.spTag := rfl
@[simp] theorem onHusky_bar4 (s : State) (f : Husky → Husky) : (onHusky s f).bar4 = s.bar4 := rfl
@[simp] theorem onHusky_agate (s : State) (f : Husky → Husky) : (onHusky s f).agate = s.agate := rfl
@[simp] theorem onHusky_hubQos (s : State) (f : Husky → Husky) : (onHusky s f).hubQos = s.hubQos := rfl
@[simp] theorem onHusky_topaz (s : State) (f : Husky → Husky) : (onHusky s f).topaz = s.topaz := rfl
@[simp] theorem onHusky_kelpie (s : State) (f : Husky → Husky) : (onHusky s f).kelpie = s.kelpie := rfl
@[simp] theorem onHusky_blood (s : State) (f : Husky → Husky) : (onHusky s f).blood = s.blood := rfl
@[simp] theorem onHusky_start (s : State) (f : Husky → Husky) : (onHusky s f).start = s.start := rfl
@[simp] theorem onHusky_mastiff (s : State) (f : Husky → Husky) : (onHusky s f).mastiff = s.mastiff := rfl
@[simp] theorem onHusky_fuses (s : State) (f : Husky → Husky) : (onHusky s f).fuses = s.fuses := rfl
@[simp] theorem onHusky_flash (s : State) (f : Husky → Husky) : (onHusky s f).flash = s.flash := rfl
@[simp] theorem onHusky_boot (s : State) (f : Husky → Husky) : (onHusky s f).boot = s.boot := rfl
@[simp] theorem onHusky_host (s : State) (f : Husky → Husky) : (onHusky s f).host = s.host := rfl
@[simp] theorem onHusky_draws (s : State) (f : Husky → Husky) : (onHusky s f).draws = s.draws := rfl

/-! ### After a change of an append -/

@[simp] theorem onAppend_pending (s : State) (p n : Nat) (f : Append → Append) : (onAppend s p n f).pending = s.pending := rfl
@[simp] theorem onAppend_regs (s : State) (p n : Nat) (f : Append → Append) : (onAppend s p n f).regs = s.regs := rfl
@[simp] theorem onAppend_chans (s : State) (p n : Nat) (f : Append → Append) : (onAppend s p n f).chans = s.chans := rfl
@[simp] theorem onAppend_regions (s : State) (p n : Nat) (f : Append → Append) : (onAppend s p n f).regions = s.regions := rfl
@[simp] theorem onAppend_links (s : State) (p n : Nat) (f : Append → Append) : (onAppend s p n f).links = s.links := rfl
@[simp] theorem onAppend_msgs (s : State) (p n : Nat) (f : Append → Append) : (onAppend s p n f).msgs = s.msgs := rfl
@[simp] theorem onAppend_nextId (s : State) (p n : Nat) (f : Append → Append) : (onAppend s p n f).nextId = s.nextId := rfl
@[simp] theorem onAppend_vaultData (s : State) (p n : Nat) (f : Append → Append) : (onAppend s p n f).vaultData = s.vaultData := rfl
@[simp] theorem onAppend_vaultChk (s : State) (p n : Nat) (f : Append → Append) : (onAppend s p n f).vaultChk = s.vaultChk := rfl
@[simp] theorem onAppend_vaultPage (s : State) (p n : Nat) (f : Append → Append) : (onAppend s p n f).vaultPage = s.vaultPage := rfl
@[simp] theorem onAppend_vaultTag (s : State) (p n : Nat) (f : Append → Append) : (onAppend s p n f).vaultTag = s.vaultTag := rfl
@[simp] theorem onAppend_unsealed (s : State) (p n : Nat) (f : Append → Append) : (onAppend s p n f).unsealed = s.unsealed := rfl
@[simp] theorem onAppend_spData (s : State) (p n : Nat) (f : Append → Append) : (onAppend s p n f).spData = s.spData := rfl
@[simp] theorem onAppend_spChk (s : State) (p n : Nat) (f : Append → Append) : (onAppend s p n f).spChk = s.spChk := rfl
@[simp] theorem onAppend_spTag (s : State) (p n : Nat) (f : Append → Append) : (onAppend s p n f).spTag = s.spTag := rfl
@[simp] theorem onAppend_bar4 (s : State) (p n : Nat) (f : Append → Append) : (onAppend s p n f).bar4 = s.bar4 := rfl
@[simp] theorem onAppend_agate (s : State) (p n : Nat) (f : Append → Append) : (onAppend s p n f).agate = s.agate := rfl
@[simp] theorem onAppend_hubQos (s : State) (p n : Nat) (f : Append → Append) : (onAppend s p n f).hubQos = s.hubQos := rfl
@[simp] theorem onAppend_topaz (s : State) (p n : Nat) (f : Append → Append) : (onAppend s p n f).topaz = s.topaz := rfl
@[simp] theorem onAppend_kelpie (s : State) (p n : Nat) (f : Append → Append) : (onAppend s p n f).kelpie = s.kelpie := rfl
@[simp] theorem onAppend_blood (s : State) (p n : Nat) (f : Append → Append) : (onAppend s p n f).blood = s.blood := rfl
@[simp] theorem onAppend_husky (s : State) (p n : Nat) (f : Append → Append) : (onAppend s p n f).husky = s.husky := rfl
@[simp] theorem onAppend_start (s : State) (p n : Nat) (f : Append → Append) : (onAppend s p n f).start = s.start := rfl
@[simp] theorem onAppend_mastiff (s : State) (p n : Nat) (f : Append → Append) : (onAppend s p n f).mastiff = s.mastiff := rfl
@[simp] theorem onAppend_fuses (s : State) (p n : Nat) (f : Append → Append) : (onAppend s p n f).fuses = s.fuses := rfl
@[simp] theorem onAppend_flash (s : State) (p n : Nat) (f : Append → Append) : (onAppend s p n f).flash = s.flash := rfl
@[simp] theorem onAppend_boot (s : State) (p n : Nat) (f : Append → Append) : (onAppend s p n f).boot = s.boot := rfl
@[simp] theorem onAppend_host (s : State) (p n : Nat) (f : Append → Append) : (onAppend s p n f).host = s.host := rfl
@[simp] theorem onAppend_draws (s : State) (p n : Nat) (f : Append → Append) : (onAppend s p n f).draws = s.draws := rfl

/-! ### The field each update changes -/

@[simp] theorem onHusky_husky (s : State) (f : Husky → Husky) : (onHusky s f).husky = f s.husky := rfl
@[simp] theorem rset_regs (s : State) (r : Reg) (v i j : Nat) :
    (rset s r v i j).regs = smSet s.regs (regOff r i j) (v % 2 ^ 64) := rfl
@[simp] theorem rreset_regs (s : State) (r : Reg) (i j : Nat) : (rreset s r i j).regs = smDel s.regs (regOff r i j) := rfl
@[simp] theorem fresh_nextId (s : State) : (fresh s).1.nextId = s.nextId + 1 := rfl
@[simp] theorem fresh_number (s : State) : (fresh s).2 = s.nextId := rfl
@[simp] theorem onTile_tiles (s : State) (p : Nat) (f : Tile → Tile) :
    (onTile s p f).tiles = smSet s.tiles p (f (tileOf s p)) := rfl
@[simp] theorem onChan_chans (s : State) (p c : Nat) (f : Chan → Chan) :
    (onChan s p c f).chans = smSet s.chans (p * 8 + c) (f (chanOf s p c)) := rfl
@[simp] theorem onRegion_regions (s : State) (g : Nat) (f : Region → Region) :
    (onRegion s g f).regions = smSet s.regions g (f (regionOf s g)) := rfl
@[simp] theorem onLink_links (s : State) (l : Nat) (f : Link → Link) :
    (onLink s l f).links = smSet s.links l (f (linkOf s l)) := rfl
@[simp] theorem onMsg_msgs (s : State) (n : Nat) (f : Msg → Msg) :
    (onMsg s n f).msgs = mapIf (fun m => m.id = n) f s.msgs := rfl
@[simp] theorem onKelpie_kelpie (s : State) (f : Kelpie → Kelpie) : (onKelpie s f).kelpie = f s.kelpie := rfl
@[simp] theorem onBoot_boot (s : State) (f : Boot → Boot) : (onBoot s f).boot = f s.boot := rfl

/-! ### Tables of units -/

/-- A changed tile reads as changed. -/
@[simp] theorem tileOf_onTile_same (s : State) (p : Nat) (f : Tile → Tile) : tileOf (onTile s p f) p = f (tileOf s p) := by
  simp [tileOf]

/-- Every other tile reads as before. -/
theorem tileOf_onTile_ne (s : State) (p q : Nat) (f : Tile → Tile) (h : q ≠ p) : tileOf (onTile s p f) q = tileOf s q := by
  simp [tileOf, smGet_smSet_ne _ _ _ _ _ h]

/-- A changed channel reads as changed. -/
@[simp] theorem chanOf_onChan_same (s : State) (p c : Nat) (f : Chan → Chan) :
    chanOf (onChan s p c f) p c = f (chanOf s p c) := by
  simp [chanOf]

/-- Every other channel reads as before. -/
theorem chanOf_onChan_ne (s : State) (p c q d : Nat) (f : Chan → Chan) (h : q * 8 + d ≠ p * 8 + c) :
    chanOf (onChan s p c f) q d = chanOf s q d := by
  simp [chanOf, smGet_smSet_ne _ _ _ _ _ h]

/-- A changed region controller reads as changed. -/
@[simp] theorem regionOf_onRegion_same (s : State) (g : Nat) (f : Region → Region) :
    regionOf (onRegion s g f) g = f (regionOf s g) := by
  simp [regionOf]

/-- Every other region controller reads as before. -/
theorem regionOf_onRegion_ne (s : State) (g k : Nat) (f : Region → Region) (h : k ≠ g) :
    regionOf (onRegion s g f) k = regionOf s k := by
  simp [regionOf, smGet_smSet_ne _ _ _ _ _ h]

/-- A changed link reads as changed. -/
@[simp] theorem linkOf_onLink_same (s : State) (l : Nat) (f : Link → Link) : linkOf (onLink s l f) l = f (linkOf s l) := by
  simp [linkOf]

/-- Every other link reads as before. -/
theorem linkOf_onLink_ne (s : State) (l k : Nat) (f : Link → Link) (h : k ≠ l) : linkOf (onLink s l f) k = linkOf s k := by
  simp [linkOf, smGet_smSet_ne _ _ _ _ _ h]

/-- A changed stream reads as changed. -/
@[simp] theorem streamOf_onStreamT_same (t : Tile) (k : Nat) (f : Stream → Stream) :
    streamOf (onStreamT t k f) k = f (streamOf t k) := by
  simp [streamOf, onStreamT]

/-- Every other stream reads as before. -/
theorem streamOf_onStreamT_ne (t : Tile) (k l : Nat) (f : Stream → Stream) (h : l ≠ k) :
    streamOf (onStreamT t k f) l = streamOf t l := by
  simp [streamOf, onStreamT, smGet_smSet_ne _ _ _ _ _ h]

/-- A changed context reads as changed. -/
@[simp] theorem ctxOf_onCtx_same (s : State) (x : Nat) (f : Ctx → Ctx) : ctxOf (onCtx s x f) x = f (ctxOf s x) := by
  simp [ctxOf, onCtx]

/-! ### Reads through an update -/

@[simp] theorem tileOf_rset (s : State) (r : Reg) (v i j : Nat) (q : Nat) : tileOf (rset s r v i j) q = tileOf s q := rfl
@[simp] theorem chanOf_rset (s : State) (r : Reg) (v i j : Nat) (q d : Nat) : chanOf (rset s r v i j) q d = chanOf s q d := rfl
@[simp] theorem regionOf_rset (s : State) (r : Reg) (v i j : Nat) (q : Nat) : regionOf (rset s r v i j) q = regionOf s q := rfl
@[simp] theorem linkOf_rset (s : State) (r : Reg) (v i j : Nat) (q : Nat) : linkOf (rset s r v i j) q = linkOf s q := rfl
@[simp] theorem tileOf_fset (s : State) (f : Fld) (v i j : Nat) (q : Nat) : tileOf (fset s f v i j) q = tileOf s q := rfl
@[simp] theorem chanOf_fset (s : State) (f : Fld) (v i j : Nat) (q d : Nat) : chanOf (fset s f v i j) q d = chanOf s q d := rfl
@[simp] theorem regionOf_fset (s : State) (f : Fld) (v i j : Nat) (q : Nat) : regionOf (fset s f v i j) q = regionOf s q := rfl
@[simp] theorem linkOf_fset (s : State) (f : Fld) (v i j : Nat) (q : Nat) : linkOf (fset s f v i j) q = linkOf s q := rfl
@[simp] theorem tileOf_rreset (s : State) (r : Reg) (i j : Nat) (q : Nat) : tileOf (rreset s r i j) q = tileOf s q := rfl
@[simp] theorem chanOf_rreset (s : State) (r : Reg) (i j : Nat) (q d : Nat) : chanOf (rreset s r i j) q d = chanOf s q d := rfl
@[simp] theorem regionOf_rreset (s : State) (r : Reg) (i j : Nat) (q : Nat) : regionOf (rreset s r i j) q = regionOf s q := rfl
@[simp] theorem linkOf_rreset (s : State) (r : Reg) (i j : Nat) (q : Nat) : linkOf (rreset s r i j) q = linkOf s q := rfl
@[simp] theorem rget_fresh (s : State) (q : Reg) (a b : Nat) : rget (fresh s).1 q a b = rget s q a b := rfl
@[simp] theorem fget_fresh (s : State) (q : Fld) (a b : Nat) : fget (fresh s).1 q a b = fget s q a b := rfl
@[simp] theorem fbit_fresh (s : State) (q : Fld) (a b : Nat) : fbit (fresh s).1 q a b = fbit s q a b := rfl
@[simp] theorem tileOf_fresh (s : State) (q : Nat) : tileOf (fresh s).1 q = tileOf s q := rfl
@[simp] theorem chanOf_fresh (s : State) (q d : Nat) : chanOf (fresh s).1 q d = chanOf s q d := rfl
@[simp] theorem regionOf_fresh (s : State) (q : Nat) : regionOf (fresh s).1 q = regionOf s q := rfl
@[simp] theorem linkOf_fresh (s : State) (q : Nat) : linkOf (fresh s).1 q = linkOf s q := rfl
@[simp] theorem rget_onTile (s : State) (p : Nat) (f : Tile → Tile) (q : Reg) (a b : Nat) : rget (onTile s p f) q a b = rget s q a b := rfl
@[simp] theorem fget_onTile (s : State) (p : Nat) (f : Tile → Tile) (q : Fld) (a b : Nat) : fget (onTile s p f) q a b = fget s q a b := rfl
@[simp] theorem fbit_onTile (s : State) (p : Nat) (f : Tile → Tile) (q : Fld) (a b : Nat) : fbit (onTile s p f) q a b = fbit s q a b := rfl
@[simp] theorem chanOf_onTile (s : State) (p : Nat) (f : Tile → Tile) (q d : Nat) : chanOf (onTile s p f) q d = chanOf s q d := rfl
@[simp] theorem regionOf_onTile (s : State) (p : Nat) (f : Tile → Tile) (q : Nat) : regionOf (onTile s p f) q = regionOf s q := rfl
@[simp] theorem linkOf_onTile (s : State) (p : Nat) (f : Tile → Tile) (q : Nat) : linkOf (onTile s p f) q = linkOf s q := rfl
@[simp] theorem rget_onStream (s : State) (p k : Nat) (f : Stream → Stream) (q : Reg) (a b : Nat) : rget (onStream s p k f) q a b = rget s q a b := rfl
@[simp] theorem fget_onStream (s : State) (p k : Nat) (f : Stream → Stream) (q : Fld) (a b : Nat) : fget (onStream s p k f) q a b = fget s q a b := rfl
@[simp] theorem fbit_onStream (s : State) (p k : Nat) (f : Stream → Stream) (q : Fld) (a b : Nat) : fbit (onStream s p k f) q a b = fbit s q a b := rfl
@[simp] theorem chanOf_onStream (s : State) (p k : Nat) (f : Stream → Stream) (q d : Nat) : chanOf (onStream s p k f) q d = chanOf s q d := rfl
@[simp] theorem regionOf_onStream (s : State) (p k : Nat) (f : Stream → Stream) (q : Nat) : regionOf (onStream s p k f) q = regionOf s q := rfl
@[simp] theorem linkOf_onStream (s : State) (p k : Nat) (f : Stream → Stream) (q : Nat) : linkOf (onStream s p k f) q = linkOf s q := rfl
@[simp] theorem rget_onGarnet (s : State) (p : Nat) (f : Garnet → Garnet) (q : Reg) (a b : Nat) : rget (onGarnet s p f) q a b = rget s q a b := rfl
@[simp] theorem fget_onGarnet (s : State) (p : Nat) (f : Garnet → Garnet) (q : Fld) (a b : Nat) : fget (onGarnet s p f) q a b = fget s q a b := rfl
@[simp] theorem fbit_onGarnet (s : State) (p : Nat) (f : Garnet → Garnet) (q : Fld) (a b : Nat) : fbit (onGarnet s p f) q a b = fbit s q a b := rfl
@[simp] theorem chanOf_onGarnet (s : State) (p : Nat) (f : Garnet → Garnet) (q d : Nat) : chanOf (onGarnet s p f) q d = chanOf s q d := rfl
@[simp] theorem regionOf_onGarnet (s : State) (p : Nat) (f : Garnet → Garnet) (q : Nat) : regionOf (onGarnet s p f) q = regionOf s q := rfl
@[simp] theorem linkOf_onGarnet (s : State) (p : Nat) (f : Garnet → Garnet) (q : Nat) : linkOf (onGarnet s p f) q = linkOf s q := rfl
@[simp] theorem rget_onProg (s : State) (p : Nat) (f : JProg → JProg) (q : Reg) (a b : Nat) : rget (onProg s p f) q a b = rget s q a b := rfl
@[simp] theorem fget_onProg (s : State) (p : Nat) (f : JProg → JProg) (q : Fld) (a b : Nat) : fget (onProg s p f) q a b = fget s q a b := rfl
@[simp] theorem fbit_onProg (s : State) (p : Nat) (f : JProg → JProg) (q : Fld) (a b : Nat) : fbit (onProg s p f) q a b = fbit s q a b := rfl
@[simp] theorem chanOf_onProg (s : State) (p : Nat) (f : JProg → JProg) (q d : Nat) : chanOf (onProg s p f) q d = chanOf s q d := rfl
@[simp] theorem regionOf_onProg (s : State) (p : Nat) (f : JProg → JProg) (q : Nat) : regionOf (onProg s p f) q = regionOf s q := rfl
@[simp] theorem linkOf_onProg (s : State) (p : Nat) (f : JProg → JProg) (q : Nat) : linkOf (onProg s p f) q = linkOf s q := rfl
@[simp] theorem rget_onChan (s : State) (p c : Nat) (f : Chan → Chan) (q : Reg) (a b : Nat) : rget (onChan s p c f) q a b = rget s q a b := rfl
@[simp] theorem fget_onChan (s : State) (p c : Nat) (f : Chan → Chan) (q : Fld) (a b : Nat) : fget (onChan s p c f) q a b = fget s q a b := rfl
@[simp] theorem fbit_onChan (s : State) (p c : Nat) (f : Chan → Chan) (q : Fld) (a b : Nat) : fbit (onChan s p c f) q a b = fbit s q a b := rfl
@[simp] theorem tileOf_onChan (s : State) (p c : Nat) (f : Chan → Chan) (q : Nat) : tileOf (onChan s p c f) q = tileOf s q := rfl
@[simp] theorem regionOf_onChan (s : State) (p c : Nat) (f : Chan → Chan) (q : Nat) : regionOf (onChan s p c f) q = regionOf s q := rfl
@[simp] theorem linkOf_onChan (s : State) (p c : Nat) (f : Chan → Chan) (q : Nat) : linkOf (onChan s p c f) q = linkOf s q := rfl
@[simp] theorem rget_onRegion (s : State) (g : Nat) (f : Region → Region) (q : Reg) (a b : Nat) : rget (onRegion s g f) q a b = rget s q a b := rfl
@[simp] theorem fget_onRegion (s : State) (g : Nat) (f : Region → Region) (q : Fld) (a b : Nat) : fget (onRegion s g f) q a b = fget s q a b := rfl
@[simp] theorem fbit_onRegion (s : State) (g : Nat) (f : Region → Region) (q : Fld) (a b : Nat) : fbit (onRegion s g f) q a b = fbit s q a b := rfl
@[simp] theorem tileOf_onRegion (s : State) (g : Nat) (f : Region → Region) (q : Nat) : tileOf (onRegion s g f) q = tileOf s q := rfl
@[simp] theorem chanOf_onRegion (s : State) (g : Nat) (f : Region → Region) (q d : Nat) : chanOf (onRegion s g f) q d = chanOf s q d := rfl
@[simp] theorem linkOf_onRegion (s : State) (g : Nat) (f : Region → Region) (q : Nat) : linkOf (onRegion s g f) q = linkOf s q := rfl
@[simp] theorem rget_onLink (s : State) (l : Nat) (f : Link → Link) (q : Reg) (a b : Nat) : rget (onLink s l f) q a b = rget s q a b := rfl
@[simp] theorem fget_onLink (s : State) (l : Nat) (f : Link → Link) (q : Fld) (a b : Nat) : fget (onLink s l f) q a b = fget s q a b := rfl
@[simp] theorem fbit_onLink (s : State) (l : Nat) (f : Link → Link) (q : Fld) (a b : Nat) : fbit (onLink s l f) q a b = fbit s q a b := rfl
@[simp] theorem tileOf_onLink (s : State) (l : Nat) (f : Link → Link) (q : Nat) : tileOf (onLink s l f) q = tileOf s q := rfl
@[simp] theorem chanOf_onLink (s : State) (l : Nat) (f : Link → Link) (q d : Nat) : chanOf (onLink s l f) q d = chanOf s q d := rfl
@[simp] theorem regionOf_onLink (s : State) (l : Nat) (f : Link → Link) (q : Nat) : regionOf (onLink s l f) q = regionOf s q := rfl
@[simp] theorem rget_onMsg (s : State) (n : Nat) (f : Msg → Msg) (q : Reg) (a b : Nat) : rget (onMsg s n f) q a b = rget s q a b := rfl
@[simp] theorem fget_onMsg (s : State) (n : Nat) (f : Msg → Msg) (q : Fld) (a b : Nat) : fget (onMsg s n f) q a b = fget s q a b := rfl
@[simp] theorem fbit_onMsg (s : State) (n : Nat) (f : Msg → Msg) (q : Fld) (a b : Nat) : fbit (onMsg s n f) q a b = fbit s q a b := rfl
@[simp] theorem tileOf_onMsg (s : State) (n : Nat) (f : Msg → Msg) (q : Nat) : tileOf (onMsg s n f) q = tileOf s q := rfl
@[simp] theorem chanOf_onMsg (s : State) (n : Nat) (f : Msg → Msg) (q d : Nat) : chanOf (onMsg s n f) q d = chanOf s q d := rfl
@[simp] theorem regionOf_onMsg (s : State) (n : Nat) (f : Msg → Msg) (q : Nat) : regionOf (onMsg s n f) q = regionOf s q := rfl
@[simp] theorem linkOf_onMsg (s : State) (n : Nat) (f : Msg → Msg) (q : Nat) : linkOf (onMsg s n f) q = linkOf s q := rfl
@[simp] theorem rget_onKelpie (s : State) (f : Kelpie → Kelpie) (q : Reg) (a b : Nat) : rget (onKelpie s f) q a b = rget s q a b := rfl
@[simp] theorem fget_onKelpie (s : State) (f : Kelpie → Kelpie) (q : Fld) (a b : Nat) : fget (onKelpie s f) q a b = fget s q a b := rfl
@[simp] theorem fbit_onKelpie (s : State) (f : Kelpie → Kelpie) (q : Fld) (a b : Nat) : fbit (onKelpie s f) q a b = fbit s q a b := rfl
@[simp] theorem tileOf_onKelpie (s : State) (f : Kelpie → Kelpie) (q : Nat) : tileOf (onKelpie s f) q = tileOf s q := rfl
@[simp] theorem chanOf_onKelpie (s : State) (f : Kelpie → Kelpie) (q d : Nat) : chanOf (onKelpie s f) q d = chanOf s q d := rfl
@[simp] theorem regionOf_onKelpie (s : State) (f : Kelpie → Kelpie) (q : Nat) : regionOf (onKelpie s f) q = regionOf s q := rfl
@[simp] theorem linkOf_onKelpie (s : State) (f : Kelpie → Kelpie) (q : Nat) : linkOf (onKelpie s f) q = linkOf s q := rfl
@[simp] theorem rget_onCtx (s : State) (x : Nat) (f : Ctx → Ctx) (q : Reg) (a b : Nat) : rget (onCtx s x f) q a b = rget s q a b := rfl
@[simp] theorem fget_onCtx (s : State) (x : Nat) (f : Ctx → Ctx) (q : Fld) (a b : Nat) : fget (onCtx s x f) q a b = fget s q a b := rfl
@[simp] theorem fbit_onCtx (s : State) (x : Nat) (f : Ctx → Ctx) (q : Fld) (a b : Nat) : fbit (onCtx s x f) q a b = fbit s q a b := rfl
@[simp] theorem tileOf_onCtx (s : State) (x : Nat) (f : Ctx → Ctx) (q : Nat) : tileOf (onCtx s x f) q = tileOf s q := rfl
@[simp] theorem chanOf_onCtx (s : State) (x : Nat) (f : Ctx → Ctx) (q d : Nat) : chanOf (onCtx s x f) q d = chanOf s q d := rfl
@[simp] theorem regionOf_onCtx (s : State) (x : Nat) (f : Ctx → Ctx) (q : Nat) : regionOf (onCtx s x f) q = regionOf s q := rfl
@[simp] theorem linkOf_onCtx (s : State) (x : Nat) (f : Ctx → Ctx) (q : Nat) : linkOf (onCtx s x f) q = linkOf s q := rfl
@[simp] theorem rget_onColl (s : State) (x : Nat) (f : Coll → Coll) (q : Reg) (a b : Nat) : rget (onColl s x f) q a b = rget s q a b := rfl
@[simp] theorem fget_onColl (s : State) (x : Nat) (f : Coll → Coll) (q : Fld) (a b : Nat) : fget (onColl s x f) q a b = fget s q a b := rfl
@[simp] theorem fbit_onColl (s : State) (x : Nat) (f : Coll → Coll) (q : Fld) (a b : Nat) : fbit (onColl s x f) q a b = fbit s q a b := rfl
@[simp] theorem tileOf_onColl (s : State) (x : Nat) (f : Coll → Coll) (q : Nat) : tileOf (onColl s x f) q = tileOf s q := rfl
@[simp] theorem chanOf_onColl (s : State) (x : Nat) (f : Coll → Coll) (q d : Nat) : chanOf (onColl s x f) q d = chanOf s q d := rfl
@[simp] theorem regionOf_onColl (s : State) (x : Nat) (f : Coll → Coll) (q : Nat) : regionOf (onColl s x f) q = regionOf s q := rfl
@[simp] theorem linkOf_onColl (s : State) (x : Nat) (f : Coll → Coll) (q : Nat) : linkOf (onColl s x f) q = linkOf s q := rfl
@[simp] theorem rget_onBoot (s : State) (f : Boot → Boot) (q : Reg) (a b : Nat) : rget (onBoot s f) q a b = rget s q a b := rfl
@[simp] theorem fget_onBoot (s : State) (f : Boot → Boot) (q : Fld) (a b : Nat) : fget (onBoot s f) q a b = fget s q a b := rfl
@[simp] theorem fbit_onBoot (s : State) (f : Boot → Boot) (q : Fld) (a b : Nat) : fbit (onBoot s f) q a b = fbit s q a b := rfl
@[simp] theorem tileOf_onBoot (s : State) (f : Boot → Boot) (q : Nat) : tileOf (onBoot s f) q = tileOf s q := rfl
@[simp] theorem chanOf_onBoot (s : State) (f : Boot → Boot) (q d : Nat) : chanOf (onBoot s f) q d = chanOf s q d := rfl
@[simp] theorem regionOf_onBoot (s : State) (f : Boot → Boot) (q : Nat) : regionOf (onBoot s f) q = regionOf s q := rfl
@[simp] theorem linkOf_onBoot (s : State) (f : Boot → Boot) (q : Nat) : linkOf (onBoot s f) q = linkOf s q := rfl
@[simp] theorem rget_onBar2 (s : State) (f : Bar2Acc → Bar2Acc) (q : Reg) (a b : Nat) : rget (onBar2 s f) q a b = rget s q a b := rfl
@[simp] theorem fget_onBar2 (s : State) (f : Bar2Acc → Bar2Acc) (q : Fld) (a b : Nat) : fget (onBar2 s f) q a b = fget s q a b := rfl
@[simp] theorem fbit_onBar2 (s : State) (f : Bar2Acc → Bar2Acc) (q : Fld) (a b : Nat) : fbit (onBar2 s f) q a b = fbit s q a b := rfl
@[simp] theorem tileOf_onBar2 (s : State) (f : Bar2Acc → Bar2Acc) (q : Nat) : tileOf (onBar2 s f) q = tileOf s q := rfl
@[simp] theorem chanOf_onBar2 (s : State) (f : Bar2Acc → Bar2Acc) (q d : Nat) : chanOf (onBar2 s f) q d = chanOf s q d := rfl
@[simp] theorem regionOf_onBar2 (s : State) (f : Bar2Acc → Bar2Acc) (q : Nat) : regionOf (onBar2 s f) q = regionOf s q := rfl
@[simp] theorem linkOf_onBar2 (s : State) (f : Bar2Acc → Bar2Acc) (q : Nat) : linkOf (onBar2 s f) q = linkOf s q := rfl
@[simp] theorem rget_onHostCmd (s : State) (c : HostCmd) (f : HostCmd → HostCmd) (q : Reg) (a b : Nat) : rget (onHostCmd s c f) q a b = rget s q a b := rfl
@[simp] theorem fget_onHostCmd (s : State) (c : HostCmd) (f : HostCmd → HostCmd) (q : Fld) (a b : Nat) : fget (onHostCmd s c f) q a b = fget s q a b := rfl
@[simp] theorem fbit_onHostCmd (s : State) (c : HostCmd) (f : HostCmd → HostCmd) (q : Fld) (a b : Nat) : fbit (onHostCmd s c f) q a b = fbit s q a b := rfl
@[simp] theorem tileOf_onHostCmd (s : State) (c : HostCmd) (f : HostCmd → HostCmd) (q : Nat) : tileOf (onHostCmd s c f) q = tileOf s q := rfl
@[simp] theorem chanOf_onHostCmd (s : State) (c : HostCmd) (f : HostCmd → HostCmd) (q d : Nat) : chanOf (onHostCmd s c f) q d = chanOf s q d := rfl
@[simp] theorem regionOf_onHostCmd (s : State) (c : HostCmd) (f : HostCmd → HostCmd) (q : Nat) : regionOf (onHostCmd s c f) q = regionOf s q := rfl
@[simp] theorem linkOf_onHostCmd (s : State) (c : HostCmd) (f : HostCmd → HostCmd) (q : Nat) : linkOf (onHostCmd s c f) q = linkOf s q := rfl

end Sys2Proof.Machine
end

