-- ==== Sys2Proof/Laws/Ops.lean ====
section
/-! SUPPORT. Laws of the shared operations: everything that counting, posting events and stopping a tile can change. -/

namespace Sys2Proof.Machine

/-! ### Who answers and who goes on -/

/-- A tile that answers other masters is up. -/
theorem tileOpen_up {s : State} {p : Nat} (h : tileOpen s p = true) : tileUp s p = true := by
  simp only [tileOpen, Bool.and_eq_true] at h
  exact h.1

/-- A tile that is up goes on by itself. -/
theorem tileUp_runs {s : State} {p : Nat} (h : tileUp s p = true) : tileRuns s p = true := by
  simp only [tileUp, Bool.and_eq_true] at h
  simp only [tileRuns, Bool.and_eq_true]
  exact ⟨h.1.1, h.2⟩

theorem whenOpen_open {s : State} {p : Nat} (f : State → State) (h : tileOpen s p = true) : whenOpen s p f = f s := if_pos h

theorem whenOpen_shut {s : State} {p : Nat} (f : State → State) (h : tileOpen s p = false) : whenOpen s p f = s := by
  simp [whenOpen, h]

theorem whenRuns_on {s : State} {p : Nat} (f : State → State) (h : tileRuns s p = true) : whenRuns s p f = f s := if_pos h

theorem whenRuns_off {s : State} {p : Nat} (f : State → State) (h : tileRuns s p = false) : whenRuns s p f = s := by
  simp [whenRuns, h]

/-! ### Merged sectors -/

/-- The order of two merged sectors does not matter for their tag. -/
theorem mergeTag_comm (a b : Nat) : mergeTag a b = mergeTag b a := by
  unfold mergeTag
  split <;> split <;> simp_all [Nat.min_comm]

/-- A clean sector leaves the tag it is merged into. -/
@[simp] theorem mergeTag_zero (a : Nat) : mergeTag a 0 = a := by
  unfold mergeTag
  split <;> simp_all

/-- The order of merged bytes does not matter. -/
theorem xorBytes_comm (a b : List Byte) : xorBytes a b = xorBytes b a := by
  unfold xorBytes
  exact List.zipWith_comm_of_comm (fun x y => BitVec.xor_comm x y)

/-! ### Frames -/

theorem regsAndEvents_refl (s : State) (P : Nat → Prop) : RegsAndEvents s s P := ⟨s.regs, s.host, s.bar4, rfl, fun _ _ _ => rfl⟩

theorem regsAndEvents_mono {s t : State} {P Q : Nat → Prop} (h : RegsAndEvents s t P) (hq : ∀ off, P off → Q off) :
    RegsAndEvents s t Q := by
  obtain ⟨r, h', b, rfl, hr⟩ := h
  exact ⟨r, h', b, rfl, fun off hp he => hr off (fun x => hp (hq off x)) he⟩

theorem regsAndEvents_trans {s t u : State} {P : Nat → Prop} (h : RegsAndEvents s t P) (k : RegsAndEvents t u P) :
    RegsAndEvents s u P := by
  obtain ⟨r, h', b, rfl, hr⟩ := h
  obtain ⟨r2, h2, b2, rfl, hr2⟩ := k
  exact ⟨r2, h2, b2, rfl, fun off hp he => (hr2 off hp he).trans (hr off hp he)⟩

theorem regsAndEvents_rset {s t : State} {P : Nat → Prop} (h : RegsAndEvents s t P) (r : Reg) (v i j : Nat)
    (hp : P (regOff r i j) ∨ EventReg (regOff r i j)) : RegsAndEvents s (rset t r v i j) P :=
  regsAndEvents_trans h ⟨_, t.host, t.bar4, rfl, fun off hn he => by
    apply smFind_smSet_ne
    rintro rfl
    exact hp.elim hn he⟩

theorem regsAndEvents_fset {s t : State} {P : Nat → Prop} (h : RegsAndEvents s t P) (f : Fld) (v i j : Nat)
    (hp : P (regOff f.reg i j) ∨ EventReg (regOff f.reg i j)) : RegsAndEvents s (fset t f v i j) P :=
  regsAndEvents_rset h f.reg _ i j hp

/-- A change of the host interface and of ring SRAM alone. -/
theorem regsAndEvents_host {s t : State} {P : Nat → Prop} (h : RegsAndEvents s t P) (x : HostIf) (b : Memory) :
    RegsAndEvents s { t with host := x, bar4 := b } P := regsAndEvents_trans h ⟨t.regs, x, b, rfl, fun _ _ _ => rfl⟩

/-- Every field that posting an event leaves. -/
theorem regsAndEvents_fields {s t : State} {P : Nat → Prop} (h : RegsAndEvents s t P) :
    t.pending = s.pending ∧ t.tiles = s.tiles ∧ t.chans = s.chans ∧ t.regions = s.regions ∧ t.links = s.links ∧ t.msgs = s.msgs
      ∧ VaultsKept s t ∧ SpinelSame s t ∧ t.agate = s.agate ∧ t.topaz = s.topaz ∧ t.kelpie = s.kelpie ∧ t.blood = s.blood
      ∧ t.husky = s.husky ∧ t.start = s.start ∧ t.mastiff = s.mastiff ∧ t.fuses = s.fuses ∧ t.flash = s.flash ∧ t.boot = s.boot
      ∧ t.nextId = s.nextId ∧ t.draws = s.draws := by
  obtain ⟨r, h', b, rfl, -⟩ := h
  exact ⟨rfl, rfl, rfl, rfl, rfl, rfl, ⟨rfl, rfl, rfl, rfl, rfl⟩, ⟨rfl, rfl, rfl⟩, rfl, rfl, rfl, rfl, rfl, rfl, rfl, rfl, rfl,
    rfl, rfl, rfl⟩

/-! ### Interrupts, events and counters -/

/-- Sending a vector changes its pending bit or what is sent, nothing else. -/
theorem sendIrq_frame (s : State) (v : Nat) (P : Nat → Prop) : RegsAndEvents s (sendIrq s v) P := by
  unfold sendIrq
  split
  · split
    · exact regsAndEvents_rset (regsAndEvents_refl s P) _ _ _ _ (.inr (.inr (.inr ⟨v / 64, rfl⟩)))
    · exact regsAndEvents_host (regsAndEvents_refl s P) _ s.bar4
  · exact regsAndEvents_host (regsAndEvents_refl s P) _ s.bar4

theorem signalRing_frame (s : State) (q : Nat) (P : Nat → Prop) : RegsAndEvents s (signalRing s q) P :=
  regsAndEvents_host (sendIrq_frame s (vectorOf s q) P) _ (sendIrq s (vectorOf s q)).bar4

theorem notePosted_frame (s : State) (q : Nat) (b : Bool) (P : Nat → Prop) : RegsAndEvents s (notePosted s q b) P := by
  unfold notePosted
  extract_lets n oldest src u c
  have h : RegsAndEvents s u P := regsAndEvents_host (regsAndEvents_refl s P) _ s.bar4
  split
  · exact regsAndEvents_trans h (signalRing_frame u q P)
  · exact h

theorem dropEvent_frame (s : State) (P : Nat → Prop) : RegsAndEvents s (dropEvent s) P := by
  unfold dropEvent
  extract_lets src r src2 src3
  have h : RegsAndEvents s r.1 P := regsAndEvents_rset (regsAndEvents_host (regsAndEvents_refl s P) _ s.bar4)
    HOST_EVT_DROP_COUNT _ 0 0 (.inr (.inr (.inl rfl)))
  split
  · exact regsAndEvents_host h _ r.1.bar4
  · exact h

theorem writeEvent_frame (s : State) (e : Event) (P : Nat → Prop) : RegsAndEvents s (writeEvent s e) P := by
  have hr : ∀ Q : Nat → Prop, Q (regOff HOST_EVT_STATE 0 0) ∨ EventReg (regOff HOST_EVT_STATE 0 0) := fun _ => .inr (.inl rfl)
  unfold writeEvent
  extract_lets size tail head ph a src u v w
  have hu : RegsAndEvents s u P := regsAndEvents_host (regsAndEvents_refl s P) _ _
  have hv : RegsAndEvents s v P := regsAndEvents_fset hu HOST_EVT_STATE__TAIL _ 0 0 (hr P)
  have hw : RegsAndEvents s w P := by
    show RegsAndEvents s (if tail + 1 = size then fset v HOST_EVT_STATE__PHASE (1 - ph) else v) P
    split
    · exact regsAndEvents_fset hv HOST_EVT_STATE__PHASE _ 0 0 (hr P)
    · exact hv
  split
  · exact dropEvent_frame s P
  · exact regsAndEvents_trans hw (notePosted_frame w 64 false P)

/-- Posting an event changes the event ring, its registers and the host interface, nothing else. -/
theorem postEvent_frame (s : State) (c p : Nat) (P : Nat → Prop) : RegsAndEvents s (postEvent s c p) P := by
  unfold postEvent
  extract_lets e src u src2
  have h : RegsAndEvents s u P := regsAndEvents_host (regsAndEvents_refl s P) _ s.bar4
  split
  · split
    · exact regsAndEvents_trans h (writeEvent_frame u e P)
    · exact regsAndEvents_host h _ u.bar4
  · split
    · exact regsAndEvents_host h _ u.bar4
    · exact regsAndEvents_trans h (dropEvent_frame u P)

/-- While the event ring is disabled and the firmware's buffer has room, an event is held there and nothing else changes. -/
theorem postEvent_held (s : State) (c p : Nat) (h1 : fbit s HOST_EVT_CFG__ENABLE = false) (h2 : s.host.evtBuf.length < 256) :
    postEvent s c p = { s with host := { s.host with
      evtSeq := (s.host.evtSeq + 1) % 2 ^ 32
      evtBuf := s.host.evtBuf ++ [⟨c, s.host.evtSeq, now s, p⟩] } } := by
  have h3 : fbit { s with host := { s.host with evtSeq := (s.host.evtSeq + 1) % 2 ^ 32 } } HOST_EVT_CFG__ENABLE = false := h1
  unfold postEvent
  dsimp only
  rw [h3, if_neg Bool.false_ne_true, if_pos h2]

/-- Counting changes the counter and what posting its CNT_SAT event changes, nothing else. -/
theorem bumpN_frame (s : State) (r : Reg) (n i j : Nat) : RegsAndEvents s (bumpN s r n i j) fun off => off = regOff r i j := by
  unfold bumpN
  extract_lets x
  have h : RegsAndEvents s x.1 fun off => off = regOff r i j := regsAndEvents_rset (regsAndEvents_refl s _) r _ i j (.inl rfl)
  split
  · exact regsAndEvents_trans h (postEvent_frame x.1 _ _ _)
  · exact h

theorem bump_frame (s : State) (r : Reg) (i j : Nat) : RegsAndEvents s (bump s r i j) fun off => off = regOff r i j :=
  bumpN_frame s r 1 i j

/-- Where saturation posts no event, counting is a write of the counter. -/
theorem bumpN_quiet (s : State) (r : Reg) (n i j : Nat)
    (h : fbit (rset s r (counterNext (rget s r i j) n) i j) HUB_CNT_CTRL__SAT_EVT_EN = false) :
    bumpN s r n i j = rset s r (counterNext (rget s r i j) n) i j := by
  unfold bumpN bumpRaw
  simp only [h, Bool.and_false, Bool.false_eq_true, if_false]

/-- A counter that is not the counter control itself, with CNT_SAT events off. -/
theorem bumpN_off (s : State) (r : Reg) (n i j : Nat) (h : fbit s HUB_CNT_CTRL__SAT_EVT_EN = false)
    (hr : regOff HUB_CNT_CTRL 0 0 ≠ regOff r i j) : bumpN s r n i j = rset s r (counterNext (rget s r i j) n) i j := by
  apply bumpN_quiet
  unfold fbit at *
  rw [fget_rset_ne _ _ _ _ _ _ _ _ hr]
  exact h

/-! ### What the work of a tile keeps -/

/-- Register writes, changes of a tile and counting keep `Q`. -/
def TileClosed (Q : State → Prop) : Prop :=
  (∀ s r v i j, Q s → Q (rset s r v i j)) ∧ (∀ s p f, Q s → Q (onTile s p f)) ∧ ∀ s r n i j, Q s → Q (bumpN s r n i j)

theorem closed_rset {Q : State → Prop} (hc : TileClosed Q) {s : State} (h : Q s) (r : Reg) (v i j : Nat) : Q (rset s r v i j) :=
  hc.1 s r v i j h

theorem closed_fset {Q : State → Prop} (hc : TileClosed Q) {s : State} (h : Q s) (f : Fld) (v i j : Nat) : Q (fset s f v i j) :=
  hc.1 s f.reg _ i j h

theorem closed_onTile {Q : State → Prop} (hc : TileClosed Q) {s : State} (h : Q s) (p : Nat) (f : Tile → Tile) : Q (onTile s p f) :=
  hc.2.1 s p f h

theorem closed_bumpN {Q : State → Prop} (hc : TileClosed Q) {s : State} (h : Q s) (r : Reg) (n i j : Nat) : Q (bumpN s r n i j) :=
  hc.2.2 s r n i j h

theorem closed_ite {Q : State → Prop} {s t : State} (c : Prop) [Decidable c] (h : Q s) (k : Q t) : Q (if c then s else t) := by
  split <;> assumption

/-- A loop of operations that keep a property keeps it. -/
theorem closed_forS {Q : State → Prop} {α : Type} {s : State} (h : Q s) (l : List α) (f : α → State → State)
    (k : ∀ x u, Q u → Q (f x u)) : Q (forS l f s) := by
  induction l generalizing s with
  | nil => exact h
  | cons x l ih => exact ih (k x s h)

theorem closed_setTileState {Q : State → Prop} (hc : TileClosed Q) {s : State} (h : Q s) (p st : Nat) : Q (setTileState s p st) := by
  unfold setTileState
  extract_lets u v
  have hu : Q u := closed_fset hc (closed_fset hc h _ _ _ _) _ _ _ _
  refine closed_ite _ hu (closed_forS (closed_fset hc (closed_forS hu _ _ fun x w hw => ?_) _ _ _ _) _ _ fun x w hw => ?_)
  · exact closed_ite _ (closed_fset hc (closed_fset hc hw _ _ _ _) _ _ _ _) hw
  · exact closed_fset hc (closed_fset hc hw _ _ _ _) _ _ _ _

theorem closed_tokensFail {Q : State → Prop} (hc : TileClosed Q) {s : State} (h : Q s) (p d : Nat) : Q (tokensFail s p d) := by
  unfold tokensFail setSlot
  extract_lets u
  have hu : Q u := closed_ite _ (closed_fset hc (closed_fset hc h _ _ _ _) _ _ _ _) h
  exact closed_ite _ (closed_fset hc hu _ _ _ _) hu

theorem closed_tokensOk {Q : State → Prop} (hc : TileClosed Q) {s : State} (h : Q s) (p d : Nat) : Q (tokensOk s p d) := by
  unfold tokensOk setSlot
  extract_lets u
  have hu : Q u := closed_ite _ (closed_fset hc h _ _ _ _) h
  exact closed_ite _ (closed_fset hc hu _ _ _ _) hu

theorem closed_discardCmd {Q : State → Prop} (hc : TileClosed Q) {s : State} (h : Q s) (p : Nat) (u : TUnit) (c : Cmd) :
    Q (discardCmd s p u c) := by
  unfold discardCmd oneOut dropCmd onStream
  exact closed_onTile hc (closed_tokensFail hc (closed_onTile hc h _ _) _ _) _ _

theorem closed_dmaStopDone {Q : State → Prop} (hc : TileClosed Q) {s : State} (h : Q s) (p : Nat) (c : Cmd) : Q (dmaStopDone s p c) :=
  closed_discardCmd hc (closed_rset hc h _ _ _ _) _ _ _

theorem closed_abortQueued {Q : State → Prop} (hc : TileClosed Q) {s : State} (h : Q s) (p : Nat) (u : TUnit) : Q (abortQueued s p u) :=
  closed_forS h _ _ fun c _ hw => closed_discardCmd hc hw p u c

theorem closed_abortGarnet {Q : State → Prop} (hc : TileClosed Q) {s : State} (h : Q s) (p : Nat) : Q (abortGarnet s p) := by
  unfold abortGarnet
  extract_lets u v
  have hu : Q u := closed_abortQueued hc (closed_abortQueued hc h _ _) _ _
  have hv : Q v := by
    unfold v
    split
    · exact closed_discardCmd hc (closed_onTile hc hu _ _) _ _ _
    · exact hu
  exact closed_onTile hc hv _ _

theorem closed_abortDma {Q : State → Prop} (hc : TileClosed Q) {s : State} (h : Q s) (p : Nat) : Q (abortDma s p) := by
  unfold abortDma
  extract_lets u gone v
  refine closed_forS (closed_onTile hc (closed_onTile hc (closed_abortQueued hc h _ _) _ _) _ _) _ _ fun c w hw => ?_
  exact closed_ite _ hw (closed_ite _ (closed_dmaStopDone hc hw _ _) (closed_onTile hc hw _ _))

theorem closed_abortJasper {Q : State → Prop} (hc : TileClosed Q) {s : State} (h : Q s) (p : Nat) : Q (abortJasper s p) := by
  unfold abortJasper
  extract_lets u v w x
  have hv : Q v := closed_onTile hc (closed_abortQueued hc h _ _) _ _
  have hx : Q x := closed_ite _ (closed_fset hc (closed_rset hc hv _ _ _ _) _ _ _ _) hv
  split
  · exact closed_discardCmd hc hx _ _ _
  · exact hx

/-- The abort of a tile's units. -/
theorem closed_abortUnits {Q : State → Prop} (hc : TileClosed Q) {s : State} (h : Q s) (p : Nat) : Q (abortUnits s p) :=
  closed_fset hc (closed_abortJasper hc (closed_abortDma hc (closed_abortQueued hc (closed_abortGarnet hc h _) _ _) _) _) _ _ _ _

/-- The filler of a tile that leaves RUN. -/
theorem closed_fillStart {Q : State → Prop} (hc : TileClosed Q) {s : State} (h : Q s) (p : Nat) : Q (fillStart s p) := by
  unfold fillStart
  exact closed_ite _ h (closed_onTile hc h _ _)

/-- The stop sequence of a tile. -/
theorem closed_stopTile {Q : State → Prop} (hc : TileClosed Q) {s : State} (h : Q s) (p : Nat) : Q (stopTile s p) :=
  closed_ite _ (closed_abortUnits hc (closed_onTile hc (closed_setTileState hc (closed_fillStart hc h _) _ _) _ _) _) h

theorem closed_recordFault {Q : State → Prop} (hc : TileClosed Q) {s : State} (h : Q s) (p code unit : Nat) (x : FaultCmd) (info : Nat) :
    Q (recordFault s p code unit x info) := by
  unfold recordFault
  extract_lets u
  have hu : Q u := closed_bumpN hc h _ _ _ _
  exact closed_ite _ (closed_fset hc hu _ _ _ _) (closed_fset hc (closed_rset hc (closed_rset hc hu _ _ _ _) _ _ _ _) _ _ _ _)

/-- A tile fault changes registers, the tile and what posting events changes, nothing else of the block. -/
theorem closed_raiseFault {Q : State → Prop} (hc : TileClosed Q) {s : State} (h : Q s) (p code unit : Nat) (x : FaultCmd) (info : Nat) :
    Q (raiseFault s p code unit x info) := by
  unfold raiseFault
  extract_lets u
  have hu : Q u := closed_recordFault hc h _ _ _ _ _
  exact closed_stopTile hc (closed_ite _ (closed_onTile hc hu _ _) hu) _

theorem closed_finishCmd {Q : State → Prop} (hc : TileClosed Q) {s : State} (h : Q s) (p : Nat) (u : TUnit) (n : Nat) (ok : Bool) :
    Q (finishCmd s p u n ok) := closed_onTile hc (closed_onTile hc h _ _) _ _

theorem closed_failCmd {Q : State → Prop} (hc : TileClosed Q) {s : State} (h : Q s) (p : Nat) (u : TUnit) (c : Cmd) (code info : Nat) :
    Q (failCmd s p u c code info) := closed_raiseFault hc (closed_onTile hc h _ _) _ _ _ _ _

theorem closed_failRead {Q : State → Prop} (hc : TileClosed Q) {s : State} (h : Q s) (p : Nat) (u : TUnit) (c : Cmd) (code w : Nat) (r : SpRead) :
    Q (failRead s p u c code w r) := by
  unfold failRead
  extract_lets v
  have hv : Q v := closed_onTile hc h _ _
  split <;> exact closed_raiseFault hc hv _ _ _ _ _

/-! ### What the work of a tile changes -/

/-- `t` differs from `s` in registers, tiles and what posting events changes alone. -/
def TileWork (s t : State) : Prop := ∃ r ts h b, t = { s with regs := r, tiles := ts, host := h, bar4 := b }

theorem tileWork_refl (s : State) : TileWork s s := ⟨s.regs, s.tiles, s.host, s.bar4, rfl⟩

theorem tileWork_trans {s t u : State} (h : TileWork s t) (k : TileWork t u) : TileWork s u := by
  obtain ⟨_, _, _, _, rfl⟩ := h
  obtain ⟨r, ts, h, b, rfl⟩ := k
  exact ⟨r, ts, h, b, rfl⟩

theorem tileWork_of_events {s t : State} {P : Nat → Prop} (h : RegsAndEvents s t P) : TileWork s t := by
  obtain ⟨r, h', b, rfl, -⟩ := h
  exact ⟨r, s.tiles, h', b, rfl⟩

/-- Register writes, changes of a tile and counting are such work. -/
theorem tileWork_closed (s : State) : TileClosed (TileWork s) :=
  ⟨fun t r v i j h => tileWork_trans h ⟨(rset t r v i j).regs, t.tiles, t.host, t.bar4, rfl⟩,
    fun t p f h => tileWork_trans h ⟨t.regs, (onTile t p f).tiles, t.host, t.bar4, rfl⟩,
    fun t r n i j h => tileWork_trans h (tileWork_of_events (bumpN_frame t r n i j))⟩

/-- A tile fault changes registers, the tile and what posting events changes, nothing else of the block. -/
theorem raiseFault_frame (s : State) (p code unit : Nat) (x : FaultCmd) (info : Nat) :
    TileWork s (raiseFault s p code unit x info) := closed_raiseFault (tileWork_closed s) (tileWork_refl s) _ _ _ _ _

theorem stopTile_frame (s : State) (p : Nat) : TileWork s (stopTile s p) :=
  closed_stopTile (tileWork_closed s) (tileWork_refl s) _

theorem finishCmd_frame (s : State) (p : Nat) (u : TUnit) (n : Nat) (ok : Bool) : TileWork s (finishCmd s p u n ok) :=
  closed_finishCmd (tileWork_closed s) (tileWork_refl s) _ _ _ _

theorem failCmd_frame (s : State) (p : Nat) (u : TUnit) (c : Cmd) (code info : Nat) : TileWork s (failCmd s p u c code info) :=
  closed_failCmd (tileWork_closed s) (tileWork_refl s) _ _ _ _ _

theorem failRead_frame (s : State) (p : Nat) (u : TUnit) (c : Cmd) (code w : Nat) (r : SpRead) :
    TileWork s (failRead s p u c code w r) := closed_failRead (tileWork_closed s) (tileWork_refl s) _ _ _ _ _ _

/-- What such work leaves: the vaults, Spinel, channels, regions, links, messages and the die's own units. -/
theorem tileWork_fields {s t : State} (h : TileWork s t) :
    t.pending = s.pending ∧ t.chans = s.chans ∧ t.regions = s.regions ∧ t.links = s.links ∧ t.msgs = s.msgs ∧ VaultsKept s t
      ∧ SpinelSame s t ∧ t.agate = s.agate ∧ t.topaz = s.topaz ∧ t.kelpie = s.kelpie ∧ t.blood = s.blood ∧ t.husky = s.husky
      ∧ t.start = s.start ∧ t.mastiff = s.mastiff ∧ t.fuses = s.fuses ∧ t.flash = s.flash ∧ t.boot = s.boot ∧ t.draws = s.draws := by
  obtain ⟨_, _, _, _, rfl⟩ := h
  exact ⟨rfl, rfl, rfl, rfl, rfl, ⟨rfl, rfl, rfl, rfl, rfl⟩, ⟨rfl, rfl, rfl⟩, rfl, rfl, rfl, rfl, rfl, rfl, rfl, rfl, rfl, rfl, rfl⟩

/-! ### Bursts -/

/-- A burst that a channel accepts waits there: no byte of a vault or of Spinel changes. -/
theorem acceptBurst_kept (s : State) (p c : Nat) (b : Burst) :
    VaultsKept s (acceptBurst s p c b) ∧ SpinelSame s (acceptBurst s p c b) := by
  have key : ∀ u : State, (VaultsKept s u ∧ SpinelSame s u) →
      VaultsKept s (onChan u p c fun ch => { ch with queue := ch.queue ++ [b] })
        ∧ SpinelSame s (onChan u p c fun ch => { ch with queue := ch.queue ++ [b] }) := fun _ h => h
  refine key _ ?_
  split
  · obtain ⟨r, h, m, e, -⟩ := bump_frame s REGION_JASPER_HOLD_COUNT (p / 18) 0
    rw [e]
    exact ⟨⟨rfl, rfl, rfl, rfl, rfl⟩, rfl, rfl, rfl⟩
  · exact ⟨⟨rfl, rfl, rfl, rfl, rfl⟩, rfl, rfl, rfl⟩

/-- A sequencer's burst waits in its channel: no byte of a vault or of Spinel changes. [15_fault_tolerance.md R369] -/
theorem seqBurst_kept (g : Bool) (s : State) (e i : Nat) (l : List Sector) :
    VaultsKept s (seqBurst g s e i l) ∧ SpinelSame s (seqBurst g s e i l) := by
  unfold seqBurst
  extract_lets f
  split
  · exact ⟨⟨rfl, rfl, rfl, rfl, rfl⟩, rfl, rfl, rfl⟩
  · exact acceptBurst_kept f.1 _ _ _

end Sys2Proof.Machine
end

