-- ==== Sys2Proof/Laws/Memory.lean ====
section
/-! SUPPORT. Every operation that stores to a memory of the block, or to one of its tables, keeps their canonical form; and
what a read finds after a store. -/

namespace Sys2Proof.Machine

/-! ### Reads after a store -/

/-- Bytes read back as they were stored. -/
theorem memRead_memWrite_same (bs : List Byte) (m : Memory) (a : Nat) (h : m.wf = true) :
    memRead (memWrite m a bs) a bs.length = bs := by
  have key : ∀ (n : Nat) (x : Memory) (b : Nat) (l : List Byte), l.length = n → (∀ i (hi : i < l.length), memGet x (b + i) = l[i]) →
      memRead x b n = l := by
    intro n
    induction n with
    | zero => intro x b l hl _; simp [memRead, List.length_eq_zero_iff.1 hl]
    | succ n ih =>
      intro x b l hl hg
      cases l with
      | nil => simp at hl
      | cons y l =>
        simp only [memRead]
        rw [ih x (b + 1) l (by simpa using hl) fun i hi => by
          have := hg (i + 1) (by simpa using hi)
          rw [show b + (i + 1) = b + 1 + i by omega] at this
          simpa using this]
        have := hg 0 (by simp)
        simp at this
        rw [this]
  exact key _ _ a bs rfl fun i hi => memGet_memWrite_in bs m a i h hi

/-- A range apart from the stored one reads as before. -/
theorem memRead_memWrite_out (bs : List Byte) (m : Memory) (a b n : Nat) (h : m.wf = true) (hn : b + n ≤ a ∨ a + bs.length ≤ b) :
    memRead (memWrite m a bs) b n = memRead m b n := by
  induction n generalizing b with
  | zero => rfl
  | succ n ih =>
    simp only [memRead]
    rw [memGet_memWrite_out bs m a b h (by omega), ih (b + 1) (by omega)]

/-- A range that does not hold the stored byte reads as before. -/
theorem memRead_memSet_out (m : Memory) (a b n : Nat) (x : Byte) (h : m.wf = true) (hn : b + n ≤ a ∨ a < b) :
    memRead (memSet m a x) b n = memRead m b n := by
  induction n generalizing b with
  | zero => rfl
  | succ n ih =>
    simp only [memRead]
    rw [memGet_memSet_ne m a b x h (by omega), ih (b + 1) (by omega)]

@[simp] theorem memRead_length (m : Memory) (a n : Nat) : (memRead m a n).length = n := by
  induction n generalizing a with
  | zero => rfl
  | succ n ih => simp [memRead, ih]

/-! ### Registers and tables -/

theorem canon_rset {s : State} (h : MemsCanonical s) (r : Reg) (v i j : Nat) : MemsCanonical (rset s r v i j) := by
  obtain ⟨h1, h2, h3, h4, h5, h6, h7, h8, h9, h10, h11⟩ := h
  exact ⟨h1, h2, h3, h4, h5, h6, h7, h8, h9, smSortedFrom_smSet _ 0 _ _ h10 (Nat.zero_le _), h11⟩

theorem canon_fset {s : State} (h : MemsCanonical s) (f : Fld) (v i j : Nat) : MemsCanonical (fset s f v i j) :=
  canon_rset h f.reg _ i j

theorem canon_rreset {s : State} (h : MemsCanonical s) (r : Reg) (i j : Nat) : MemsCanonical (rreset s r i j) := by
  obtain ⟨h1, h2, h3, h4, h5, h6, h7, h8, h9, h10, h11⟩ := h
  exact ⟨h1, h2, h3, h4, h5, h6, h7, h8, h9, smSortedFrom_smDel _ 0 _ h10, h11⟩

theorem canon_onTile {s : State} (h : MemsCanonical s) (p : Nat) (f : Tile → Tile) : MemsCanonical (onTile s p f) := by
  obtain ⟨h1, h2, h3, h4, h5, h6, h7, h8, h9, h10, h11, h12⟩ := h
  exact ⟨h1, h2, h3, h4, h5, h6, h7, h8, h9, h10, smSortedFrom_smSet _ 0 _ _ h11 (Nat.zero_le _), h12⟩

theorem canon_onChan {s : State} (h : MemsCanonical s) (p c : Nat) (f : Chan → Chan) : MemsCanonical (onChan s p c f) := by
  obtain ⟨h1, h2, h3, h4, h5, h6, h7, h8, h9, h10, h11, h12, h13⟩ := h
  exact ⟨h1, h2, h3, h4, h5, h6, h7, h8, h9, h10, h11, smSortedFrom_smSet _ 0 _ _ h12 (Nat.zero_le _), h13⟩

theorem canon_onRegion {s : State} (h : MemsCanonical s) (g : Nat) (f : Region → Region) : MemsCanonical (onRegion s g f) := by
  obtain ⟨h1, h2, h3, h4, h5, h6, h7, h8, h9, h10, h11, h12, h13, h14⟩ := h
  exact ⟨h1, h2, h3, h4, h5, h6, h7, h8, h9, h10, h11, h12, smSortedFrom_smSet _ 0 _ _ h13 (Nat.zero_le _), h14⟩

theorem canon_onLink {s : State} (h : MemsCanonical s) (l : Nat) (f : Link → Link) : MemsCanonical (onLink s l f) := by
  obtain ⟨h1, h2, h3, h4, h5, h6, h7, h8, h9, h10, h11, h12, h13, h14, h15⟩ := h
  exact ⟨h1, h2, h3, h4, h5, h6, h7, h8, h9, h10, h11, h12, h13, smSortedFrom_smSet _ 0 _ _ h14 (Nat.zero_le _), h15⟩

theorem canon_onCtx {s : State} (h : MemsCanonical s) (x : Nat) (f : Ctx → Ctx) : MemsCanonical (onCtx s x f) := by
  obtain ⟨h1, h2, h3, h4, h5, h6, h7, h8, h9, h10, h11, h12, h13, h14, h15, h16⟩ := h
  exact ⟨h1, h2, h3, h4, h5, h6, h7, h8, h9, h10, h11, h12, h13, h14, smSortedFrom_smSet _ 0 _ _ h15 (Nat.zero_le _), h16⟩

/-- A change of Kelpie that leaves its contexts and pauses sorted. -/
theorem canon_onKelpie {s : State} (h : MemsCanonical s) (f : Kelpie → Kelpie) (hc : smSorted (f s.kelpie).ctx = true)
    (hp : smSorted (f s.kelpie).pause = true) : MemsCanonical (onKelpie s f) := by
  obtain ⟨h1, h2, h3, h4, h5, h6, h7, h8, h9, h10, h11, h12, h13, h14, h15, h16, h17⟩ := h
  exact ⟨h1, h2, h3, h4, h5, h6, h7, h8, h9, h10, h11, h12, h13, h14, hc, hp, h17⟩

/-- A change of the host interface alone. -/
theorem canon_host {s : State} (h : MemsCanonical s) (x : HostIf) : MemsCanonical { s with host := x } := h

/-- A change of the host interface and of ring SRAM. -/
theorem canon_bar4 {s : State} (h : MemsCanonical s) (x : HostIf) (b : Memory) (hb : b.wf = true) :
    MemsCanonical { s with host := x, bar4 := b } := by
  obtain ⟨h1, h2, h3, h4, h5, h6, h7, h8, _, h10⟩ := h
  exact ⟨h1, h2, h3, h4, h5, h6, h7, h8, hb, h10⟩

theorem canon_ite {s t : State} (c : Prop) [Decidable c] (h : MemsCanonical s) (k : MemsCanonical t) :
    MemsCanonical (if c then s else t) := by split <;> assumption

theorem canon_forS {α : Type} {s : State} (h : MemsCanonical s) (l : List α) (f : α → State → State)
    (k : ∀ x u, MemsCanonical u → MemsCanonical (f x u)) : MemsCanonical (forS l f s) := by
  induction l generalizing s with
  | nil => exact h
  | cons x l ih => exact ih (k x s h)

/-! ### Interrupts, events and counters -/

theorem canon_sendIrq {s : State} (h : MemsCanonical s) (v : Nat) : MemsCanonical (sendIrq s v) := by
  unfold sendIrq
  split
  · split
    · exact canon_rset h _ _ _ _
    · exact canon_host h _
  · exact canon_host h _

theorem canon_notePosted {s : State} (h : MemsCanonical s) (q : Nat) (b : Bool) : MemsCanonical (notePosted s q b) := by
  unfold notePosted
  extract_lets n oldest src u c
  have hu : MemsCanonical u := canon_host h _
  split
  · exact canon_host (canon_sendIrq hu _) _
  · exact hu

theorem canon_dropEvent {s : State} (h : MemsCanonical s) : MemsCanonical (dropEvent s) := by
  unfold dropEvent
  extract_lets src r src2 src3
  have hr : MemsCanonical r.1 := canon_rset (canon_host h _) HOST_EVT_DROP_COUNT _ 0 0
  split
  · exact canon_host hr _
  · exact hr

theorem canon_writeEvent {s : State} (h : MemsCanonical s) (e : Event) : MemsCanonical (writeEvent s e) := by
  unfold writeEvent
  extract_lets size tail head ph a src u v w
  have hu : MemsCanonical u := canon_bar4 h _ _ (memWrite_wf _ _ _ h.2.2.2.2.2.2.2.2.1)
  have hv : MemsCanonical v := canon_fset hu _ _ _ _
  split
  · exact canon_dropEvent h
  · exact canon_notePosted (canon_ite _ (canon_fset hv _ _ _ _) hv) _ _

theorem canon_postEvent {s : State} (h : MemsCanonical s) (c p : Nat) : MemsCanonical (postEvent s c p) := by
  unfold postEvent
  extract_lets e src u src2
  have hu : MemsCanonical u := canon_host h _
  split
  · split
    · exact canon_writeEvent hu e
    · exact canon_host hu _
  · split
    · exact canon_host hu _
    · exact canon_dropEvent hu

theorem canon_bumpN {s : State} (h : MemsCanonical s) (r : Reg) (n i j : Nat) : MemsCanonical (bumpN s r n i j) := by
  unfold bumpN
  extract_lets x
  have hx : MemsCanonical x.1 := canon_rset h r _ i j
  split
  · exact canon_postEvent hx _ _
  · exact hx

/-! ### Spinel -/

theorem canon_sp {s : State} (h : MemsCanonical s) (d c t : Memory) (hd : d.wf = true) (hc : c.wf = true) (ht : t.wf = true) :
    MemsCanonical { s with spData := d, spChk := c, spTag := t } := by
  obtain ⟨h1, h2, h3, h4, h5, -, -, -, h9⟩ := h
  exact ⟨h1, h2, h3, h4, h5, hd, hc, ht, h9⟩

theorem canon_spWrite {s : State} (h : MemsCanonical s) (p w : Nat) (data : List Byte) (tag : Nat) :
    MemsCanonical (spWrite s p w data tag) := by
  unfold spWrite
  extract_lets inj stored u
  have hu : MemsCanonical u := canon_sp h _ _ _ (memWrite_wf _ _ _ h.2.2.2.2.2.1) (memWrite_wf _ _ _ h.2.2.2.2.2.2.1)
    (memSet_wf _ _ _ h.2.2.2.2.2.2.2.1)
  exact canon_ite _ (canon_fset hu _ _ _ _) hu

theorem canon_spWriteRun {s : State} (h : MemsCanonical s) (p : Nat) (ws : List Nat) (bs : List Byte) :
    MemsCanonical (spWriteRun s p ws bs) := by
  induction ws generalizing s bs with
  | nil => exact h
  | cons w ws ih => exact ih (canon_spWrite h p w _ 0) (bs.drop 32)

theorem canon_spRead {s : State} (h : MemsCanonical s) (p w : Nat) : MemsCanonical (spRead s p w).1 := by
  unfold spRead
  extract_lets tag qs data ce ue u q v x y
  have hu : MemsCanonical u := canon_ite _ h (canon_bumpN h _ _ _ _)
  have hv : MemsCanonical v := canon_bumpN hu _ _ _ _
  have hx : MemsCanonical x := canon_sp hv v.spData v.spChk _ hv.2.2.2.2.2.1 hv.2.2.2.2.2.2.1 (memSet_wf _ _ _ hv.2.2.2.2.2.2.2.1)
  split
  · exact hu
  · exact canon_ite _ (canon_fset hx _ _ _ _)
      (canon_fset (canon_fset (canon_fset (canon_fset hx _ _ _ _) _ _ _ _) _ _ _ _) _ _ _ _)

/-! ### Vaults -/

theorem canon_vault {s : State} (h : MemsCanonical s) (d c g t u : Memory) (hd : d.wf = true) (hc : c.wf = true) (hg : g.wf = true)
    (ht : t.wf = true) (hu : u.wf = true) :
    MemsCanonical { s with vaultData := d, vaultChk := c, vaultPage := g, vaultTag := t, unsealed := u } := by
  obtain ⟨-, -, -, -, -, h6⟩ := h
  exact ⟨hd, hc, hg, ht, hu, h6⟩

theorem canon_setUnsealed {s : State} (h : MemsCanonical s) (p c r : Nat) (b : Bool) : MemsCanonical (setUnsealed s p c r b) :=
  canon_vault h s.vaultData s.vaultChk s.vaultPage s.vaultTag _ h.1 h.2.1 h.2.2.1 h.2.2.2.1 (memSet_wf _ _ _ h.2.2.2.2.1)

theorem canon_encodePage {s : State} (h : MemsCanonical s) (p c r : Nat) : MemsCanonical (encodePage s p c r) :=
  canon_vault h s.vaultData s.vaultChk _ s.vaultTag s.unsealed h.1 h.2.1 (memWrite_wf _ _ _ h.2.2.1) h.2.2.2.1 h.2.2.2.2.1

theorem canon_flipByte {s : State} (h : MemsCanonical s) (p c r o m : Nat) : MemsCanonical (flipByte s p c r o m) :=
  canon_vault h _ s.vaultChk s.vaultPage s.vaultTag s.unsealed (memSet_wf _ _ _ h.1) h.2.1 h.2.2.1 h.2.2.2.1 h.2.2.2.2.1

theorem canon_injectRow {s : State} (h : MemsCanonical s) (p c r first : Nat) : MemsCanonical (injectRow s p c r first) := by
  unfold injectRow
  extract_lets k u
  refine canon_fset ?_ _ _ _ _
  exact canon_ite _ (canon_flipByte h _ _ _ _ _) (canon_ite _ (canon_flipByte h _ _ _ _ _)
    (canon_ite _ (canon_forS h _ _ fun _ _ hv => canon_flipByte hv _ _ _ _ _) h))

theorem canon_storeSector {s : State} (h : MemsCanonical s) (p c r : Nat) (x : Sector) : MemsCanonical (storeSector s p c r x) :=
  canon_vault h _ _ s.vaultPage _ s.unsealed (memWrite_wf _ _ _ h.1) (memWrite_wf _ _ _ h.2.1) h.2.2.1 (memSet_wf _ _ _ h.2.2.2.1)
    h.2.2.2.2.1

theorem canon_rowWritten {s : State} (h : MemsCanonical s) (p c r : Nat) (secs : List Sector) :
    MemsCanonical (rowWritten s p c r secs) :=
  canon_ite _ (canon_injectRow (canon_encodePage h _ _ _) _ _ _ _) (canon_encodePage h _ _ _)

theorem canon_mergeSector {s : State} (h : MemsCanonical s) (p c r : Nat) (x : Sector) : MemsCanonical (mergeSector s p c r x) :=
  canon_vault h _ _ s.vaultPage _ s.unsealed (memWrite_wf _ _ _ h.1) (memWrite_wf _ _ _ h.2.1) h.2.2.1 (memSet_wf _ _ _ h.2.2.2.1)
    h.2.2.2.2.1

/-- A merge burst keeps every memory in canonical form. -/
theorem canon_mergeWin {s : State} (h : MemsCanonical s) (p c w : Nat) (secs : List Sector) :
    MemsCanonical (mergeWin s p c w secs) :=
  canon_ite _ h (canon_rowWritten (canon_forS h _ _ fun _ _ hx => canon_mergeSector hx _ _ _ _) _ _ _ _)

/-- A write burst keeps every memory in canonical form. -/
theorem canon_writeRow {s : State} (h : MemsCanonical s) (p c r : Nat) (secs : List Sector) :
    MemsCanonical (writeRow s p c r secs) := by
  have hu := canon_forS h secs (fun x st => storeSector st p c r x) fun _ _ hx => canon_storeSector hx _ _ _ _
  exact canon_ite _ h (canon_rowWritten (canon_ite _ (canon_setUnsealed hu _ _ _ _) hu) _ _ _ _)

theorem canon_writeWin {s : State} (h : MemsCanonical s) (p c w : Nat) (secs : List Sector) :
    MemsCanonical (writeWin s p c w secs) := canon_writeRow h _ _ _ _

theorem canon_storeRaw {s : State} (h : MemsCanonical s) (p c r : Nat) (words tags : List Nat) :
    MemsCanonical (storeRaw s p c r words tags) :=
  canon_setUnsealed (canon_vault h _ s.vaultChk s.vaultPage _ s.unsealed (memWrite_wf _ _ _ h.1) h.2.1 h.2.2.1
    (memWrite_wf _ _ _ h.2.2.2.1) h.2.2.2.2.1) _ _ _ _

/-- A vault that loses its contents keeps the canonical form. -/
theorem canon_loseVault {s : State} (h : MemsCanonical s) (p : Nat) : MemsCanonical (loseVault s p) :=
  canon_vault h _ _ _ _ _ (memLose_wf _ _ _ h.1) (memLose_wf _ _ _ h.2.1) (memLose_wf _ _ _ h.2.2.1) (memLose_wf _ _ _ h.2.2.2.1)
    (memLose_wf _ _ _ h.2.2.2.2.1)

/-- Registers that return to their reset values keep the table sorted. -/
theorem canon_regsDel {s : State} (h : MemsCanonical s) (k n : Nat) : MemsCanonical { s with regs := smDelRange s.regs k n } := by
  obtain ⟨h1, h2, h3, h4, h5, h6, h7, h8, h9, h10, h11⟩ := h
  exact ⟨h1, h2, h3, h4, h5, h6, h7, h8, h9, smSortedFrom_filter _ 0 _ h10, h11⟩

theorem canon_resetTileRegs {s : State} (h : MemsCanonical s) (p : Nat) : MemsCanonical (resetTileRegs s p) :=
  canon_forS (canon_regsDel h _ _) _ _ fun _ _ hu => canon_rset hu _ _ _ _

/-! ### Tiles -/

theorem canon_tileClosed : TileClosed MemsCanonical :=
  ⟨fun _ r v i j h => canon_rset h r v i j, fun _ p f h => canon_onTile h p f, fun _ r n i j h => canon_bumpN h r n i j⟩

/-- A tile fault, with the stop sequence of its tile, keeps every memory in canonical form. -/
theorem canon_raiseFault {s : State} (h : MemsCanonical s) (p code unit : Nat) (x : FaultCmd) (info : Nat) :
    MemsCanonical (raiseFault s p code unit x info) := closed_raiseFault canon_tileClosed h _ _ _ _ _

theorem canon_finishCmd {s : State} (h : MemsCanonical s) (p : Nat) (u : TUnit) (n : Nat) (ok : Bool) :
    MemsCanonical (finishCmd s p u n ok) := closed_finishCmd canon_tileClosed h _ _ _ _

theorem canon_failCmd {s : State} (h : MemsCanonical s) (p : Nat) (u : TUnit) (c : Cmd) (code info : Nat) :
    MemsCanonical (failCmd s p u c code info) := closed_failCmd canon_tileClosed h _ _ _ _ _

theorem canon_failRead {s : State} (h : MemsCanonical s) (p : Nat) (u : TUnit) (c : Cmd) (code w : Nat) (r : SpRead) :
    MemsCanonical (failRead s p u c code w r) := closed_failRead canon_tileClosed h _ _ _ _ _ _

/-! ### Reads of clean rows -/

/-- A row in which every word is clean gives no correction and no bad sector, and is delivered as stored. -/
theorem lightRow_clean (v : RowView) (h : ∀ y ∈ lightRow v, y.2 = .clean) :
    corrected (lightRow v) = 0 ∧ badSectors (lightRow v) = [] ∧ (lightRow v).map quarterOut = (v.words.zip v.chk).map Prod.fst := by
  refine ⟨?_, ?_, ?_⟩
  · unfold corrected
    rw [List.length_eq_zero_iff, List.filter_eq_nil_iff]
    intro y hy
    simp [quarterCe, h y hy]
  · unfold badSectors
    rw [List.filter_eq_nil_iff]
    intro i _
    simp only [List.any_eq_true, not_exists, not_and, Bool.not_eq_true]
    intro y hy
    have : y ∈ lightRow v := List.mem_of_mem_drop (List.mem_of_mem_take hy)
    simp [wordBad, h y this]
  · rw [List.map_congr_left (g := fun y => y.1) fun y hy => by simp [quarterOut, h y hy]]
    simp only [lightRow, List.map_map]
    rw [show ((fun y : Nat × LightOut => y.1) ∘ fun x : (Nat × Nat) × Nat =>
        (x.1.1, if v.tags.getD (x.2 / 4) 0 = 0 then lightDecode x.1.1 x.1.2 else .clean)) = Prod.fst ∘ Prod.fst from rfl,
      ← List.map_map, List.zipIdx_map_fst]

/-- Whole pieces of a list. -/
theorem chunks_length {α : Type} (n k : Nat) (l : List α) (hn : 0 < n) (h : l.length = n * k) : (chunks n k l).length = k := by
  induction k generalizing l with
  | zero => rfl
  | succ k ih =>
    have hl : l.isEmpty = false := by
      cases l with
      | nil => rw [List.length_nil, Nat.mul_succ] at h; omega
      | cons _ _ => rfl
    rw [chunks, hl, if_neg Bool.false_ne_true, List.length_cons, ih]
    rw [List.length_drop, h, Nat.mul_succ]; omega

theorem viewRow_words (s : State) (p c w : Nat) : (viewRow s p c w).words.length = 256 := by
  show ((chunks 8 256 (rowBytes s p c (rowOf s p c w))).map leNat).length = 256
  rw [List.length_map, chunks_length 8 256 _ (by omega) (by rw [rowBytes, memRead_length])]

theorem viewRow_chk (s : State) (p c w : Nat) : (viewRow s p c w).chk.length = 256 := by
  simp only [viewRow, List.length_map, memRead_length]

theorem viewRow_tags (s : State) (p c w : Nat) : (viewRow s p c w).tags.length = 64 := by
  simp only [viewRow, List.length_map, memRead_length]

/-- A read of a clean row delivers the sectors as stored, changes nothing and needs no recovery. -/
theorem readWin_clean (s : State) (p c w mask : Nat) (h : CleanRow s p c w) :
    readWin s p c w mask = (s, pickSectors (viewRow s p c w).words (viewRow s p c w).tags mask) := by
  obtain ⟨hu, ht, hl⟩ := h
  obtain ⟨h1, h2, h3⟩ := lightRow_clean (viewRow s p c w) hl
  have hw : (lightRow (viewRow s p c w)).map quarterOut = (viewRow s p c w).words := by
    rw [h3, List.map_fst_zip (Nat.le_of_eq (by rw [viewRow_words, viewRow_chk]))]
  have hz : ∀ k, (pickSectors (viewRow s p c w).words (viewRow s p c w).tags mask).filter (fun x => x.tag = k + 1) = [] := by
    intro k
    rw [List.filter_eq_nil_iff]
    intro x hx
    simp only [pickSectors, List.mem_map] at hx
    obtain ⟨i, -, rfl⟩ := hx
    have : (viewRow s p c w).tags.getD i 0 = 0 := by
      rw [List.getD_eq_getElem?_getD]
      cases hg : (viewRow s p c w).tags[i]? with
      | none => rfl
      | some y => exact ht y (List.mem_of_getElem? hg)
    show ¬ decide ((viewRow s p c w).tags.getD i 0 = k + 1) = true
    rw [this]; simp
  have hr : lightRead s p c w mask = (s, ⟨pickSectors (viewRow s p c w).words (viewRow s p c w).tags mask, false, true⟩) := by
    unfold lightRead
    simp only [hu, Bool.false_eq_true, if_false, h1, h2, hw, if_true, List.isEmpty_nil]
    simp only [noteDelivery, secsWith, hz 1, hz 2, List.map_nil, List.length_nil, if_true, noteX]
  unfold readWin
  rw [hr]
  rfl

/-- What a remote burst slot counts leaves everything but registers, tiles and the host's side alone. -/
theorem countShare_rest (s : State) (p : Nat) : ∃ r ts x b, countShare s p 2 = { s with regs := r, tiles := ts, host := x, bar4 := b } := by
  obtain ⟨r, ts, x, b, e⟩ := (tileWork_closed s).2.2 _ TILE_VAULT_RM_BURST_COUNT 1 p 0
    ((tileWork_closed s).2.1 s p (fun t => { t with actBursts := t.actBursts + 1 }) (tileWork_refl s))
  exact ⟨r, ts, x, b, e⟩

/-- What a class's charge leaves of its channel: everything but the credit. -/
theorem chanOf_spendClass (s : State) (p c x k : Nat) :
    (chanOf (spendClass s p c x k) p c).armFail = (chanOf s p c).armFail
      ∧ (chanOf (spendClass s p c x k) p c).remapQ = (chanOf s p c).remapQ
      ∧ (chanOf (spendClass s p c x k) p c).remap = (chanOf s p c).remap := by
  simp only [spendClass, chanOf_onChan_same]
  split <;> exact ⟨rfl, rfl, rfl⟩

/-- A plain remote read delivers the sectors as stored, under the writes it follows. -/
theorem serveWin_plain (s : State) (p c cls w mask : Nat) (ws : List Burst) (h : PlainRead s p c w) :
    (serveWin s p c cls w mask ws).2 = (pickSectors (viewRow s p c w).words (viewRow s p c w).tags mask).map (overlay ws) := by
  obtain ⟨hr, ha, hm⟩ := h
  obtain ⟨k1, k2, k3⟩ := chanOf_spendClass s p c 2 cls
  obtain ⟨r, ts, x, b, e⟩ := countShare_rest (spendClass s p c 2 cls) p
  have hv : viewRow (countShare (spendClass s p c 2 cls) p 2) p c w = viewRow s p c w := by
    rw [e]
    show viewRow (spendClass s p c 2 cls) p c w = _
    simp only [viewRow, rowOf, k3]
    rfl
  have hw : wholeAttempts (spendClass s p c 2 cls) p c w false
      = (countShare (spendClass s p c 2 cls) p 2, true) := by
    unfold wholeAttempts
    rw [if_pos]
    rw [e]
    exact k1.trans ha
  have hq : moveOf (countShare (spendClass s p c 2 cls) p 2) p c w = none := by
    rw [e]
    show ((chanOf (spendClass s p c 2 cls) p c).remapQ.find? fun j => j.win = w) = none
    rw [k2]; exact hm
  have hc : CleanRow (countShare (spendClass s p c 2 cls) p 2) p c w := by
    unfold CleanRow at hr ⊢; rw [hv]; exact hr
  unfold serveWin
  simp only [hw, hq, Bool.not_true, Bool.false_eq_true, if_false]
  rw [readWin_clean _ p c w mask hc, hv]

/-- A plain remote read that no write waits for delivers the sectors as stored. -/
theorem hubReadWin_clean (s : State) (p c cls w mask : Nat) (h : PlainRead s p c w) (hw : pendingWrites s p c w = [])
    (hl : winLocked s p c w = false) :
    (hubReadWin s p c cls w mask).2 = pickSectors (viewRow s p c w).words (viewRow s p c w).tags mask := by
  unfold hubReadWin
  simp only [hl, Bool.false_eq_true, if_false, hw]
  rw [serveWin_plain s p c cls w mask [] h]
  exact List.map_id _


/-- A row that nothing has written is clean. -/
theorem cleanRow_empty (s : State) (p c w : Nat) (h1 : s.vaultData = []) (h2 : s.vaultChk = []) (h3 : s.vaultTag = [])
    (h4 : s.unsealed = []) : CleanRow s p c w := by
  have hz : ∀ a n, memRead [] a n = List.replicate n (0 : Byte) := by
    intro a n
    induction n generalizing a with
    | zero => rfl
    | succ n ih => rw [memRead, ih, List.replicate_succ]; rfl
  have hw : ∀ x ∈ (viewRow s p c w).words, x = 0 := by
    have key : ∀ k n : Nat, ∀ x ∈ (chunks 8 k (List.replicate n (0 : Byte))).map leNat, x = 0 := by
      have hle : ∀ n, leNat (List.replicate n (0 : Byte)) = 0 := by
        intro n
        induction n with
        | zero => rfl
        | succ n ih => rw [List.replicate_succ, leNat, ih]; rfl
      intro k
      induction k with
      | zero => intro n x hx; simp [chunks] at hx
      | succ k ih =>
        intro n x hx
        rw [chunks] at hx
        split at hx
        · simp at hx
        · rw [List.take_replicate, List.drop_replicate, List.map_cons, List.mem_cons] at hx
          exact hx.elim (fun e => e.trans (hle _)) (ih _ x)
    simp only [viewRow, wordsOf, rowBytes, h1, hz]
    exact key _ _
  have hk : ∀ x ∈ (viewRow s p c w).chk, x = 0 := by
    simp only [viewRow, h2, hz, List.map_replicate, List.mem_replicate]
    rintro x ⟨-, rfl⟩; rfl
  refine ⟨?_, ?_, ?_⟩
  · simp only [viewRow, rowUnsealed, h4]
    show (majority 1 0 != 0) = false
    decide
  · simp only [viewRow, h3, hz, List.map_replicate, List.mem_replicate]
    rintro x ⟨-, rfl⟩
    show majority 2 0 = 0
    decide
  · intro y hy
    simp only [lightRow, List.mem_map] at hy
    obtain ⟨a, ha, rfl⟩ := hy
    have := List.of_mem_zip (List.fst_mem_of_mem_zipIdx ha)
    dsimp only
    rw [hw _ this.1, hk _ this.2]
    split
    · decide
    · rfl

end Sys2Proof.Machine
end

