-- ==== Sys2Proof/Tests/Slice0.lean ====
section
/-! SUPPORT. Tests of the model's own: ill-formed commands that the check refuses, values computed by hand from the spec, and for
each statement with hypotheses a concrete state that meets them, by clause. What the opaque constants of Config decide (a
temperature that is predicted, a reference clock that is good) no concrete state can show. -/

open Sys2Proof Sys2Proof.Machine

namespace Sys2Proof.Tests

-- One test at a time: side by side their stacks exceed the memory limit.
set_option Elab.async false

/-- Domains `l` are ON. -/
def powered (l : List Nat) (s : State) : State := forS l (fun n st => fset st HUSKY_PD_STATE__STATE 1 n) s

/-- The state after reset with every firmware compartment up and tile 0 with all above it powered. -/
def up : State :=
  powered [0, 288, 304, 314, 316] { State.reset with mastiff := { State.reset.mastiff with crashed := [] } }

/-- Tile 0 in state `n`. -/
def inState (n : Nat) (s : State) : State := fset s TILE_COLLIE_STATUS__STATE n 0

/-- Stream `k` of tile `p` enabled with a ring of 64, the descriptor `d` fetched at its head. -/
def ringAt (p k d : Nat) (s : State) : State :=
  onStream (fset (fset (fset s TILE_STREAM_CFG__ENABLE 1 p k) TILE_STREAM_CFG__LOG2SIZE 6 p k) TILE_STREAM_TAIL__TAIL 4 p k) p k
    fun x => { x with buf := [⟨0, d, .clean⟩] }

/-- The same at tile 0. -/
def ring (k d : Nat) (s : State) : State := ringAt 0 k d s

/-- Slot `k` of tile 0 in use: words 32 k to 32 k + 31, from stream `a` to stream `b`. -/
def slot (k a b : Nat) (s : State) : State :=
  forS [(TILE_SLOT_CFG__BASE, 32 * k), (TILE_SLOT_CFG__SIZE, 32), (TILE_SLOT_CFG__PRODUCER, a), (TILE_SLOT_CFG__CONSUMER, b),
    (TILE_SLOT_CFG__VALID, 1)] (fun x st => fset st x.1 x.2 0 k) s

/-- A command with descriptor `d` and number 0. -/
def cmd (d : Nat) (ph : Phase) : Cmd := ⟨0, 0, 0, d, none, none, ph, true, false, false, [], [], false, false, []⟩

/-- `c` heads queue `u` of tile 0, which may use every ACLK. -/
def holds (u : TUnit) (c : Cmd) (s : State) : State :=
  onTile (fset s HUSKY_TILE__DUTY 64 0) 0 fun t => setQueue t u [c]

/-! ### Well-formedness -/

theorem test_wf_thermal_sample : (Instr.thermalSample []).wf = false := by decide
theorem test_wf_rail_telemetry : (Instr.railTelemetry []).wf = false := by decide
theorem test_wf_power_check_rails : (Instr.powerCheck [] [] none).wf = false := by decide
theorem test_wf_power_check_sensors : (Instr.powerCheck (List.replicate 8 (0, 0, 0)) [1000] none).wf = false := by decide
theorem test_wf_power_check : (Instr.powerCheck (List.replicate 8 (0, 0, 0)) [999] none).wf = true := by decide
theorem test_wf_sq_tail (l : List (BitVec 512)) (h : 65536 ≤ l.length) : (Instr.sqTail 0 0 l).wf = false :=
  decide_eq_false (by omega)
theorem test_wf_verify (l : List Byte) (h : 2 ^ 25 ≤ l.length) : (Instr.mbxVerify l).wf = false := decide_eq_false (by omega)
theorem test_wf_bar2_read : (Instr.bar2Read 4095 2).wf = false ∧ (Instr.bar2Read 4095 1).wf = true := by decide
theorem test_wf_bar2_write_page : (Instr.bar2Write 4095 [0, 0] false).wf = false := by decide
theorem test_wf_bar2_write_long : (Instr.bar2Write 0 (List.replicate 513 0) false).wf = false := by decide +kernel
theorem test_wf_offsets : (Instr.counterClear 0x4000000).wf = false ∧ (Instr.counterLowRead 0 0x4000000).wf = false
    ∧ (Instr.registerWrite 0x4000000 false 0).wf = false ∧ (Instr.counterClear 0x3FFFFFF).wf = true := by decide

/-! ### The queue and the tick -/

theorem test_EmptyQueueCountsDeviceTime : State.reset.pending = [] ∧ up.boot.powered = true ∧ up.boot.resetLow = none
    ∧ up.host.bar2 = [] ∧ { up.boot with resetLow := some 0 }.resetLow.isSome = true := by decide +kernel

/-! ### Tiles -/

theorem test_TileRegisterWritesTakeEffect : tileOpen up 0 = true ∧ tileState up 0 ≠ 1 ∧ tileState up 0 ≠ 2
    ∧ tileState (inState 1 up) 0 = 1 ∧ tileOpen State.reset 0 = false := by decide +kernel

/-- A tile that may start, and one whose configuration is invalid: no stream is enabled. -/
theorem test_TileRunStartsOnlyValidConfiguration :
    (let s := ring 0 0 up
     tileOpen s 0 = true ∧ fbit s TILE_COLLIE_CTRL__ARM 0 = false ∧ tileState s 0 = 0 ∧ fbit s TILE_FAULT__VALID 0 = false
      ∧ configOk s 0 = true)
    ∧ configOk up 0 = false ∧ fbit (fset up TILE_FAULT__VALID 1 0) TILE_FAULT__VALID 0 = true
    ∧ fbit (fset up TILE_COLLIE_CTRL__ARM 1 0) TILE_COLLIE_CTRL__ARM 0 = true := by decide +kernel

theorem test_TileStopsInOrder : tileState (inState 1 up) 0 = 1 ∧ tileOpen (inState 1 up) 0 = true
    ∧ tileState (inState 2 up) 0 = 2 ∧ tileQuiet (tileOf (inState 2 up) 0) = true ∧ justStopped (inState 2 up) 0 = false
    ∧ justStopped (onTile (fset (inState 2 up) TILE_FAULT__VALID 1 0) 0 fun t => { t with stopAclk := some 0 }) 0 = true := by
  decide +kernel

/-- NOP, TOKEN_WAIT, TOKEN_SET, LOOP and STOP each granted. -/
theorem test_CollieCommandsCompleteAtDispatch :
    let nop := inState 1 (ring 0 0x00 up)
    let wait := setSlot (slot 1 0 0 (inState 1 (ring 0 (0x01 + 2 ^ 10 + 2 ^ 11 + 1 * 2 ^ 16) up))) 0 1 2
    let set := slot 1 0 0 (inState 1 (ring 0 (0x02 + 2 ^ 12 + 1 * 2 ^ 24) up))
    let loop := inState 1 (ring 0 (0x03 + 1 * 2 ^ 64 + 5 * 2 ^ 84) up)
    let stop := inState 1 (ring 0 0x04 up)
    let last := fset loop TILE_STREAM_HEAD__LOOP_ACTIVE 1 0 0
    (∀ s ∈ [nop, wait, set, loop, stop, last], tileUp s 0 = true ∧ tileState s 0 = 1 ∧ granted s 0 = some 0
      ∧ (headOf s 0 0).isSome = true)
    ∧ (headOf wait 0 0).map (fun x => (dOp x.desc, dInRel x.desc)) = some (0x01, true)
    ∧ (headOf loop 0 0).map (fun x => bitsOf x.desc 84 16) = some 5
    ∧ fbit last TILE_STREAM_HEAD__LOOP_ACTIVE 0 0 = true ∧ (streamOf (tileOf last 0) 0).loopPc = 0
    ∧ fget last TILE_STREAM_HEAD__LOOP_CNT 0 0 = 0 := by decide +kernel

/-- A swap and a Jasper program granted; a finished command with an IN and an OUT slot; a stream that fetches. -/
theorem test_UnitCommandsQueueAndComplete :
    (let s := inState 1 (ring 0 0x11 up)
     tileUp s 0 = true ∧ tileState s 0 = 1 ∧ granted s 0 = some 0 ∧ (headOf s 0 0).map (fun x => x.desc) = some 0x11
      ∧ unitOf 0x11 = some .exec ∧ rawSlot s 0 0x11 = none
      ∧ ((List.range 16).all fun j => match viewOf s 0 j with | .bad _ _ _ => false | _ => true) = true)
    ∧ (let s := powered [144, 296, 306, 317] (fset (ringAt 144 0 0x40 up) TILE_COLLIE_STATUS__STATE 1 144)
       tileUp s 144 = true ∧ tileState s 144 = 1 ∧ granted s 144 = some 0 ∧ (headOf s 144 0).map (fun x => x.desc) = some 0x40
        ∧ unitOf 0x40 = some .jasper ∧ rawSlot s 144 0x40 = none ∧ jasperAbsent s 144 = false
        ∧ ((List.range 16).all fun j => match viewOf s 144 j with | .bad _ _ _ => false | _ => true) = true)
    ∧ (let c := cmd (0x20 + 2 ^ 10 + 2 ^ 12 + 1 * 2 ^ 16 + 2 * 2 ^ 24) .done
       let s := setSlot (setSlot (holds .beryl c up) 0 2 1) 0 1 3
       queueOf (tileOf s 0) .beryl = [c] ∧ dOutEn c.desc = true ∧ slotState s 0 (dOut c.desc) = 1 ∧ dIn c.desc ≠ dOut c.desc
        ∧ dInEn c.desc = true ∧ slotState s 0 (dIn c.desc) = 3)
    ∧ (let s := inState 1 (ring 0 0 up); tileState s 0 = 1 ∧ streamLive s 0 0 = true ∧ (streamOf (tileOf s 0) 0).fetch = none
        ∧ fetchWanted s 0 0 = [1, 2, 3] ∧ (fetchTarget s 0 0 0).2 = none
        ∧ (fetchTarget (bankSet s false 0 1) 0 0 0).2 = some (0, 0))
    ∧ (let s := onStream (inState 1 (ring 0 0 up)) 0 0 fun x => { x with fetch := some ⟨0, 0, [1, 2, 3], some []⟩ }
       (streamOf (tileOf s 0) 0).fetch = some ⟨0, 0, [1, 2, 3], some []⟩) := by decide +kernel

/-- A stream blocked beyond TOKEN_LIMIT, and two streams that wait for each other beyond DL_LIMIT. -/
theorem test_WatchdogAndDeadlockStopTile :
    (let s := onTile (onStream (fset (slot 1 1 0 (inState 1 (ring 0 (0x01 + 2 ^ 10 + 1 * 2 ^ 16) up))) TILE_COLLIE_WD__TOKEN_LIMIT 1 0) 0 0
        fun x => { x with wd := 1750, wdIdx := some 0 }) 0 fun t => { t with aclk := 1 }
     let d := onTile s 0 fun t => { t with wdDue := [⟨0, 0, 0, 1⟩] }
     tileUp s 0 = true ∧ tileState s 0 = 1 ∧ fbit s TILE_FAULT__VALID 0 = false ∧ deadlockDue s 0 = false
      ∧ viewOf s 0 0 = .blocked ⟨0, 0x01 + 2 ^ 10 + 1 * 2 ^ 16, .clean⟩ 1 false ∧ tokenLimit s 0 ≠ 0
      ∧ (streamOf (tileOf s 0) 0).wdIdx = some 0 ∧ tokenLimit s 0 ≤ (streamOf (tileOf s 0) 0).wd
      ∧ (tileOf s 0).wdDue.find? (fun x => x.stream = 0) = none ∧ tileUp d 0 = true ∧ tileState d 0 = 1
      ∧ fbit d TILE_FAULT__VALID 0 = false ∧ deadlockDue d 0 = false
      ∧ (tileOf d 0).wdDue.find? (fun x => x.stream = 0) = some ⟨0, 0, 0, 1⟩)
    ∧ (let s := onTile (fset (slot 2 0 1 (slot 1 1 0 (inState 1 (ring 1 (0x01 + 2 ^ 10 + 2 * 2 ^ 16)
          (ring 0 (0x01 + 2 ^ 10 + 1 * 2 ^ 16) up))))) TILE_COLLIE_WD__DL_LIMIT 1 0) 0 fun t => { t with dl := [⟨3, 0⟩], issue := 1750 }
       tileUp s 0 = true ∧ tileState s 0 = 1 ∧ deadlockDue s 0 = true ∧ cyclesOf s 0 = [3] ∧ (tileOf s 0).dl = [⟨3, 0⟩]
        ∧ dlLimit s 0 ≠ 0 ∧ 0 + dlLimit s 0 ≤ (tileOf s 0).issue ∧ fbit s TILE_FAULT__VALID 0 = false)
    ∧ (deadlockDue (inState 1 up) 0 = true ∧ cyclesOf (inState 1 up) 0 = []) := by decide +kernel

/-! ### Arithmetic and codes -/

theorem test_PlaneSumsGiveExactProduct :
    (∀ x ∈ [((-127 : Int), 0x80), (127, 0xFF), (0, 0)], -127 ≤ x.1 ∧ x.1 ≤ 127 ∧ x.2 < 2 ^ 8)
    ∧ [7, 0, 3].Nodup ∧ (∀ j ∈ [7, 0, 3], j < 8)
    ∧ (∀ x ∈ [((5 : Int), 0x80), (1, 0)], x.2 / 2 ^ 3 % 2 = 0)
    ∧ blockSum 8 false [(-127, 0x80), (127, 0xFF), (0, 0)] = 127 * 128 - 127 := by decide +kernel

theorem test_AccumulationIsExactInAnyOrder :
    let l : List (Nat × Int × Int) := [(128, 2080768, 0), (1, -16256, 42)]
    (∀ x ∈ l, x.2.1.natAbs ≤ x.1 * 127 * 2 ^ (8 - 1) ∧ 0 ≤ x.2.2 ∧ x.2.2 ≤ 0 + 42)
    ∧ (l.map Prod.fst).sum ≤ 8388608 * 2 ^ (8 - 8) := by decide +kernel

theorem test_RecordLayoutRoundTrips :
    let r : La80 := ⟨-(2 ^ 79), 2 ^ 15 - 1, true, false, true, false⟩
    r.la < 2 ^ 79 ∧ -(2 ^ 79) ≤ r.la ∧ -(2 ^ 15) ≤ r.e ∧ r.e < 2 ^ 15 ∧ decodeLa (encodeLa r) = r := by decide +kernel

theorem test_RecordsCombineByTheRule :
    let a : La80 := ⟨3, -5, false, false, false, false⟩
    let b : La80 := ⟨2 ^ 79 - 1, 0, false, false, false, false⟩
    (combineLa a a).satL = false ∧ (combineLa a b).satL = true ∧ (combineLa (combineLa a a) a).satL = false := by decide +kernel

/-- A value that rounds, one that overflows, a zero record and a saturated one. -/
theorem test_ConversionRoundsToNearestEven :
    (roundMag .fp32 true 3 0 false).ovf = false ∧ (roundMag .fp32 false (2 ^ 25 - 1) 103 false).ovf = true
    ∧ (roundMag .fp32 false (2 ^ 25 - 2) 103 false).ovf = false
    ∧ (roundMag .fp32 false (2 ^ 24 + 1) 0 false).bits = 0x4B800000 := by decide +kernel

theorem test_LightCodeCorrectsSingleDetectsDouble :
    lightDecode 5 (lightCheck 5) = .clean ∧ lightDecode 4 (lightCheck 5) = .corrected 5 := by decide +kernel

theorem test_PageCodeRestoresIntactRows :
    (List.replicate 2048 0).length = 2048 ∧ (∀ x ∈ List.replicate 2048 0, x < 256)
    ∧ rsDecode (List.replicate 136 0) = some (List.replicate 136 0) := by decide +kernel

theorem test_VectorStepsRoundTheExactResult :
    (fAdd .fp32 (.fin false 1 0) (.fin false 1 0)).v = .fin false 8388608 (-22)
    ∧ (fMul .fp32 (.fin false 3 0) (.fin true 1 0)).v = .fin true 12582912 (-22)
    ∧ (fFma .fp32 (.fin false 3 0) (.fin true 1 0) (.fin false 1 0)).v = .fin true 8388608 (-22)
    ∧ (fDiv .fp32 (.fin false 1 0) (.fin true 3 0)).v = .fin true 11184811 (-25)
    ∧ (fSqrt .fp32 (.fin false 2 0)).v = .fin false 11863283 (-23)
    ∧ (fAdd .fp32 (.fin false (2 ^ 24 - 1) 104) (.fin false 1 127)).v = .inf false
    ∧ decodeF .fp32 0x3F800000 = .fin false 8388608 (-23) := by decide +kernel

theorem test_RowMaximumAndItsIndex :
    rowMaxR [.fin true 1 0, .inf false, .fin false 0 0] = .inf false ∧ argMaxR [.fin true 1 0, .inf false] = 1
    ∧ argMaxR [.fin false 1 0, .nan, .nan] = 1 := by decide +kernel

/-! ### Garnet and Beryl -/

/-- A swap of a bank that is not loaded, one that is, and a run on a bank that is not loaded. -/
theorem test_GarnetSwapExchangesBanks :
    let s := holds .exec (cmd 0x11 .queued) up
    let l := onTile s 0 fun t => { t with garnet := { t.garnet with set1 := { t.garnet.set1 with loaded := true } } }
    let d := 0x12 + 0x100 * 2 ^ 80 + 0x200 * 2 ^ 96 + 1 * 2 ^ 112 + 128 * 2 ^ 120 + 3 * 2 ^ 136
    let r := holds .exec (cmd d .queued) up
    0 < fget r HUSKY_TILE__DUTY 0
    ∧ (∀ x ∈ [s, l], tileUp x 0 = true ∧ (tileOf x 0).garnet.halted = false
      ∧ firstIn (tileOf x 0) .exec .queued = some (cmd 0x11 .queued) ∧ fbit x TILE_FAULT__VALID 0 = false
      ∧ swapMayBegin (tileOf x 0) (cmd 0x11 .queued) = true ∧ badCols (shadowOf (tileOf x 0).garnet) = [])
    ∧ (shadowOf (tileOf s 0).garnet).loaded = false ∧ (shadowOf (tileOf l 0).garnet).loaded = true
    ∧ firstIn (tileOf r 0) .exec .queued = some (cmd d .queued) ∧ dOp d = 0x12 ∧ runParamOk (runP d) = true
    ∧ (runP d).accEnd = true ∧ (activeOf (tileOf r 0).garnet).loaded = false
    ∧ badOperand ([((runP d).act, (runP d).tokens * 4), ((runP d).scl, ceilDiv ((runP d).tokens * 2) 32)]
      ++ (if (runP d).accEnd then [((runP d).dst, runOutWords (runP d))] else [])) = none := by decide +kernel

/-- One column of 8-bit codes, a row-major load of the whole bank, and a load that ends. -/
theorem test_GarnetLoadFillsShadowBank :
    let d := 0x10 + 0x100 * 2 ^ 80 + 8 * 2 ^ 96 + 127 * 2 ^ 104 + 1 * 2 ^ 112
    let r := 0x10 + 0x1000 * 2 ^ 80 + 8 * 2 ^ 96 + 2 ^ 102 + 128 * 2 ^ 112
    (∀ y ∈ [d, r],
      let c := cmd y .queued
      let s := holds .load c up
      let x := loadP y
      let e := spReadRun s 0 (walkWords x.expSrc 0 (loadExpWords x))
      tileUp s 0 = true ∧ firstIn (tileOf s 0) .load .queued = some c ∧ loadMayBegin (tileOf s 0) c = true
        ∧ loadParamOk x = true ∧ badOperand [(x.expSrc, loadExpWords x), (x.src, loadWords x)] = none
        ∧ fbit s TILE_GARNET_CTRL__INJ_ARM 0 = false ∧ e.2.stop = none
        ∧ (spReadRun e.1 0 (walkWords x.src 0 (loadWords x))).2.stop = none)
      ∧ (loadP d).rowMajor = false ∧ (loadP r).rowMajor = true
      ∧ firstIn (tileOf (holds .load (cmd d .active) up) 0) .load .active = some (cmd d .active) := by decide +kernel

/-- One token and one column, with both ends of its group. -/
theorem test_GarnetRunAccumulatesDotProducts :
    let d := 0x12 + 0x100 * 2 ^ 80 + 0x200 * 2 ^ 96 + 1 * 2 ^ 112 + 1 * 2 ^ 120 + 3 * 2 ^ 136
    let c := cmd d .queued
    let s := onTile (holds .exec c up) 0 fun t =>
      { t with garnet := { t.garnet with set0 := { t.garnet.set0 with loaded := true, prec := 8 } } }
    let x := runP d
    let g := (tileOf s 0).garnet
    tileUp s 0 = true ∧ 0 < fget s HUSKY_TILE__DUTY 0 ∧ g.halted = false ∧ firstIn (tileOf s 0) .exec .queued = some c
      ∧ dOp c.desc = 0x12 ∧ runParamOk x = true
      ∧ badOperand ([(x.act, x.tokens * 4), (x.scl, ceilDiv (x.tokens * 2) 32)]
        ++ (if x.accEnd then [(x.dst, runOutWords x)] else [])) = none
      ∧ (activeOf g).loaded = true ∧ 1 ≤ (activeOf g).prec ∧ (activeOf g).prec ≤ 8 ∧ (activeOf g).int1 = false ∧ groupOk g x = true
      ∧ (∀ i, i < x.ncols → runFloor g x ≤ sext 8 (smGet (activeOf g).exps i 0) ∧ sext 8 (smGet (activeOf g).exps i 0) ≤ runFloor g x + 42)
      ∧ (spReadRun s 0 (runReads x)).2.stop = none ∧ x.accEnd = true := by decide +kernel

theorem test_MemsCanonical : MemsCanonical up := by unfold MemsCanonical; decide +kernel

/-- The last token of a group, and one with another behind it. -/
theorem test_GarnetResultsAreWrittenInOrder :
    let d := 0x12 + 0x200 * 2 ^ 96 + 1 * 2 ^ 112 + 1 * 2 ^ 120 + 3 * 2 ^ 136
    let c := cmd d .active
    let row : List La80 := [⟨1, 0, false, false, false, false⟩]
    (∀ more ∈ [[], [row]],
      let o : RunOut := ⟨0, row :: more, 0, [], []⟩
      let s := onTile (holds .exec c up) 0 fun t => { t with garnet := { t.garnet with outs := [o] } }
      tileUp s 0 = true ∧ (tileOf s 0).garnet.outs = [o] ∧ o.toks = row :: more
        ∧ cmdBy (tileOf s 0) .exec o.serial = some c ∧ (runP c.desc).appEn = false ∧ c.apps = []
        ∧ fbit s TILE_SPINEL_CTRL__INJ_ARM 0 = false ∧ smSorted s.tiles = true ∧ smSorted s.regs = true)
    ∧ (∀ w ∈ walkWords (runP d).dst 0 1, w < spWords) := by decide +kernel

/-- A copy of eight elements, and one with a reserved format. -/
theorem test_BerylCommandsWriteTheirResults :
    let d := 0x20 + 0x100 * 2 ^ 112 + 8 * 2 ^ 128
    let e := d + 15 * 2 ^ 152
    let s := holds .beryl (cmd d .queued) up
    MemsCanonical s ∧ tileUp s 0 = true ∧ 0 < fget s HUSKY_TILE__DUTY 0
      ∧ firstIn (tileOf s 0) .beryl .queued = some (cmd d .queued) ∧ (berylP d).vop = 0x00 ∧ berylCheck (berylP d) = none
      ∧ fbit s TILE_SPINEL_CTRL__INJ_ARM 0 = false ∧ CleanWords s 0 (rowWords (berylP d))
      ∧ (berylP e).vop = 0x00 ∧ berylCheck (berylP e) = some (0x20, 0x00) ∧ fbit s TILE_FAULT__VALID 0 = false := by
  unfold MemsCanonical CleanWords
  decide +kernel

/-! ### Transfers -/

theorem test_WalkFormsBurstsOfOneWindow :
    (walkItems up 0 false none [⟨0, 0, [], 0⟩]).ovf = false ∧ (∀ x ∈ (walkItems up 0 false none []).parts, x.dest ≠ .unmapped) := by
  decide +kernel

/-- DMA_READ, DMA_WRITE, DMA_GATHER and DMA_SCATTER of one word, where the engine accepts them. -/
theorem test_TransfersIssueTheirBursts :
    let rd := 0x30 + 32 * 2 ^ 128 + 1 * 2 ^ 160
    let wr := 0x31 + 32 * 2 ^ 128 + 1 * 2 ^ 160
    let ga := 0x32 + 0x100 * 2 ^ 128 + 1 * 2 ^ 144 + 32 * 2 ^ 160 + 1 * 2 ^ 176
    let sc := ga + 1
    (∀ d ∈ [rd, wr, ga, sc],
      let c := cmd d .queued
      let s := holds .dma c up
      MemsCanonical s ∧ tileUp s 0 = true ∧ 0 < fget s HUSKY_TILE__DUTY 0 ∧ activeDma (tileOf s 0) < 4
        ∧ firstIn (tileOf s 0) .dma .queued = some c ∧ cmdBy (tileOf s 0) .dma c.serial = some c ∧ c.pend = [] ∧ c.apps = []
        ∧ c.stopped = false ∧ c.faulted = false ∧ fbit s TILE_SPINEL_CTRL__INJ_ARM 0 = false)
    ∧ (∀ d ∈ [rd, wr], spanOk (strideP d).spa (strideWords (strideP d)) = true
      ∧ CleanWords (holds .dma (cmd d .queued) up) 0 (strideWords (strideP d)))
    ∧ (∀ d ∈ [ga, sc],
      let g := gatherP d
      let s := holds .dma (cmd d .queued) up
      g.fmt ≠ 3 ∧ spanOk g.spa (elemSpan g) = true ∧ spanOk g.idx (idxWords g) = true ∧ CleanWords s 0 (idxWords g)
        ∧ CleanWords s 0 (elemSpan g) ∧ (∀ w ∈ idxWords g, w ∉ elemSpan g)
        ∧ ∀ e ∈ elemsList g (indicesOf g (wordsRaw s 0 (idxWords g))), elemOver g e = false) := by
  unfold MemsCanonical CleanWords
  decide +kernel

/-- A multicast to slots 0 and 17 of region 0, and an append of one K row. -/
theorem test_MulticastAndAppendBegin :
    let mc := 0x34 + 0x100 * 2 ^ 80 + 32 * 2 ^ 96 + (1 + 2 ^ 17) * 2 ^ 192
    let kv := 0x35 + 1 * 2 ^ 112 + 1 * 2 ^ 121
    (∀ d ∈ [mc, kv],
      let c := cmd d .queued
      let s := holds .dma c up
      MemsCanonical s ∧ tileUp s 0 = true ∧ 0 < fget s HUSKY_TILE__DUTY 0 ∧ activeDma (tileOf s 0) < 4
        ∧ firstIn (tileOf s 0) .dma .queued = some c ∧ cmdBy (tileOf s 0) .dma c.serial = some c)
    ∧ (let s := holds .dma (cmd mc .queued) up
      let x := mcastP mc
      mcastOk s 0 x = true ∧ spanOk x.src (walkWords x.src 0 (x.bytes / 32)) = true
        ∧ spanOk x.dst (walkWords x.dst 0 (x.bytes / 32)) = true ∧ CleanWords s 0 (walkWords x.src 0 (x.bytes / 32))
        ∧ 32 ≤ x.bytes ∧ sendCause s (.region x.region) (routeMc s (.tile 0) x.region) = 0)
    ∧ (let s := holds .dma (cmd kv .queued) up
      let k := kvP kv
      let kw := walkWords k.src 0 (k.ntok * (if k.part = 3 then 8 else 4))
      k.part = 1 ∧ spanOk k.src kw = true ∧ CleanWords s 0 kw) := by
  unfold MemsCanonical CleanWords
  decide +kernel

/-- A strided read past the last word, a gather with a reserved index format, a multicast to nobody, and a late response. -/
theorem test_DmaRefusalsAndTimeouts :
    let rd := 0x30 + 12287 * 2 ^ 112 + 64 * 2 ^ 128 + 1 * 2 ^ 160
    let ga := 0x32 + 0x100 * 2 ^ 128 + 1 * 2 ^ 144 + 32 * 2 ^ 160 + 3 * 2 ^ 176
    let mc := 0x34 + 0x100 * 2 ^ 80 + 32 * 2 ^ 96
    let kv := 0x35 + 12287 * 2 ^ 64 + 1 * 2 ^ 112 + 1 * 2 ^ 121
    (∀ d ∈ [rd, rd + 1, ga, ga + 1, mc, kv],
      let s := holds .dma (cmd d .queued) up
      tileUp s 0 = true ∧ 0 < fget s HUSKY_TILE__DUTY 0 ∧ activeDma (tileOf s 0) < 4
        ∧ firstIn (tileOf s 0) .dma .queued = some (cmd d .queued) ∧ fbit s TILE_FAULT__VALID 0 = false)
    ∧ spanOk (strideP rd).spa (strideWords (strideP rd)) = false ∧ spanOk (strideP (rd + 1)).spa (strideWords (strideP (rd + 1))) = false
    ∧ (gatherP ga).fmt = 3 ∧ (gatherP (ga + 1)).fmt = 3 ∧ mcastOk up 0 (mcastP mc) = false
    ∧ spanOk (kvP kv).src (walkWords (kvP kv).src 0 ((kvP kv).ntok * (if (kvP kv).part = 3 then 8 else 4))) = false
    ∧ (let c := { cmd 0x30 .active with parts := [⟨.vault 1, 0, false⟩], pend := [⟨5, 0, [], some 0, 0, 0⟩] }
      let s := rset (holds .dma c up) HUB_TIME (2 ^ 40)
      cmdBy (tileOf s 0) .dma c.serial = some c ∧ (∀ z ∈ c.pend, latePend s 0 z = true)) := by decide +kernel

/-! ### Jasper -/

/-- `up` with tile 144, whose stack has a Jasper layer, its region and bank-edge unit powered; VA 0 is page 0 of its channel 0. -/
def upJ : State :=
  onRegion (fset (powered [144, 296, 306, 317] up) HUSKY_TILE__DUTY 64 144) 8 fun r => { r with cache := [⟨0, 1 + 144 * 2 ^ 4, 0⟩] }

/-- Tile 144 runs the program of the one step `x`, which has locked windows 0 to 15 of channel 0. -/
def prog (x : Nat) : JProg :=
  ⟨0, 1 + 1 * 2 ^ 16 + 1 * 2 ^ 32 + 15 * 2 ^ 96, [x], 1 * 2 ^ 24, true, 0, [], false, [], []⟩

/-- `upJ` while `j` runs. -/
def running (j : JProg) : State := onTile upJ 144 fun t => { t with qJasper := [cmd 0x40 .active], jprog := some j }

/-- A program of one LOADA at VA 0, its arguments at VA 64: fetched and checked; a lock to take; an end; a time limit. -/
theorem test_JasperProgramsRunAndEnd :
    let c := cmd (0x40 + 64 * 2 ^ 128) .queued
    let hd := (prog 0).hdr
    let sec := fun (i x : Nat) (st : State) => storeSector st 144 0 0 ⟨i, leBytes 32 x, 0⟩
    let s := sec 2 ((prog 0).args) (sec 1 2 (sec 0 hd (onTile upJ 144 fun t => { t with qJasper := [c] })))
    let a := ownRead s 144 (dClass c.desc) 0 32
    let b := ownRead a.1 144 (dClass c.desc) 32 16
    let d := ownRead b.1 144 (dClass c.desc) 64 64
    let o := ownPlace d.1 144 0 true
    tileUp s 144 = true ∧ 0 < fget s HUSKY_TILE__DUTY 144 ∧ jasperAbsent s 144 = false ∧ (tileOf s 144).qJasper.head? = some c
      ∧ jasperP c.desc = (0, 64) ∧ (cmdBy (tileOf a.1 144) .jasper c.serial).isSome = true
      ∧ (cmdBy (tileOf d.1 144) .jasper c.serial).isSome = true
      ∧ a.2.map (fun y => (leNat y.bytes, y.bad)) = some (hd, none) ∧ jSteps hd = 1
      ∧ b.2.map (fun y => ((chunks 16 1024 y.bytes).map leNat, y.bad)) = some ([2], none)
      ∧ d.2.map (fun y => (leNat y.bytes, y.bad)) = some ((prog 0).args, none)
      ∧ bitOf hd 9 = false ∧ headBad d.1 144 hd (prog 0).args = none ∧ bitsOf (prog 0).args 64 48 = 0 ∧ o.2.isSome = true
      ∧ stepsBad o.1 144 hd (prog 0).args 0 [2] = none
      ∧ (let s := running { prog 2 with locked := false }
        (tileOf s 144).jprog = some { prog 2 with locked := false } ∧ lockBusy s 144 hd = false)
      ∧ (let s := running { prog 2 with ended := [0] }
        tileUp s 144 = true ∧ (tileOf s 144).jprog = some { prog 2 with ended := [0] }
          ∧ cmdBy (tileOf s 144) .jasper 0 = some (cmd 0x40 .active) ∧ [0].length = (prog 2).steps.length)
      ∧ (let s := rset (running (prog 2)) HUB_TIME 20000
        (prog 2).lockAt + 20000 ≤ now s ∧ (prog 2).ended.length < (prog 2).steps.length ∧ fbit s TILE_FAULT__VALID 144 = false) := by
  decide +kernel

/-- NOR of windows 1 and 2 into 0, SEAL of windows 0 and 1, POP of window 0. -/
theorem test_JasperRowStepsActOnRows :
    let rowop := 1 + 1 * 2 ^ 34 + 2 * 2 ^ 52
    let sl := 7 + 2 * 2 ^ 34
    MemsCanonical (running (prog rowop)) ∧ JasperNext (running (prog rowop)) 144 (prog rowop) 0 rowop 1
    ∧ bankOpen (running (prog rowop)) 144 rowop = true
    ∧ (∀ k, k ≤ funcSources (stFunc rowop) → rowOf (running (prog rowop)) 144 0 (stWin rowop k) < 2 ^ 18)
    ∧ JasperNext (running (prog sl)) 144 (prog sl) 0 sl 7 ∧ fbit (running (prog sl)) TILE_ECC_CTRL__INJ_ARM 144 = false
    ∧ (chanOf (running (prog sl)) 144 0).armFail = 0
    ∧ (∀ w ∈ (stepWrites 0 sl).map (rowOf (running (prog sl)) 144 0), w < 2 ^ 18)
    ∧ JasperNext (running (prog 4)) 144 (prog 4) 0 4 4 ∧ bankOpen (running (prog 4)) 144 4 = true
    ∧ CleanRow (running (prog 4)) 144 0 0 := by
  unfold MemsCanonical JasperNext CleanRow
  decide +kernel

/-- LOADA, LOADE, BLOCK and OUT, each the next step. -/
theorem test_JasperLatchAndResultSteps :
    (∀ n ∈ [2, 3, 5, 6], JasperNext (running (prog n)) 144 (prog n) 0 n n)
    ∧ PlainRead (running (prog 2)) 144 0 0 ∧ progClass (running (prog 2)) 144 = 0
    ∧ ((ownReadWin (running (prog 2)) 144 0 0 0 (byteMask 0 128)).2.flatMap Sector.data).length = 128
    ∧ ((ownReadWin (running (prog 3)) 144 0 0 0 (2 ^ 64 - 1)).2.flatMap Sector.data).length = 2048
    ∧ bitsOf (prog 5).args 24 8 = 1 ∧ sext 8 (bitsOf (prog 5).args 16 8) = 0
    ∧ sext 8 (smGet (tileOf (running (prog 5)) 144).expLatch 0 0) = 0
    ∧ (ownPlace (running (prog 6)) 144 0 true).2 = some (0, 0) := by
  unfold JasperNext PlainRead CleanRow
  decide +kernel

/-- VEC (a RELU of eight elements) as the next step. -/
theorem test_JasperLatchAndResultSteps_vec :
    let vec := 8 + 8 * 2 ^ 8 + 1 * 2 ^ 34 + 8 * 2 ^ 88
    let s := running (prog vec)
    JasperNext s 144 (prog vec) 0 vec 8 ∧ fbit s TILE_ECC_CTRL__INJ_ARM 144 = false ∧ (chanOf s 144 0).armFail = 0
    ∧ ((vecSources (prog vec).args vec).flatMap fun y => winsFor y.1 y.2) = [1] ∧ PlainRead s 144 0 1
    ∧ (vecReadAll s 144 0 (vecSources (prog vec).args vec)).2.2 = none
    ∧ winLocked s 144 0 0 = true ∧ rowOf s 144 0 0 = 0 := by
  unfold JasperNext PlainRead CleanRow
  decide +kernel

/-! ### Vaults -/

/-- `up` with channel 0 of tile 0 active. -/
def upV : State := fset up TILE_VAULT_CH_STATUS__STATE 0 0 0

/-- A burst to window 0 of channel 0 of tile 0. -/
def burst (w : Bool) (r : Req) : Burst := ⟨9, w, 2, 0, 0, 1, if w then [⟨0, List.replicate 32 0xA5, 0⟩] else [], r, none, false, 0, 0, 0, false, false⟩

/-- A read request from tile 1 to tile 0. -/
def rdMsg : Msg := { blankMsg 5 .rd 0 (.tile 1) (.tile 0) 0 none 77 with mask := 1 }

/-- A refresh that is due; a slot whose share has a burst ready, one that is lent to that share, and one with nothing. -/
theorem test_VaultSlotsAndRefreshes :
    let s := onChan upV 0 0 fun h => { h with queue := [burst false (.remote rdMsg)], slot := 7 }
    let r := onChan upV 0 0 fun h => { h with now := 10000 }
    chanActive s 0 0 = true ∧ refreshDue s 0 0 = false ∧ (chanOf s 0 0).split = (5, 2, 1)
      ∧ pickShare s 0 0 (slotShare (5, 2, 1) 7) = some (.burst (burst false (.remote rdMsg)) false)
      ∧ slotShare (5, 2, 1) 7 = 2 ∧ slotShare (5, 2, 1) 0 = 0 ∧ fbit s TILE_VAULT_CTRL__LEND 0 = true
      ∧ (let l := onChan s 0 0 fun h => { h with slot := 0 }
        pickShare l 0 0 0 = none ∧ pickShare l 0 0 1 = none
          ∧ pickShare l 0 0 2 = some (.burst (burst false (.remote rdMsg)) false))
      ∧ chanActive r 0 0 = true ∧ refreshDue r 0 0 = true
      ∧ (∀ x, x < 3 → pickShare upV 0 0 x = none) := by
  decide +kernel

/-- A write, a read for another tile, a read for a DMA command, a page fetch and a row move; a retry, and the last attempt. -/
theorem test_BurstOutcomesReachTheirRequester :
    let fl := fun (b : Burst) => onChan upV 0 0 fun h => { h with flight := [b] }
    let s := fl (burst false (.remote rdMsg))
    let y := { cmd 0x30 .active with parts := [⟨.vault 0, 0, false⟩], pend := [⟨9, 0, [(0, 12287)], some 0, 0, 0⟩] }
    let z := holds .dma y (fl (burst false (.dma 0)))
    domOn s 0 = true ∧ MemsCanonical s ∧ (chanOf s 0 0).flight = [burst false (.remote rdMsg)]
      ∧ rowOf (fl (burst true .none)) 0 0 0 < 2 ^ 18 ∧ fbit s TILE_ECC_CTRL__INJ_ARM 0 = false
      ∧ (∀ q ∈ [Req.page, .move], (chanOf (fl (burst false q)) 0 0).flight = [burst false q])
      ∧ (chanOf (fl { burst true .none with merge := true }) 0 0).flight = [{ burst true .none with merge := true }]
      ∧ ((burst true .none).secs.map Sector.s).Nodup ∧ (∀ x ∈ (burst true .none).secs, x.s < 64 ∧ x.data.length = 32)
      ∧ CleanRow s 0 0 0 ∧ (routeOf s rdMsg.dst rdMsg.src).any (fun l => linkDown s l) = false
      ∧ cmdBy (tileOf z 0) .dma 0 = some y ∧ y.pend.find? (fun x => x.id = 9) = some ⟨9, 0, [(0, 12287)], some 0, 0, 0⟩
      ∧ bitOf (burst false (.dma 0)).mask 0 = true ∧ 12287 < spWords ∧ fbit z TILE_SPINEL_CTRL__INJ_ARM 0 = false
      ∧ 0 + 1 < fget s TILE_VAULT_CTRL__RETRY_LIMIT 0
      ∧ fget s TILE_VAULT_CTRL__RETRY_LIMIT 0 ≤ 6 + 1 ∧ fbit s TILE_FAULT__VALID 0 = false := by
  unfold MemsCanonical CleanRow
  decide +kernel

/-- A fetched recovery, a moved row, and a scrub that is due. -/
theorem test_RowsAreRecoveredMovedAndScrubbed :
    let r : Recovery := ⟨burst false (.remote rdMsg), false, true, false⟩
    let s := onChan upV 0 0 fun h => { h with recov := [r], remapQ := [⟨16, 0, true, 0, 0⟩] }
    let u := rset (fset upV TILE_ECC_CTRL__SCRUB_EN 1 0) HUB_TIME (2 ^ 62)
    (chanOf s 0 0).recov = [r] ∧ r.fetched = true ∧ r.delivered = false
      ∧ (chanOf s 0 0).remapQ.find? (fun x => x.written) = some ⟨16, 0, true, 0, 0⟩ ∧ freeSpare s 0 0 (16 % 16) 56 64 = some 56
      ∧ fbit s TILE_ECC_CTRL__INJ_ARM 0 = false ∧ scrubDue u 0 0 = true ∧ scrubDue upV 0 0 = false ∧ scrubTurn upV 0 0 = false
      ∧ domOn u 0 = true ∧ fenced s 0 = false
      ∧ rowOf u 0 0 (chanOf u 0 0).scrubWin < 2 ^ 18 := by decide +kernel

theorem test_BandsFallAndDefectsAreLogged :
    let s := { up with blood := { up.blood with logQ := [tileBadRec 0] } }
    s.blood.logQ = [tileBadRec 0] ∧ compUp s 2 = true ∧ s.flash.fieldLog.length < 8192 ∧ fget s REGION_DRAM_BAND__BAND 0 = 0 := by decide +kernel

/-! ### Messages, links and regulation -/

/-- `up` with the link of die 0 UP and the messages `l` in the fabric. -/
def fabric (l : List Msg) : State := { fset up FAB_LINK_STATUS__STATE 2 0 with msgs := l, nextId := 100 }

/-- A read and a write at a vault, and the three responses to a DMA command of tile 0. -/
theorem test_MessagesAreServedOnArrival :
    let w := { rdMsg with typ := .wr, sectors := [⟨0, List.replicate 32 1, 0⟩] }
    let ans := fun (ty : MsgType) => { blankMsg 5 ty 1 (.tile 1) (.tile 0) 0 none 9 with sectors := [⟨0, List.replicate 32 1, 0⟩] }
    let y := { cmd 0x30 .active with parts := [⟨.vault 1, 0, false⟩], pend := [⟨9, 0, [(0, 0)], some 0, 0, 0⟩] }
    (∀ m ∈ [rdMsg, w], arrived (fabric [m]) 5 m.typ = some m ∧ vaultCause (fabric [m]) 0 m.chan = 0
      ∧ (routeOf (fabric [m]) (refuser (fabric [m]) m.dst) m.src).any (fun l => linkDown (fabric [m]) l) = false)
    ∧ MemsCanonical (fabric [rdMsg]) ∧ vaultCause (fset (fabric [rdMsg]) TILE_VAULT_STATUS__CH_OUT 1 0) 0 0 ≠ 0
    ∧ ∀ ty ∈ [MsgType.rdata, .wack, .noep],
      let s := holds .dma y (fabric [ans ty])
      tileUp s 0 = true ∧ arrived s 5 ty = some (ans ty) ∧ cmdBy (tileOf s 0) .dma 0 = some y
        ∧ y.pend.find? (fun x => x.id = 9) = some ⟨9, 0, [(0, 0)], some 0, 0, 0⟩ ∧ pendCmd (tileOf s 0) 9 = some (0, 0)
        ∧ (ans ty).subs = [] ∧ arrived (holds .dma y (fabric [{ ans .noep with subs := [(0, 9)] }])) 5 .noep
          = some { ans .noep with subs := [(0, 9)] }
        ∧ fbit s TILE_SPINEL_CTRL__INJ_ARM 0 = false := by
  unfold MemsCanonical
  decide +kernel

/-- A multicast at its region, one at a slot that takes it, one that must wait, and one that has waited too long. -/
theorem test_SpinelWritesFillSlots :
    let m := { blankMsg 5 .spw 2 (.tile 1) (.tile 0) 0 none 9 with
      dstSlot := some 1, win := 3, last := true, sectors := [⟨0, List.replicate 32 1, 0⟩] }
    let g := { m with dst := .region 0, lmask := 1 }
    let h := { m with waitSince := some 0 }
    let s := slot 1 16 0 (fabric [m])
    let f := setSlot s 0 1 2
    let k := rset (setSlot (slot 1 16 0 (fabric [h])) 0 1 2) HUB_TIME (2 ^ 40)
    let k := onTile k 0 fun t => { t with mcSince := some 0 }
    MemsCanonical s ∧ arrived s 5 .spw = some m ∧ m.id < s.nextId ∧ tileOpen s 0 = true ∧ slotExternal s 0 1 = true ∧ slotTakes s 0 1 m = true
      ∧ ((List.range 1).map (walkWord m.dstSpa)).Nodup ∧ fbit s TILE_SPINEL_CTRL__INJ_ARM 0 = false
      ∧ (routeOf s m.dst m.src).any (fun l => linkDown s l) = false
      ∧ slotTakes f 0 1 m = false ∧ m.waitSince = none ∧ stopHolds s 0 m = false ∧ stopHolds (inState 2 s) 0 m = true
      ∧ stallDue k 0 = true ∧ stallVictim k 0 = some h ∧ fbit k TILE_FAULT__VALID 0 = false ∧ arrived k 5 .spw = some h
      ∧ (routeOf k (.region 0) h.src).any (fun l => linkDown k l) = false ∧ (∀ x ∈ stalledMsgs k 0 h, x.id < k.nextId)
      ∧ (stalledMsgs k 0 h).any (fun x => x.last) = true
      ∧ (let k := setSlot k 0 1 0; heldWrites k 0 = [h] ∧ slotTakes k 0 1 h = true)
      ∧ (let k := fset (fset (fabric [g]) REGION_BIND__BOUND 1 0 0) REGION_BIND__SLOT 0 0 0
        arrived k 5 .spw = some g ∧ physOf k 0 = some 0 ∧ mcRoot g.src 0 = 1 ∧ tileOpen k 0 = true ∧ (tileOf k 0).pruned.contains 3 = false) := by
  unfold MemsCanonical
  decide +kernel

/-- A request of the customer die that is refused and one that is forwarded, and each management message. -/
theorem test_CustomerAndManagementMessages :
    let v := fun (ty : MsgType) => { blankMsg 5 ty 0 .cust .hub 0 none 9 with mask := 1 }
    let open_ := fun (s : State) => fset (fset s FAB_LINK_STATUS__STATE 2 8) FAB_CUST_CFG__ACC_EN 1
    let mg := fun (a b : End) (x : Mgmt) => { blankMsg 5 .mgmt 1 a b 0 none 9 with mg := x }
    (∀ ty ∈ [MsgType.vrd, .vwr],
      let s := bankSet (open_ (fabric [v ty])) false 0 1
      arrived s 5 ty = some (v ty) ∧ custAllowed (fabric [v ty]) 0 = false ∧ custAllowed s 0 = true
        ∧ (routeOf s .hub .cust).any (fun l => linkDown s l) = false
        ∧ (hubTranslate s 0 (decide (ty = .vwr))).2 = .vault 0 0 0 ∧ sendCause s (.tile 0) (routeOf s .hub (.tile 0)) = 0)
    ∧ (∀ x ∈ [Mgmt.invalidate 3, .gen 1, .start 64], arrived (fabric [mg .hub (.region 0) x]) 5 .mgmt = some (mg .hub (.region 0) x))
    ∧ (∀ x ∈ [Mgmt.invAck, .genAck, .report 0 0x4D 1],
      let s := fset (fabric [mg (.region 0) .hub x]) BH_CTRL__RECOVER_EN 1
      arrived s 5 .mgmt = some (mg (.region 0) .hub x) ∧ fbit s BH_CTRL__RECOVER_EN = true ∧ s.blood.recov = none
        ∧ s.blood.reports.length < 16) := by decide +kernel

/-! ### Links, regulation, and the network -/

/-- `up` with link 20 as `k`, and a read that waits for it. -/
def onWire (k : Link) : State :=
  let s := fabric [{ rdMsg with route := [20] }]
  { s with links := smSet s.links 20 k }

/-- The link 20 with credit. -/
def idle20 : Link := { linkOf up 20 with credit := [(0, 8), (1, 8), (2, 8), (3, 8)] }

/-- A new flit that arrives whole, one damaged after an accepted one, a replay by NAK and by timeout, and a retraining. -/
theorem test_LinksDeliverInOrderAndRetry :
    let s := onWire idle20
    let r := sendFlit (tickSpan s 20) 20
    let a := sendFlit (tickSpan (onWire { idle20 with accepted := true }) 20) 20
    let f : SentFlit := ⟨0, 0, 5, true, 0⟩
    let nak := onWire { idle20 with nakSeen := true, replay := [f] }
    let out := onWire { idle20 with nakSeen := true, replay := [f], replays := 8 }
    linkUp up 0 = false ∧ linkUp s 20 = true ∧ (linkOf s 20).nakSeen = false ∧ (linkOf s 20).replay[(linkOf s 20).cursor]? = none
      ∧ (nextNew (tickSpan s 20) 20).isSome = true ∧ r.2.2.map (fun f => (f.msg, f.eom, f.vc)) = some (5, true, 0)
      ∧ crcOk r.2.1 = true ∧ bitsOf r.2.1 38 12 = (linkOf s 20).expect
      ∧ smGet (linkOf r.1 20).used 0 0 < bufSize 20 0 ∧ (r.1.msgs.find? fun m => m.id = 5).isSome = true
      ∧ crcOk (Nat.xor a.2.1 1) = false ∧ a.2.2.isSome = true ∧ (linkOf a.1 20).accepted = true ∧ (linkOf a.1 20).nakSent = false
      ∧ linkUp nak 20 = true ∧ (linkOf nak 20).replays < retryLimit nak 20
      ∧ 2 * (linkOf nak 20).ackAt + retryTimeout nak 20 ≤ 2 * now (rset nak HUB_TIME 1000)
      ∧ linkUp out 20 = true ∧ retryLimit out 20 ≤ (linkOf out 20).replays
      ∧ retraining (onWire { idle20 with retrain := true }) 20 = true ∧ retraining s 20 = false
      ∧ fbit s HUB_CNT_CTRL__SAT_EVT_EN = false := by decide +kernel

/-- A region that is up and one that is not; minimums that are admitted and ones that are not. -/
theorem test_RegulationCreditsAndAdmission :
    let x := fset up REGION_QOS_VMIN__RD (2 ^ REGION_QOS_VMIN__RD.w - 1) 0 0
    let y := forS (List.range 8) (fun c st => fset st REGION_QOS_LMIN__ONYX (2 ^ REGION_QOS_LMIN__ONYX.w - 1) 0 c) up
    let z := fset up FAB_QOS_LMIN__CUST (2 ^ FAB_QOS_LMIN__CUST.w - 1) 0
    let s := fset up FAB_LINK_STATUS__STATE 2 0
    domOn up 288 = true ∧ domOn State.reset 288 = false ∧ up.blood.isolated.contains 0 = false
      ∧ regionAdmits up 0 = true ∧ regionAdmits x 0 = false ∧ regionAdmits y 0 = false ∧ hubAdmits up = true ∧ hubAdmits z = false
      ∧ (routeOf s (.region 0) .hub).any (fun l => linkDown s l) = false ∧ regulated 20 = true := by decide +kernel

/-- `s` with port 0 UP and context 1 as `c`, VALID. -/
def upN (c : Ctx) (s : State) : State :=
  onCtx (fset (powered [308, 312] s) KELPIE_PORT_STATUS__UP 1 0) 1 fun _ => { c with bits := c.bits + 1 }

/-- A context with MTU code 0 and peer context 2. -/
def ctx0 : Ctx := { Ctx.reset with bits := 2 * 2 ^ 32 }

/-- Packet headers that context 1 takes, to UDP port `d`. -/
def net (s : State) (d : Nat) : NetHdr := 
  ⟨0, 0, 0, [], 0x0800, 17, 64, true, 0, 0, 0, d, 0, false, 0, !ctxV6 (ctxOf s 1), 0, 0⟩

/-- A WCT packet to context 1 with header `h` and 32 bytes where it carries data. -/
def wct (s : State) (h : WctH) : WctPkt :=
  let p : List Byte := if h.len = 0 then [] else List.replicate 32 0
  ⟨net s (fget s KELPIE_CTRL__WCT_PORT), wctHdr 1 h, p, wctCrc (wctHdr 1 h) p⟩

/-- `s` where the hub can read and write window 0 of the vault of tile 0, at VA 0. -/
def hubbed (s : State) : State := bankSet (fset s FAB_LINK_STATUS__STATE 2 0) false 0 1

/-- Packet `k` of message 0, sent at time 0. -/
def sent (k : Nat) : TxPkt := ⟨k, 0, wctHdr 2 { op := 1, psn := k }, [], some 0, false, 3, 0⟩

/-- A packet in order (accepted with a trigger), and a bad one. -/
theorem test_WctPacketsAreReceivedAndAcknowledged :
    let s := upN ctx0 (hubbed up)
    let p := wct s { op := 1, last := true, rtrigEn := true, psn := 0, len := 32, rtrig := 3 }
    let r := hubWrite (rxEntered s p) (hRva p.hdr) p.payload 0 (ctxClass (ctxOf s 1))
    WctArrives s p 1 ∧ devFailed s = false ∧ hPsn p.hdr = ctxEpsn (ctxOf s 1) ∧ (ctxOf s 1).got = [] ∧ (ctxOf s 1).rx = []
      ∧ hAbort p.hdr = false ∧ r.2 = 0 ∧ hLast p.hdr = true ∧ hRtrigEn p.hdr = true
      ∧ portPaused s (ctxPort (ctxOf s 1)) (ctxPcp (ctxOf s 1)) = false
      ∧ wctGood { p with crc := p.crc + 1 } = false ∧ portUp s 0 = true ∧ hOp p.hdr = 1 := by
  unfold WctArrives FrameArrives
  decide +kernel

/-- A packet out of the window, one seen before and one of a failed device. -/
theorem test_WctPacketsAreReceivedAndAcknowledged_turned :
    let s := upN ctx0 (hubbed up)
    let z := fset s BH_STATUS__DEV_FAILED 1
    WctArrives s (wct s { op := 1, psn := 200, len := 32 }) 1 ∧ psnDist 0 200 = 200
      ∧ WctArrives s (wct s { op := 1, psn := 2 ^ 32 - 1, len := 32 }) 1 ∧ 2 ^ 31 ≤ psnDist 0 (2 ^ 32 - 1)
      ∧ WctArrives z (wct z { op := 1, psn := 0, len := 32 }) 1 ∧ devFailed z = true := by
  unfold WctArrives FrameArrives
  decide +kernel

/-- A frame of IP for the control compartment, and one that an uncorrectable codeword touches. -/
theorem test_WctPacketsAreReceivedAndAcknowledged_frames :
    let s := upN ctx0 (hubbed up)
    let n : NetHdr := net s 7
    FrameArrives s n 68 ∧ n.isIp = true ∧ frameOk n 68 = true ∧ (7 ∉ [fget s KELPIE_CTRL__WCT_PORT, 4791, 319, 320])
      ∧ frameOk { n with fecBad := 1 } 68 = false ∧ portUp s 0 = true := by
  unfold FrameArrives
  decide +kernel

/-- An all-gather or a reduction (by `d`) of two ranks on context 1, in which this is rank 0. -/
def coll (d : Nat) : Coll := ⟨7, 3, 0, d, [0, 1], [], [], [], [], [], [], 0⟩

/-- A COLL packet with no collective, one of an all-gather and one of a reduction. -/
theorem test_WctPacketsAreReceivedAndAcknowledged_coll :
    let s := upN ctx0 (hubbed up)
    let gath := coll (2 + 2 * 2 ^ 18 + 32 * 2 ^ 192)
    let red := coll (1 + 2 * 2 ^ 18 + 32 * 2 ^ 192)
    let at_ := fun (c : Coll) => { s with kelpie := { s.kelpie with colls := [c] } }
    let p := wct s { op := 4, psn := 0, len := 32, hi := 1 + 1 * 2 ^ 10 + 7 * 2 ^ 48 }
    let q := wct s { op := 4, psn := 0, len := 32, hi := 7 * 2 ^ 48 }
    let e := rxEntered (at_ red) q
    let own := hubRead e (ctxClass (ctxOf s 1)) (clSrc red + hChunk q.hdr * clBytes red + hOff q.hdr) (q.payload.length / wireRatio red 0)
    let w := hubWrite own.1 (dstOf red (hChunk q.hdr) + hOff q.hdr)
      (fromWire (clFmt red) (combineWire (clFmt red) q.payload (toWire (clFmt red) own.2.bytes))) 0 (ctxClass (ctxOf s 1))
    WctArrives s p 4 ∧ collOf s (hCollId p.hdr) = none ∧ rnrDue s (ctxOf s 1) = true
      ∧ WctArrives (at_ gath) p 4 ∧ collOf (at_ gath) (hCollId p.hdr) = some gath ∧ collPktOk gath 1 p.hdr = true ∧ hPhase p.hdr = 1
      ∧ (hubWrite (rxEntered (at_ gath) p) (dstOf gath (hChunk p.hdr) + hOff p.hdr) p.payload 0 (ctxClass (ctxOf s 1))).2 = 0
      ∧ WctArrives (at_ red) q 4 ∧ collOf (at_ red) (hCollId q.hdr) = some red ∧ collPktOk red 1 q.hdr = true ∧ hPhase q.hdr = 0
      ∧ clDirect red = false ∧ hChunk q.hdr = clRank red ∧ own.2.cause = 0 ∧ own.2.tag = 0 ∧ w.2 = 0 := by
  unfold WctArrives FrameArrives
  decide +kernel

/-- An ACK of the first of three packets that shows the third received and not the second, and a NAK of each cause. -/
theorem test_WctPacketsAreReceivedAndAcknowledged_acks :
    let w : Wqe := ⟨3, 0, 1, false, 0⟩
    let s := rset (upN { ctx0 with tx := [sent 0, sent 1, sent 2] } up) HUB_TIME (2 ^ 40)
    let s := { s with kelpie := { s.kelpie with wqes := [w] } }
    let c := ctxOf s 1
    let p := wct s { op := 2, psn := 0, hi := 1 }
    let rnr := wct s { op := 3, psn := 0, msn := 1 }
    let bad := wct s { op := 3, psn := 0, msn := 2 }
    WctArrives s p 2 ∧ (∀ x ∈ c.tx, x.sentAt.isSome = true) ∧ c.tx.filter (fun x => 1 ≤ psnDist 0 x.psn) = [sent 1, sent 2]
      ∧ WctArrives s rnr 3 ∧ hCause rnr.hdr = 1 ∧ WctArrives s bad 3 ∧ hCause bad.hdr = 2
      ∧ s.kelpie.colls = [] ∧ smSorted s.kelpie.ctx = true ∧ w.ended = false ∧ bitsOf w.bits 0 8 = 1
      ∧ bitOf (hSack p.hdr) 0 = true ∧ psnDist 1 (sent 1).psn ≤ 0 ∧ ¬ psnDist 2 (sent 1).psn < 128
      ∧ rnrHeld c 0 = false ∧ canSend s c = true ∧ 0 + fget s KELPIE_WCT_TIMERS__RETX_GAP * 1000 ≤ now s := by
  unfold WctArrives FrameArrives
  decide +kernel

/-- A context whose timers run, late and not late. -/
theorem test_WctTimersActWhenDue :
    let c := { ctx0 with tx := [sent 0], unackedAt := some 0, rnrHold := some (0, 5), rto := 10 }
    let s := upN c up
    let z := rset s HUB_TIME (2 ^ 60)
    timersRun (ctxOf s 1) = true ∧ canSend s (ctxOf s 1) = true ∧ ctxReady (ctxOf s 1) = true ∧ devFailed s = false
      ∧ (ctxOf s 1).unackedAt = some 0 ∧ now s < 1000 ∧ (ctxOf s 1).rnrHold = some (0, 5) ∧ 5 ≤ now z ∧ canSend z (ctxOf z 1) = true
      ∧ (ctxOf z 1).rtoAt + (ctxOf z 1).rto * 1000 ≤ now z ∧ timersRun (ctxOf z 1) = true ∧ z.kelpie.colls = []
      ∧ (ctxOf z 1).holdAt + fget z KELPIE_WCT_TIMERS__HOLD * 1000000000 ≤ now z
      ∧ (ctxOf z 1).ccAt + fget z KELPIE_CC_CTRL__CC_PERIOD * 1000 ≤ now z := by decide +kernel

/-- `upN` with a RoCE context and an rkey over the first 2 MiB. -/
def upR : State :=
  forS [(KELPIE_RKEY__KEY, 9), (KELPIE_RKEY__RD, 1), (KELPIE_RKEY__WR, 1), (KELPIE_RKEY__VALID, 1), (KELPIE_RKEY_RANGE__PAGES, 1)]
    (fun x st => fset st x.1 x.2 0) (upN { ctx0 with bits := 4 } (hubbed up))

/-- A RoCE v2 packet to context 1. -/
def roce (op psn : Nat) : RocePkt := ⟨net upR 4791, true, op, 1, psn, true, 0, 9, 32, 0, if op = 12 then [] else List.replicate 32 0⟩

/-- A whole write, its repeat, one out of order, one without permission, a read; a pause, and a port that goes DOWN. -/
theorem test_RoceRespondsAndPortsPause :
    let u := roceEntered upR (roce 10 0)
    let v := roceEntered upR (roce 12 0)
    let w := fset upR KELPIE_RKEY__VALID 0 0
    let d := fset upR KELPIE_PORT_STATUS__UP 0 0
    let h := { upR with kelpie := { upR.kelpie with pause := [(0, 5)] } }
    (∀ p ∈ [roce 10 0, roce 10 (2 ^ 24 - 1), roce 10 5, roce 12 0, roce 9 0], RoceArrives upR p) ∧ rocePsn (ctxOf upR 1) = 0
      ∧ (ctxOf upR 1).seqNak = false ∧ (ctxOf upR 1).cnpAt = none
      ∧ (roceWrite upR (ctxOf upR 1) (roce 10 0)).toOption = some (0, 32, 9) ∧ (roce 10 0).payload.length = 32 ∧ roceEnds 10 = true
      ∧ (hubWrite u 0 (roce 10 0).payload 0 (ctxClass (ctxOf upR 1))).2 = 0
      ∧ (roceWrite w (ctxOf w 1) (roce 10 0)).toOption = none ∧ RoceArrives w (roce 10 0)
      ∧ rkeyOk upR 9 0 32 false = true ∧ (hubRead v 0 0 32).2.cause = 0 ∧ (hubRead v 0 0 32).2.tag = 0
      ∧ rkeyOk w 9 0 32 false = false ∧ RoceArrives w (roce 12 0) ∧ portUp upR 0 = true
      ∧ smSorted h.kelpie.pause = true ∧ smSorted h.kelpie.ctx = true ∧ portUp h 0 = true ∧ smFind h.kelpie.pause 0 = some 5
      ∧ now h < 5 ∧ fbit d KELPIE_PORT_STATUS__UP 0 = false ∧ portExists (portMode (fset d KELPIE_PORT_STATUS__MODE 1 0) 0) 0 = true
      ∧ smGet d.kelpie.retrainAt 0 0 ≤ now d := by
  unfold RoceArrives FrameArrives
  decide +kernel

/-! ### Work queues, the barrier, and the hub's units -/

/-- `s` with the `n` bytes of `x` in sector 0 at VA 0. -/
def stored (n x : Nat) (s : State) : State := storeSector (hubbed s) 0 0 0 ⟨0, leBytes n x ++ List.replicate (32 - n) 0, 0⟩

/-- Work queue 3 runs, its next WQE at VA 0 being `w`; context 1 is ready. -/
def upQ (w : Nat) : State :=
  fset (fset (stored 32 w (upN ctx0 up)) KELPIE_KQ_PTR__STATE 1 3) KELPIE_KQ_PTR__TAIL 1 3

/-- Contexts with their half on and off; a LOAD that is refused and one that is not; WAIT, WRITE and COLL entries that run, and ended entries with work behind them. -/
theorem test_ContextsAndWorkQueues :
    let l := fset (powered [312] up) KELPIE_QUAD_CFG__MODE 3 0
    let l := fset (fset l KELPIE_PORT_STATUS__MODE 3 0) KELPIE_CTX_WORD__DATA 1 0
    let s := upQ 3
    let wr := upQ (1 + 1 * 2 ^ 16 + 32 * 2 ^ 192)
    let col := storeSector (upQ (2 + 64 * 2 ^ 64)) 0 0 0 ⟨2, leBytes 32 (2 + 2 * 2 ^ 18 + 7 * 2 ^ 32 + 32 * 2 ^ 192), 0⟩
    let w : Wqe := ⟨3, 0, 3, true, 0⟩
    let d := { s with kelpie := { s.kelpie with wqes := [w] } }
    kelpieAny up = false ∧ kelpieAny l = true ∧ ctxOn l 1 = true ∧ ctxOn l 20480 = false ∧ kelpieAny s = true ∧ ctxOn s 1 = true
      ∧ kqState (fset s KELPIE_KQ_PTR__STATE 2 3) 3 = 2 ∧ ctxValid (ctxOf l 1) = false ∧ bitsOf (ctxWords l) 4 4 = 0 ∧ portMode l 0 ≠ 0 ∧ bitOf (ctxWords l) 2 = false
      ∧ (∀ f ∈ ctxReserved, bitsOf (ctxWords l) f.1 f.2 = 0) ∧ ctxValid (ctxOf s 1) = true ∧ s.kelpie.colls = []
      ∧ WqeReady s 3 3 ∧ WqeMayRun s 3 ∧ WqeReady wr 3 1 ∧ WqeMayRun wr 3 ∧ ctxReady (ctxOf wr 1) = true
      ∧ (ctxOf wr 1).nextMsn < 2 ^ 32
      ∧ (writePackets (takeMsn (wqeStarted wr 3) 1).1 3 0 (wqeBits wr 3) 0 (ctxMtu (ctxOf wr 1)) 1 0).2 = 0
      ∧ WqeReady col 3 2 ∧ WqeMayRun col 3
      ∧ (let x := hubRead (wqeStarted col 3) kqCls 64 64
        let y := hubRead x.1 kqCls 0 4
        x.2.cause = 0 ∧ x.2.tag = 0 ∧ collCause col (leNat x.2.bytes) = 0 ∧ y.2.cause = 0 ∧ y.2.tag = 0)
      ∧ kqStarted d 3 = [w] ∧ w.ended = true ∧ kqState d 3 = 1 := by
  unfold WqeReady WqeMayRun
  decide +kernel

/-- A WQE with a trigger that has not come, one behind a fence, and one that completes with a cause and a token. -/
theorem test_ContextsAndWorkQueues_waits :
    let t := upQ (3 + 2 ^ 10 + 1 * 2 ^ 32)
    let f := upQ (3 + 2 ^ 11)
    let f := { f with kelpie := { f.kelpie with wqes := [⟨3, 0, 1, false, 0⟩] } }
    let f := fset f KELPIE_KQ_CFG__LOG2SIZE 4 3
    let f := fset (storeSector f 0 0 0 ⟨2, leBytes 32 (3 + 2 ^ 11), 0⟩) KELPIE_KQ_PTR__TAIL 2 3
    let v : Wqe := ⟨3, 0, 1 + 2 ^ 8, true, 7⟩
    let d := { t with kelpie := { t.kelpie with wqes := [v] } }
    WqeReady t 3 3 ∧ bitOf (wqeBits t 3) 10 = true ∧ fbit t KELPIE_KQ_PTR__TRIG_FAIL 3 = false
      ∧ trigLeft t 3 < bitsOf (wqeBits t 3) 32 16
      ∧ (let t := fset t KELPIE_KQ_PTR__TRIG_FAIL 1 3; WqeReady t 3 3 ∧ fbit t KELPIE_KQ_PTR__TRIG_FAIL 3 = true)
      ∧ WqeReady f 3 3 ∧ bitOf (wqeBits f 3) 11 = true ∧ kqStarted f 3 ≠ []
      ∧ kqStarted d 3 = [v] ∧ v.cause ≠ 0 ∧ fbit d HUB_CNT_CTRL__SAT_EVT_EN = false
      ∧ (let s := fset d FAB_LINK_STATUS__STATE 2 0; sendCause s (.region 0) (routeMc s .hub 0) = 0) := by
  unfold WqeReady
  decide +kernel

/-- A barrier that is armed, from its pin and from the clock, and a region whose start is due, late and with an armed tile. -/
theorem test_TheBarrierStartsTheDevice :
    let u := powered [312] up
    let a := rset (fset u KELPIE_SYNC_CTRL__ARM 1) HUB_TIME 100000
    let p := fset a KELPIE_SYNC_CTRL__SRC 1
    let r := rset (fset (ring 0 0 up) TILE_COLLIE_CTRL__ARM 1 0) HUB_TIME 100000
    let r := onRegion r 0 fun x => { x with startS := some (1, 1) }
    let o := { a with kelpie := { a.kelpie with syncOut := some 0 } }
    kelpieAny up = false ∧ kelpieAny u = true ∧ kelpieAny a = true ∧ fbit u KELPIE_SYNC_CTRL__ARM = false ∧ fbit a KELPIE_SYNC_CTRL__ARM = true ∧ fget a KELPIE_SYNC_CTRL__SRC = 0
      ∧ a.kelpie.armAt + 2 ≤ aclkCount a ∧ fget p KELPIE_SYNC_CTRL__SRC = 1 ∧ p.kelpie.armAt < aclkCount p ∧ pastStart p = true
      ∧ fbit a HUB_START__PENDING = false ∧ o.kelpie.syncOut = some 0 ∧ 0 + 40 ≤ now o
      ∧ (regionOf r 0).startS = some (1, 1) ∧ domOn r 288 = true ∧ 1 + 1 ≤ aclkCount r ∧ armedTiles r 0 = [0] ∧ configOk r 0 = true
      ∧ r.host.evtBuf.length < 256 ∧ fbit r HOST_EVT_CFG__ENABLE = false ∧ portUp (upN ctx0 up) 0 = true
      ∧ fbit (fset up KELPIE_CTRL__ONESTEP 1) KELPIE_CTRL__ONESTEP = true ∧ fbit up HUB_CNT_CTRL__SAT_EVT_EN = false := by
  decide +kernel

/-- Strict mode free to change and not; a run that may open; a signature that is due. -/
theorem test_StrictModeIsGuardedAndTheDigestSigned :
    let s := fset (fset up OPAL_STATUS__PLAN_VALID 1) OPAL_P_FORMAT_MODE__P 1
    let j := fset { s with mastiff := { s.mastiff with jobs := [.digest [0] 0] } } MBX_STATUS__KEY_OK 1
    fbit s HUB_MODE__STRICT = false ∧ (∀ p, p < 288 → tileState s p = 0 ∧ fbit s TILE_COLLIE_CTRL__ARM p = false)
      ∧ fbit s HUB_START__PENDING = false ∧ s.kelpie.wqes = [] ∧ fbit s OPAL_STATUS__RUN_OPEN = false ∧ s.host.planFeat % 16 = 0
      ∧ tileState (inState 1 s) 0 = 1
      ∧ fbit s OPAL_STATUS__PLAN_VALID = true ∧ fget s OPAL_P_FORMAT_MODE__P = 1 ∧ fbit s OPAL_STATUS__SIG_BUSY = false
      ∧ fbit up OPAL_STATUS__PLAN_VALID = false ∧ j.mastiff.jobs = [.digest [0] 0] ∧ fbit j MBX_STATUS__KEY_OK = true
      ∧ compUp j 0 = true ∧ compUp { j with mastiff := { j.mastiff with crashed := [0] } } 0 = false := by
  decide +kernel

/-- An entry that is accepted and one that is not; each state of Agate; a sweep and held updates. -/
theorem test_AgateUpdatesRebuildsAndSwaps :
    let s := fset (fset (hubbed up) AGATE_STATUS__STATE 2) SEQ_FP_REGION__GOOD 1 0
    let e := 1 + 2 * 2 ^ 16
    let h := fset (fset up AGATE_STATUS__UPD_BUSY 1) SEQ_FP_REGION__GOOD 1 0
    let h := { h with agate := { h.agate with held := [.upd 5 e] } }
    let w := { s with agate := { s.agate with sweep := some (0, 0), log := [(5, e), (6, e)], rebuilt := [6] } }
    domOn s 316 = true ∧ EntryAccepted s e ∧ ¬ EntryAccepted s (1 + 200 * 2 ^ 16) ∧ updHeld s = false ∧ s.agate.held = []
      ∧ s.agate.sweep = none ∧ fbit s AGATE_STATUS__LOG_OVF = false ∧ regionReached s 0 = true
      ∧ (fget s AGATE_GEN__GEN + 1) % 2 ^ 32 = 1 ∧ agateState s = 2 ∧ agateState up = 0
      ∧ fbit h AGATE_STATUS__UPD_BUSY = true ∧ allAcked h h.agate.updWait = true ∧ h.agate.held = [.upd 5 e] ∧ EntryAccepted h e
      ∧ w.agate.sweep = some (0, 0) ∧ fget w BH_STATUS__STATE = 0 ∧ smSorted w.agate.bank0 = true ∧ activeBank w = false
      ∧ (w.agate.bank0.map fun x => (x.1, entDecode x.2)) = [(0, some 1)] ∧ entRefuse w (setBits 1 4 9 0) = 0
      ∧ agateState (fset up AGATE_STATUS__STATE 4) = 4 ∧ allAcked up up.agate.genWait = true ∧ oldPend up = false := by
  unfold EntryAccepted
  decide +kernel

/-- `s` with Topaz enabled, its table at VA 0, and the command `op` on sequence 0. -/
def topaz (op : Nat) (s : State) : State :=
  let s := fset (hubbed s) TOPAZ_CTRL__ENABLE 1
  { s with topaz := { s.topaz with cmd := some ⟨op, 0, 0, 0, 0⟩ } }

/-- An open descriptor of one layer and one head, its heads at VA 1,024. -/
def desc1 : Nat := 1 + 1 * 2 ^ 8 + 1 * 2 ^ 16 + 1024 * 2 ^ 64

/-- OPEN with a good and with a bad stage, READ, CLOSE and TRUNCATE of a cached descriptor, and pools with and without room. -/
theorem test_TopazKeepsSequencesPoolsAndAppends :
    let s := topaz 1 up
    let g := rset s TOPAZ_STAGE (1 * 2 ^ 8 + 1 * 2 ^ 16) 0
    let r := hubRead (bump s TOPAZ_CACHE_MISS_COUNT) 7 (descVa s 0) 64
    let c := fun (op : Nat) => let x := topaz op up; { x with topaz := { x.topaz with cache := [(0, desc1)] } }
    let z := seqPages desc1 [(0, 0)] (c 2)
    let h := hubRead (c 4) 7 (headVa desc1 0 0) 32
    fbit s TOPAZ_CTRL__ENABLE = true ∧ r.2.cause = 0 ∧ r.2.tag = 0 ∧ bitsOf (leNat r.2.bytes) 0 2 = 0
      ∧ stagedOk (staged s) = false ∧ stagedOk (staged g) = true
      ∧ (c 3).topaz.cache.find? (fun x => x.1 = 0) = some (0, desc1) ∧ s.topaz.cache = []
      ∧ bitsOf desc1 0 2 = 1 ∧ (c 2).topaz.flight = [] ∧ z.2 = some [] ∧ dLayers desc1 = 1 ∧ dHeads desc1 = 1
      ∧ h.2.tag = 0 ∧ h.2.cause = 0 ∧ (pagesFrom (leNat h.2.bytes) 4096 0 h.1).2 = some []
      ∧ poolCount up 0 < poolSize up 0 ∧ (let f := fset up TOPAZ_POOL_PTR__TAIL 256 0; poolSize f 0 ≤ poolCount f 0) := by
  decide +kernel

/-- An append to resolve, to a log of tile 0 with one page, and one whose writes are done. -/
theorem test_TopazAppends :
    let a : Append := ⟨0, 0, .dma, 0, 0, 0, 3, 1, true, [], [], 0, none, none, 0, [], false⟩
    let at_ := fun (a : Append) =>
      let x := { topaz 1 up with topaz := { up.topaz with cache := [(0, desc1)] } }
      let x := fset (fset x REGION_BIND__BOUND 1 0 0) REGION_BIND__SLOT 0 0 0
      let x := storeSector x 0 0 0 ⟨32, leBytes 32 (2 ^ 73 + 2048 * 2 ^ 80 + 1 * 2 ^ 128), 0⟩
      onTile x 0 fun t => { t with appends := [a], qDma := [{ cmd 0x31 .active with apps := [0] }] }
    let s := at_ a
    let r := hubRead s 7 (headVa desc1 0 0) 32
    let h := leNat r.2.bytes
    let d := at_ { a with res := some [] }
    tileUp s 0 = true ∧ appendBy s 0 0 = some a ∧ appendWaits s a = false ∧ firstAppend s a = true
      ∧ fbit s TOPAZ_CTRL__ENABLE = true ∧ s.topaz.cmd = none ∧ bitsOf desc1 0 2 = 1 ∧ 0 < dLayers desc1 ∧ 0 < dHeads desc1
      ∧ r.2.tag = 0 ∧ r.2.cause = 0 ∧ bitOf h 73 = true ∧ bitsOf h 64 9 = logField s 0
      ∧ (∀ i ∈ partsOf a.part, tailOf h i + a.ntok ≤ 256 * bitsOf h 128 13)
      ∧ appendBy d 0 0 = some { a with res := some [] } ∧ (cmdBy (tileOf d 0) .dma 0).map (fun c => c.apps) = some [0] := by
  decide +kernel

/-- `up` with tile 0 good and slot 0 of region 0 bound to it. -/
def bound0 : State := fset (fset (fset up SEQ_FP_REGION__GOOD 1 0) REGION_BIND__SLOT 0 0 0) REGION_BIND__BOUND 1 0 0

/-- A table that may be written, one that breaks a rule, and one that is held. -/
theorem test_BindingWritesObeyTheirRules : domOn bound0 288 = true ∧ ¬ BindingHeld bound0 0 ∧ BindingHeld (inState 1 up) 0
    ∧ ¬ BindingBroken bound0 0 ∧ BindingBroken (fset up REGION_STANDBY__MASK 1 0) 0 := by
  have hb : ∀ k, k < 18 → fbit bound0 REGION_BIND__BOUND 0 k = true → k = 0 := by decide +kernel
  have hm : ∀ x, x < 18 → bitOf (fget bound0 REGION_STANDBY__MASK 0) x = false := by decide +kernel
  have hg : tileGood bound0 0 = true ∧ fenced bound0 0 = false ∧ fget bound0 REGION_BIND__SLOT 0 0 = 0 := by decide +kernel
  refine ⟨by decide +kernel, by unfold BindingHeld; decide +kernel, by unfold BindingHeld; decide +kernel, ?_,
    .inr (.inl ⟨0, by decide +kernel, .inl (by decide +kernel)⟩)⟩
  rintro (⟨k, ⟨hk, h⟩, hx⟩ | ⟨x, ⟨hx, h⟩, -⟩ | ⟨j, k, ⟨hj, h⟩, ⟨hk, h'⟩, hne, -⟩ | ⟨k, -, hx, h⟩ | ⟨x, ⟨hx, h⟩, -⟩)
  · obtain rfl := hb k hk h
    simp [hg.1, hg.2.1, hg.2.2] at hx
  · simp [hm x hx] at h
  · exact hne ((hb j hj h).trans (hb k hk h').symm)
  · simp [hm _ hx] at h
  · simp [hm x hx] at h

/-! ### Faults, temperatures, power and resets -/

/-- A fence report of tile 0. -/
def rep0 : FenceRep := ⟨0, 0, 0x0F, none⟩

/-- A recovery of logical tile 0, lost on tile 1, with standby `b`. -/
def rec0 (b : Option Nat) (swapped : Bool) : Recov := ⟨rep0, some 0, b, 1, swapped, 0, 0, 0⟩

/-- `up` in Bloodhound state `st` with the recovery `r`. -/
def healing (st : Nat) (r : Recov) : State :=
  fset { up with blood := { up.blood with recov := some r } } BH_STATUS__STATE st

/-- A tile with a fault to report, a report to take with and without a logical tile, and each state of a recovery. -/
theorem test_AFencedTileIsRecoveredOnAStandby :
    let f := onTile up 0 fun t => { t with reports := [⟨0x0F, 0⟩] }
    let q := fset { up with blood := { up.blood with reports := [rep0] } } BH_CTRL__RECOVER_EN 1
    let l := fset q REGION_BIND__BOUND 1 0 0
    let b := fset (fset (healing 1 (rec0 none false)) REGION_STANDBY__MASK 2 0) TILE_COLLIE_STATUS__QUIET 1 0
    let v := bankSet (healing 4 (rec0 (some 0) true)) false 0 1
    (tileOf f 0).reports = [⟨0x0F, 0⟩] ∧ domOn f 288 = true ∧ fenced f 0 = false ∧ compUp up 2 = true
      ∧ fget q BH_STATUS__STATE = 0 ∧ fbit q BH_CTRL__RECOVER_EN = true ∧ devFailed q = false ∧ stopHeld q = false
      ∧ rep0.again = none ∧ rep0.region = 0 ∧ rep0.slot = 0 ∧ q.blood.reports = [rep0]
      ∧ logOf q 0 = none ∧ logOf l 0 = some 0
      ∧ fget b BH_STATUS__STATE = 1 ∧ (∀ p, p < 288 → tileRuns b p = true → fbit b TILE_COLLIE_STATUS__QUIET p = true)
      ∧ agateState b = 0 ∧ LowestStandby b 0 1
      ∧ (∀ k, k < 18 → bitOf (fget (fset b REGION_STANDBY__MASK 0 0) REGION_STANDBY__MASK 0) k = false)
      ∧ fget (healing 3 (rec0 (some 0) true)) BH_STATUS__STATE = 3 ∧ fget v BH_STATUS__STATE = 4
      ∧ v.blood.recov = some (rec0 (some 0) true) ∧ entriesOn v 0 0 = [0] ∧ entKind (entryAt v 0) = 0
      ∧ entriesOn (healing 4 (rec0 (some 0) true)) 0 0 = [] ∧ fget v BH_STATUS__PAGES_LEFT = 0 ∧ vaultBusy v 0 = false := by
  unfold LowestStandby
  decide +kernel

/-- `up` with a parity group at index 0: entry k on tile 18 k, the last one the parity. -/
def parity : State :=
  let s := powered ((List.range 15).map (fun k => 289 + k) ++ (List.range 15).map fun k => 18 * (k + 1)) up
  let s := forS [0, 1, 2, 3] (fun d st => fset st FAB_LINK_STATUS__STATE 2 d) (powered [305, 306, 307] s)
  forS (List.range 16) (fun k st => bankSet st false k (1 + 2 + (if k = 15 then 2 else 1) * 2 ^ 2 + 18 * k * 2 ^ 4)) s

/-- A parity command with no group, with a group that is not well formed and with one that is. -/
theorem test_AFencedTileIsRecoveredOnAStandby_parity :
    let s := fset parity BH_PARITY_CMD__COUNT 1
    let n := bankSet s false 3 0
    fget s BH_PARITY_CMD__FIRST_GROUP = 0 ∧ fget s BH_PARITY_CMD__COUNT = 1 ∧ noGroup (groupOf s 0) = false
      ∧ goodGroup (groupOf s 0) = true ∧ noGroup (groupOf n 0) = false ∧ goodGroup (groupOf n 0) = false
      ∧ noGroup (groupOf up 0) = true ∧ parityShut s (groupOf s 0) = false
      ∧ parityShut (fset s FAB_LINK_STATUS__STATE 0 3) (groupOf s 0) = true := by decide +kernel

/-- A region that fails; a die that may drain, that may not for each cause, and that drains, resets and is lost. -/
theorem test_RegionsAndDiesFailAndDrain :
    let d := fun (n : Nat) => rset up BH_DIE_STATUS n
    MemsCanonical up ∧ fbit up REGION_FAULT__VALID 0 = false ∧ fbit up REGION_FENCE__REGION_FENCED 0 = false
      ∧ fbit up HOST_EVT_CFG__ENABLE = false ∧ up.host.evtBuf.length < 255
      ∧ (∀ p, p < 288 → tileState up p = 0 ∧ fbit up TILE_COLLIE_CTRL__ARM p = false) ∧ activeBank up = false ∧ up.agate.bank0 = []
      ∧ fget up BH_STATUS__STATE = 0 ∧ (∀ e, e < 4 → dieState up e = 0)
      ∧ tileState (inState 1 up) 0 = 1 ∧ (let b := bankSet up false 0 1; entValid (entryAt b 0) = true ∧ entTile (entryAt b 0) / 72 = 0)
      ∧ fget (healing 1 (rec0 none false)) BH_STATUS__STATE ≠ 0
      ∧ dieState (d 1) 0 = 1 ∧ dieIdle (d 1) 0 = true ∧ dieState (d 2) 0 = 2 ∧ pdState (fset (d 2) HUSKY_PD_STATE__STATE 0 304) 304 = 0
      ∧ stopHeld up = false ∧ up.boot.resetLow = none ∧ 304 ∉ up.boot.excluded ∧ dieState (d 3) 0 = 3 ∧ domOn (d 3) 304 = true
      ∧ compUp (d 3) 2 = true ∧ up.blood.isolated.contains 0 = false
      ∧ lossSeen up 0 2 = true ∧ fbit up BH_DEV_FAULT__VALID = false := by
  unfold MemsCanonical
  decide +kernel

/-- `up` with a valid sensor 0 at `t` degrees. -/
def hot (t : Nat) : State := fset (fset up HUSKY_SENSOR__TEMP (8 * t) 0) HUSKY_SENSOR__VALID 1 0

/-- A sensor that throttles and one that stops; the sensors of a sample; a stop that ends with a request pending, and one that may
be left, with a domain to bring back. -/
theorem test_TemperaturesThrottleAndStop :
    let st := { up with husky := { up.husky with stopAt := some 0, requests := [⟨1, 1, true⟩] } }
    let f := rset { up with husky := { up.husky with flowOkSince := some 0, resumeOn := [1] } } HUB_TIME 1000000000
    let m := { up with husky := { up.husky with monOn := true } }
    (StopSensor (hot 120) 0 0 ∧ ThrottleSensor (hot 100) 0)
      ∧ m.husky.monOn = true ∧ up.husky.monOn = false ∧ sensorOn m 0 = true ∧ smFind m.husky.selfPrev 0 = none
      ∧ pdState f 1 = 0 ∧ mayBeOn f 1 = true ∧ f.boot.resetLow = none ∧ allQuiet (fset st TILE_COLLIE_STATUS__QUIET 0 0) = false
      ∧ fbit up HUSKY_SENSOR__BROKEN 0 = false ∧ up.husky.stoppedAt = none ∧ stopHeld up = false ∧ stopHeld st = true
      ∧ st.husky.stopAt = some 0 ∧ 0 + 200000 ≤ now (rset st HUB_TIME 200000) ∧ f.husky.stopAt = none
      ∧ (∀ i, i < 1000 → fbit f HUSKY_SENSOR__BROKEN i = false ∧ sensorValid f i = false)
      ∧ (∀ g, g < 16 → fget f REGION_DRAM_BAND__BAND g ≠ 2) ∧ f.husky.flowOkSince = some 0 ∧ 0 + 1000000000 ≤ now f := by
  refine ⟨⟨⟨by decide, by decide +kernel, by decide +kernel, by decide, by decide +kernel⟩, by decide, by decide +kernel,
    .inr ⟨by decide, by decide +kernel⟩⟩, ?_⟩
  decide +kernel

/-- The invariant with the monitor on, a request pending and a domain to bring back. -/
theorem test_TemperaturesThrottleAndStop_canonical :
    MemsCanonical { up with husky := { up.husky with monOn := true, requests := [⟨1, 1, true⟩], resumeOn := [1] } } := by
  unfold MemsCanonical
  decide +kernel

/-- The firmware's steps, a report of the tray in and out of sequence, and a demand with and without a reason. -/
theorem test_PowerIsEstimatedCappedAndCooled :
    let s := fset (fset up HUSKY_CTRL__PREDICT_EN 1) HUSKY_TRAY_CFG__NOM_FLOW 100
    let q := { s with husky := { s.husky with monOn := true, lastSeq := some 4, lowRun := 1 } }
    let f := 90 * 2 ^ 32 + 5 * 2 ^ 48
    let d := { s with husky := { s.husky with demandMax := true } }
    let e := fset s HUSKY_TRAY_STATUS__DEMAND 120
    MemsCanonical s ∧ compUp s 1 = true ∧ fbit s HUSKY_CTRL__PREDICT_EN = true ∧ trayKnown s = false ∧ trayKnown q = true
      ∧ compUp q 1 = true ∧ s.husky.resumeOn = [] ∧ compUp { q with mastiff := { q.mastiff with crashed := [1] } } 1 = false
      ∧ fget s HUSKY_TRAY_CFG__NOM_FLOW = 100 ∧ q.husky.lastSeq = some 4 ∧ bitsOf f 48 8 = (4 + 1) % 256
      ∧ now q ≤ q.husky.reportAt + 15000000 ∧ bitsOf f 32 16 = 90 ∧ bitOf f 57 = false ∧ 0 < q.husky.lowRun
      ∧ fget s HUSKY_TRAY_STATUS__DEMAND = 0 ∧ s.husky.demandMax = false ∧ s.husky.flows = [] ∧ d.husky.demandMax = true
      ∧ 100 < fget e HUSKY_TRAY_STATUS__DEMAND
      ∧ (let z := rset e HUB_TIME (2 ^ 60); z.husky.demandAt + fget z HUSKY_TRAY_CFG__TAU * 1000000 ≤ now z)
      ∧ 5 ≤ { s.husky with missing := 4 }.missing + 1 ∧ fbit s HUSKY_STATUS__TRAY_LOST = false
      ∧ inRun s 0 = false ∧ inRun (inState 1 s) 0 = true ∧ domOn s 0 = true := by
  unfold MemsCanonical
  decide +kernel

/-- A domain that may go on, off and change; one refused for each cause; and what a reset finds. -/
theorem test_DomainsSwitchAndResetsRestart :
    let r := { up with husky := { up.husky with requests := [⟨1, 1, true⟩], rampUp := Config.staticMw 1 } }
    MemsCanonical up ∧ up.husky.requests = [] ∧ pdState up 1 = 0 ∧ fget up HUSKY_STATUS__STATE = 0 ∧ up.husky.stopAt = none
      ∧ (∀ m ∈ parentsOf 1, domOn up m = true) ∧ domOn up 1 = false ∧ domOn up 0 = true ∧ tileState up 0 = 0
      ∧ fbit up TILE_COLLIE_CTRL__ARM 0 = false ∧ (∀ m, m < 325 → 0 ∈ parentsOf m → domOn up m = false)
      ∧ (∃ m, m < 325 ∧ 288 ∈ parentsOf m ∧ domOn up m = true) ∧ tileState (inState 1 up) 0 = 1
      ∧ pdState (fset up HUSKY_PD_STATE__STATE 3 1) 1 = 3 ∧ (∃ m ∈ parentsOf 18, domOn up m = false)
      ∧ r.husky.requests = [⟨1, 1, true⟩] ∧ (∀ m ∈ parentsOf 1, domOn r m = true)
      ∧ (∃ m ∈ parentsOf 1, domOn (fset r HUSKY_PD_STATE__STATE 0 288) m = false) ∧ fenced up 0 = false ∧ fbit up REGION_FENCE__REGION_FENCED 0 = false
      ∧ fbit up BH_DEV_FAULT__VALID = false
      ∧ fget { up with husky := { up.husky with stopAt := some 0 } } HUSKY_STATUS__STATE = 0 := by
  unfold MemsCanonical
  decide +kernel

/-- A pending request that fits into what RAMP leaves. -/
theorem test_DomainsSwitchAndResetsRestart_ramp :
    let r := { up with husky := { up.husky with requests := [⟨1, 1, true⟩], rampUp := Config.staticMw 1 } }
    Config.staticMw 1 ≤ r.husky.rampUp := Nat.le_refl _

/-- A domain that is excluded, RESET_N low, a quad without a mode, and a host copy that a lost link ends. -/
theorem test_DomainsSwitchAndResetsRestart_turned :
    let x := { up with boot := { up.boot with excluded := [1], resetLow := some 0 } }
    let a : Bar2Acc := ⟨1, false, [], [], none, [], false, 0, [], some ⟨0, 9, 0, 0⟩, false⟩
    let h := { up.host with bar2 := [a], cmds := [⟨0, 9, 5, 5, true, none, 0, none⟩] }
    up.boot.resetLow = none ∧ 1 ∉ up.boot.excluded ∧ 1 ∈ x.boot.excluded ∧ pdState x 1 = 0 ∧ x.boot.resetLow.isSome = true
      ∧ portMode up 0 = 0 ∧ h.bar2 = [a] ∧ a.write = false ∧ a.copy = some ⟨0, 9, 0, 0⟩
      ∧ h.cmds.map (fun c => (c.ring, c.cid)) = [(0, 9)] := by decide +kernel

/-! ### Firmware, bring-up and the host -/

/-- The least configuration set: the step list, the device record, the tray record, and the end. Its hash is SHA3-512 of the body
as Python's hashlib gives it. -/
def cfgSet : List Byte :=
  ([0x15343474E, 80, 0x625A7762797375D0, 0xB887F8A79352D832, 0x1D989B6E983D129D, 0x1213BC3EFF3075B0,
    0x3EB7B679F74817F8, 0xBCBBE07F6F5B3EBA, 0xAF61CE6390963815, 0x24FF4232AC693F0E] ++ List.replicate 6 0
    ++ [0x30001, 0x4000300020001, 0x8000700060005, 0xA0009, 0x10002, 0x412500, 0x20005, 0, 0, 0]).flatMap (leBytes 8)

/-- The device record of `cfgSet` admits its guarantees, which are zero. -/
theorem test_cfgSet_admits : setAdmits ⟨[1125912791875585, 2251829878849541, 655369], 4269312, [], [], [0, 0]⟩ = true := by
  decide +kernel

/-- `cfgSet` is valid. -/
theorem test_cfgSet : setCause cfgSet none = 0 := by
  have hp : parseSet cfgSet = some ⟨[1125912791875585, 2251829878849541, 655369], 4269312, [], [], [0, 0]⟩ := by decide +kernel
  have h1 : ¬ (cfgSet.length < 128 ∨ bitsOf (setHeader cfgSet) 0 32 ≠ 0x5343474E ∨ bitsOf (setHeader cfgSet) 32 16 ≠ 1) := by
    decide +kernel
  have h2 : (!setShape (setHeader cfgSet)) = false := by decide +kernel
  have h3 : ¬ (cfgSet.length < 128 + setLength (setHeader cfgSet)
      ∨ hashOf (slice cfgSet 128 (setLength (setHeader cfgSet))) ≠ bitsOf (setHeader cfgSet) 128 512
      ∨ (none : Option Nat).getD (bitsOf (setHeader cfgSet) 128 512 % 2 ^ 127) ≠ bitsOf (setHeader cfgSet) 128 512 % 2 ^ 127) := by
    decide +kernel
  unfold setCause
  simp only [if_neg h1, h2, if_neg h3, hp, test_cfgSet_admits]
  decide +kernel

/-- The nonzero bytes of `bs` from address `a` on. -/
def cells : Nat → List Byte → Memory
  | _, [] => []
  | a, b :: bs => if b = 0 then cells (a + 1) bs else (a, b) :: cells (a + 1) bs

/-- `s` with `bs` alone at the VA of word `w`. -/
def loaded (w : Nat) (bs : List Byte) (s : State) : State :=
  { hubbed s with
    vaultData := cells (8 * w) bs, vaultChk := cells w ((wordsOf (bs.length / 8) bs).map fun w => BitVec.ofNat 8 (lightCheck w)) }

/-- The pointer record of SEQ 5 to slot 1. -/
def withSet : State := { up with flash := { up.flash with slot1 := cfgSet, ptrA := [5 + 1 * 2 ^ 32] } }

/-- An image that is refused, a report to sign and one signed, and compartments that crash and restart. -/
theorem test_FirmwareSetsAndReportsAreGuarded :
    let w := fset up MBX_STATUS__RECOVERY_WAIT 1
    let k := fset { up with mastiff := { up.mastiff with jobs := [.report [0]] } } MBX_STATUS__KEY_OK 1
    let c := fset { up with mastiff := { up.mastiff with crashed := [3] } } HUB_BOOT_STATUS__STAGE 7
    MemsCanonical up ∧ compUp w 0 = true ∧ fbit w MBX_STATUS__RECOVERY_WAIT = true ∧ fbit w MBX_STATUS__BUSY = false
      ∧ verifyImage w [] [0, 1] ≠ 0 ∧ fbit up MBX_STATUS__RECOVERY_WAIT = false
      ∧ fbit k MBX_STATUS__BUSY = false ∧ fbit k MBX_STATUS__KEY_OK = true ∧ k.mastiff.jobs = [.report [0]]
      ∧ compUp up 3 = true ∧ compUp c 3 = false ∧ compUp c 0 = true ∧ compUp c 2 = true ∧ fget c HUB_BOOT_STATUS__STAGE = 7
      ∧ (let b := { c with mastiff := { c.mastiff with crashed := [2] }, blood := { c.blood with recov := some (rec0 none false) } }
        compUp b 2 = false ∧ b.blood.recov.isSome = true) := by
  unfold MemsCanonical
  decide +kernel

/-- A set written from memory, a swap to a valid set and to none, and its quiet point. -/
theorem test_FirmwareSetsAndReportsAreGuarded_sets :
    (let s := loaded 230 cfgSet (fset up HUB_CFG_SRC__VA 230)
      let a := hubRead s 7 (fget s HUB_CFG_SRC__VA * 8) 128
      let b := hubRead a.1 7 (fget s HUB_CFG_SRC__VA * 8 + 128) (setLength (leNat a.2.bytes))
      fbit s HUB_CFG_STATUS__BUSY = false ∧ fbit s HUB_CFG_STATUS__PENDING = false ∧ a.2.cause = 0 ∧ a.2.tag = 0
        ∧ setShape (leNat a.2.bytes) = true ∧ b.2.cause = 0 ∧ b.2.tag = 0 ∧ a.2.bytes ++ b.2.bytes = cfgSet)
    ∧ setCause cfgSet none = 0 ∧ setCause [] none ≠ 0
    ∧ (let s := { up with flash := { up.flash with slot1 := cfgSet } }
      activeSlot s = 0 ∧ slotImage s 1 = cfgSet ∧ activePtr s = none ∧ slotImage up 1 = [])
    ∧ (let s := fset withSet HUB_CFG_STATUS__PENDING 1
      activePtr s = some (5 + 1 * 2 ^ 32) ∧ fbit s HUB_CFG_STATUS__PENDING = true ∧ slotImage s 1 = cfgSet
        ∧ quietNow s false = true ∧ s.boot.set = none) :=
  ⟨by decide +kernel, test_cfgSet, by decide +kernel, by decide +kernel, by decide +kernel⟩

/-- `up` in step `n` of a sequence. -/
def atStep (n : Nat) : State := fset (fset up SEQ_STATUS__STATE 1) SEQ_STATUS__CUR n

/-- Every step runs; a step that ended well, one that failed, and one that takes too long. -/
theorem test_BringUpStepsRunInOrder :
    MemsCanonical up ∧ (∀ n, n ≤ 10 → fget (atStep n) SEQ_STATUS__STATE = 1 ∧ fget (atStep n) SEQ_STATUS__CUR = n)
      ∧ up.boot.out = none ∧ compUp up 3 = true ∧ up.boot.set = none ∧ (∀ d, d < 4 → pdState up (304 + d) < 2) ∧ stopHeld up = false
      ∧ up.boot.excluded = [] ∧ up.boot.resetLow = none ∧ isGood up 0 = true ∧ domOn up 0 = true ∧ isGood up 1 = true
      ∧ chanActive upV 0 0 = true ∧ 0 < chanRows upV 0 ∧ (bootModes up).boot.ready = up.boot.ready ∧ fbit up HUSKY_STATUS__TRIPPED = false
      ∧ (let s := { atStep 10 with boot := { up.boot with out := some 0 } }
        s.boot.replay = [] ∧ fbit s HOST_EVT_CFG__ENABLE = false ∧ s.host.evtBuf.length < 255)
      ∧ (∀ c ∈ [0, 4], let s := { atStep 3 with boot := { up.boot with out := some c } }
        fget s SEQ_STATUS__STATE = 1 ∧ s.boot.out = some c ∧ fget s SEQ_STATUS__CUR = 3)
      ∧ (let s := rset (atStep 3) HUB_TIME (2 ^ 60)
        s.boot.stepAt + stepLimitMs 3 s.boot.arg * 1000000 ≤ now s ∧ fget s SEQ_STATUS__CUR = 3) := by
  unfold MemsCanonical
  decide +kernel

/-- `atStep 10` with a valid set in force. -/
theorem test_BringUpStepsRunInOrder_set :
    let s := { atStep 10 with boot := { up.boot with set := some cfgSet } }
    fget s SEQ_STATUS__STATE = 1 ∧ fget s SEQ_STATUS__CUR = 10 ∧ s.boot.out = none ∧ compUp s 3 = true ∧ s.boot.set = some cfgSet
      ∧ setCause cfgSet none = 0 ∧ (parseSet cfgSet).isSome = true :=
  ⟨by decide +kernel, by decide +kernel, by decide +kernel, by decide +kernel, rfl, test_cfgSet, by decide +kernel⟩

/-- `up` with command ring 0 of 16 entries enabled, its queues at BAR4 offsets 0 and 4,096, every feature granted, the host link
up, and the entry `e` submitted. -/
def submitted (e : Nat) : State :=
  let s := forS [(HOST_RING_CFG__ENABLE, 1), (HOST_RING_CFG__SQ_LOG2, 4), (HOST_RING_CFG__CQ_LOG2, 4), (HOST_RING_CFG__CQ_BASE, 1),
    (DB_SQ_TAIL__INDEX, 1), (HOST_NEG_CTRL__GRANTED, 1)] (fun x st => fset st x.1 x.2 0) (rset (hubbed up) HOST_FEAT_GRANT 7 0)
  { s with bar4 := memWrite s.bar4 0 (leBytes 64 e), host := { s.host with linkUp := true, bme := true, pci := { s.host.pci with memEnable := true } } }

/-- A completion to consume, a ring to enable, and a negotiation. -/
theorem test_RingsAndLinkFollowTheirIndices :
    let s := fset (submitted 0) HOST_RING_STATE__CQ_TAIL 2 0
    let v := 1 + 4 * 2 ^ 4 + 4 * 2 ^ 9 + 2 * 2 ^ 16 + 3 * 2 ^ 32
    let n := rset up HOST_FEAT_REQ 1 0
    let n := fset n HOST_NEG_CTRL__HOST_MAJOR (fget n HOST_ABI__MAJOR) 0
    2 < 2 ^ fget s HOST_RING_CFG__CQ_LOG2 0 ∧ fget s DB_CQ_HEAD__INDEX 0 = 0 ∧ fget s HOST_RING_STATE__CQ_TAIL 0 = 2
      ∧ fbit s HOST_RING_CFG__ENABLE 0 = true ∧ s.host.cmds = [] ∧ fbit s HOST_RING_CFG__ENABLE 1 = false
      ∧ fbit s HOST_NEG_CTRL__GRANTED = true ∧ bitsOf v 4 5 = 4 ∧ bitsOf v 9 5 = 4
      ∧ (∀ x ∈ ringSpans v, x.1 + x.2 ≤ 2 ^ 25 ∧ ∀ y ∈ ringSpans (rget s HOST_RING_CFG 0), spansMeet x y = false)
      ∧ (∀ q, q < 64 → q ≠ 0 → fbit s HOST_RING_CFG__ENABLE q = false) ∧ fbit s HOST_EVT_CFG__ENABLE = false
      ∧ spansMeet (bitsOf v 16 13 * 4096, 2 ^ bitsOf v 4 5 * 64) (bitsOf v 32 13 * 4096, 2 ^ bitsOf v 9 5 * 32) = false
      ∧ compUp n 3 = true ∧ fget n HOST_NEG_CTRL__HOST_MAJOR = fget n HOST_ABI__MAJOR ∧ bitOf (rget n HOST_FEAT_REQ 0) 0 = true
      ∧ (∀ r, r < 64 → fbit n HOST_RING_CFG__ENABLE r = false) := by decide +kernel

/-- A coalescing timer that is due, a link that comes up, and BAR2 accesses to the vaults and to the customer window. -/
theorem test_RingsAndLinkFollowTheirIndices_link :
    let s := submitted 0
    let t := rset { s with host := { s.host with oldest := [(0, 0)], unsig := [(0, 1)] } } HUB_TIME (2 ^ 40)
    let w := fset { up with host := { up.host with waiting := [.irq 0], pci := { up.host.pci with msixEnable := true } } }
      MSIX_DATA__MASK 0 0
    let c := fset s PCIE_BAR2_BASE__VA 16 0
    let l := vaPieces 2 0 64
    let acc : Bar2Acc := ⟨64, false, [], l, none, [], false, 0, [], none, false⟩
    let q := { s with hubQos := ⟨[(0, (now s, [2 ^ 6]))], [(6, 1)]⟩ }
    let h := fset { s with host := { s.host with bar2 := [{ acc with wait := some (7, false) }] } } FAB_LINK_STATUS__STATE 2 8
    MemsCanonical s ∧ smFind t.host.oldest 0 = some 0 ∧ smGet t.host.unsig 0 0 ≠ 0 ∧ 0 + (coalOf t 0).2 * 1000 ≤ now t
      ∧ domOn w 314 = true ∧ w.host.waiting = [.irq 0] ∧ irqMasked w 0 = false ∧ barsOpen s = true ∧ barsOpen up = false
      ∧ s.host.bar2 = [] ∧ vaCust (fget s PCIE_BAR2_BASE__VA * 2 ^ 36) = false ∧ l = [(0, 64)]
      ∧ pieceWaits (hubReadPieces s 6 (l.take 0)).1 acc (0, 64) = false ∧ l[1]? = none
      ∧ pieceWaits (hubReadPieces q 6 (l.take 0)).1 acc (0, 64) = true ∧ (hubReadPieces q 6 (l.take 0)).2.cause = 0
      ∧ pieceWaits (hubWritePieces q [0, 0] 0 6 []).1 { acc with write := true } (0, 2) = true
      ∧ (hubWritePieces q [0, 0] 0 6 []).2 = 0 ∧ pieceWaits s { acc with write := true } (0, 2) = false
      ∧ barsOpen h = true ∧ (h.host.bar2.head?).map (fun x => x.wait.isSome) = some true
      ∧ linkDown h 16 = false
      ∧ (hubRead s 6 0 64).2.cause = 0 ∧ (hubWrite s 0 [0, 0] 0 0).2 = 0 ∧ c.host.bar2 = [] ∧ barsOpen c = true
      ∧ vaCust (fget c PCIE_BAR2_BASE__VA * 2 ^ 36) = true := by
  unfold MemsCanonical
  decide +kernel

/-- A register that only stores, one that does not answer, a counter, and writes of one half. -/
theorem test_RingsAndLinkFollowTheirIndices_registers :
    ((regAt 0x00000038).map fun a => (a.info.reg, a.info.counter)) = some (HUB_CNT_CTRL, false) ∧ blockOn up 0x38 = true
      ∧ HUB_CNT_CTRL ∉ actingRegs ∧ regAt 0x40000 = none ∧ blockOn up 0x031F1000 = false
      ∧ ((counterAt up 0x00700090).map fun a => a.info.reg) = some HOST_CMD_COUNT ∧ counterAt up 0x38 = none
      ∧ hostRead (counterLow (rset up HOST_CMD_COUNT (5 * 2 ^ 32 + 7)) 0 0x00700090) 0x00700094 true = 5 := by decide +kernel

/-- A 32-bit write of the high half triggers nothing in the low half (R15), and write-only fields read as zero (Table 0.5). -/
theorem test_half_writes :
    registerAccess up 0x00100004 true 1 = up ∧ registerAccess up 0x0040000C true 5 = up
      ∧ (registerAccess (registerAccess up 0x00501010 true 0x12340000) 0x00501014 true 0xAB).topaz = up.topaz
      ∧ readAt (registerAccess up 0x00501010 true 0x12340000) 0x00501010 = 0 := by decide +kernel

/-- One entry of each opcode: served, good, and not busy. -/
theorem test_HostCommandsRunAndComplete :
    (∀ e ∈ [0, 1 + 64 * 2 ^ 128, 2, 3, 4, 5 + 32 * 2 ^ 256, 6 + 32 * 2 ^ 128],
      let s := submitted e
      compUp s 3 = true ∧ nextRing s = some 0 ∧ headEntry s 0 = e ∧ badEntry e = false ∧ featGranted s (entOp e) = true
        ∧ s.host.cmds = [] ∧ fbit s HUB_CNT_CTRL__SAT_EVT_EN = false)
    ∧ badEntry (submitted 7 |> fun s => headEntry s 0) = true ∧ nextRing (submitted 7) = some 0
    ∧ featGranted (rset (submitted 5) HOST_FEAT_GRANT 1 0) 5 = false
    ∧ MemsCanonical (submitted 0) ∧ strictBusy (submitted 2) = false ∧ strictBusy (inState 1 (submitted 2)) = true
    ∧ hostReady (submitted 5) = true ∧ compUp (submitted 6) 0 = true := by
  unfold MemsCanonical
  decide +kernel

/-- PLAN_RUN of a loaded plan, its end, and ABORT of a command in progress and of one that has ended. -/
theorem test_HostCommandsRunAndComplete_plans :
    let load := fun (s : State) => fset { s with host := { s.host with plan := [0] } } OPAL_STATUS__PLAN_VALID 1
    let p := fset (fset (load (submitted 3)) REGION_BIND__BOUND 1 0 0) REGION_BIND__SLOT 0 0 0
    let k : HostCmd := ⟨0, 9, 3, 3, true, none, 0, none⟩
    let r := { p with host := { p.host with cmds := [k] } }
    let a := submitted (4 + 9 * 2 ^ 80)
    let c := { a with host := { a.host with cmds := [k] } }
    let f := { a with host := { a.host with finals := [(0, 9, 0)] } }
    fbit p OPAL_STATUS__PLAN_VALID = true ∧ planTiles p = [0] ∧ tileState p 0 = 0 ∧ fbit p TILE_COLLIE_CTRL__ARM 0 = false
      ∧ stopHeld p = false ∧ p.host.planRegs = [] ∧ physOf p 0 = some 0 ∧ tileOpen p 0 = true
      ∧ planRunOf r 0 = some k ∧ compUp r 3 = true ∧ planEnded r = true ∧ bitsOf k.entry 128 48 = 0
      ∧ nextRing c = some 0 ∧ (hostStarted c 0).host.cmds.find? (fun x => x.ring = 0 && x.cid = 9) = some k
      ∧ f.host.finals.find? (fun x => x.1 = 0 && x.2.1 = 9) = some (0, 9, 0)
      ∧ (hostStarted f 0).host.cmds.find? (fun x => x.ring = 0 && x.cid = 9) = none := by decide +kernel

/-- ABORT of an entry of ring 1 that its FENCE holds. -/
theorem test_HostCommandsRunAndComplete_queued :
    let a := submitted (4 + 1 * 2 ^ 64 + 5 * 2 ^ 80)
    let a := forS [(HOST_RING_CFG__ENABLE, 1), (HOST_RING_CFG__SQ_LOG2, 4), (HOST_RING_CFG__CQ_LOG2, 4), (HOST_RING_CFG__SQ_BASE, 2),
      (HOST_RING_CFG__CQ_BASE, 3), (DB_SQ_TAIL__INDEX, 1)] (fun x st => fset st x.1 x.2 1) a
    let s := { a with
      bar4 := memWrite a.bar4 8192 (leBytes 64 (2 ^ 8 + 5 * 2 ^ 16)), host := { a.host with cmds := [⟨1, 9, 3, 3, true, none, 0, none⟩] } }
    nextRing s = some 0 ∧ headEntry s 0 = 4 + 1 * 2 ^ 64 + 5 * 2 ^ 80 ∧ badEntry (headEntry s 0) = false
      ∧ featGranted s (entOp (headEntry s 0)) = true ∧ fenceHeld (hostStarted s 0) 1 = true ∧ entCid (headEntry (hostStarted s 0) 1) = 5
      ∧ (hostStarted s 0).host.cmds.find? (fun x => x.ring = 1 && x.cid = 5) = none := by decide +kernel

/-- PLAN_LOAD of an image with one empty section, of one that is not an image; a bad firmware image. -/
theorem test_HostCommandsRunAndComplete_reads :
    let img := leBytes 96 (0x4E414C50 + 1 * 2 ^ 32 + 96 * 2 ^ 128 + 1 * 2 ^ 160 + 1 * 2 ^ 176 + 64 * 2 ^ 192)
    let s := loaded 240 img (submitted (1 + 1920 * 2 ^ 64 + 96 * 2 ^ 128))
    let x := hubRead (dropPlan (hostStarted s 0)) 7 1920 96
    let f := hubRead (hostStarted (submitted (6 + 32 * 2 ^ 128)) 0) 6 0 32
    nextRing s = some 0 ∧ x.2.cause = 0 ∧ x.2.tag = 0 ∧ x.2.bytes = img ∧ planSects img = some [⟨0, [], []⟩] ∧ planFeatures img = 0
      ∧ planSects [] = none ∧ f.2.cause = 0 ∧ f.2.tag = 0 ∧ headCause f.1 f.2.bytes 32 [0] ≠ 0 := by decide +kernel

/-- A HOST_COPY each way, of 32 bytes at VA 0. -/
theorem test_HostCommandsRunAndComplete_copies :
    (∀ x ∈ [(0, List.replicate 32 (1 : Byte)), (1, [])],
      let s := submitted (5 + x.1 * 2 ^ 64 + 32 * 2 ^ 256)
      let b := hostStarted s 0
      let a := copyAcc (newCmd 0 (headEntry s 0)) x.2 true
      let w := { b with host := { b.host with bar2 := b.host.bar2 ++ [a] } }
      nextRing s = some 0 ∧ badEntry (headEntry s 0) = false ∧ hostReady s = true ∧ b.host.bar2 = [] ∧ vaCust a.va = false
        ∧ a.n = 32 ∧ pieceWaits w a (a.va, a.n) = false ∧ (copyRead w a.va a.n).2.1.length = 32
        ∧ (hubWritePiece w a.va a.data 0 (hostClass s)).2 = 0) := by decide +kernel

/-! ### Whole-machine statements -/

/-- A well-formed command of each kind of operand, and the invariant at reset and in a state that holds memory. -/
theorem test_WellFormedCommandsComplete : (Instr.regionFault 0 1).wf = true ∧ (Instr.sqTail 0 0 []).wf = true
    ∧ (Instr.bar2Write 0 [1] false).wf = true ∧ (Instr.registerWrite 0x3FFFFFF false 0).wf = true := by decide

theorem test_CommandsLeaveQueueAlone : ∃ t, exec (.regionFault 0 0) up = .next t := ⟨_, rfl⟩

theorem test_StepKeepsMemoriesCanonical :
    MemsCanonical State.reset ∧ MemsCanonical (loaded 0 [1, 2, 3, 4, 5, 6, 7, 8] up) ∧ MemsCanonical (submitted 5) := by
  unfold MemsCanonical
  decide +kernel

end Sys2Proof.Tests
end

/-! Totality of `exec`: on well-formed operands every command answers a next state, on all others its one named stop. -/

namespace Sys2Proof.Machine

/-- The stop of a command whose operands are not well-formed: the three that name a BAR0 offset fault (log 58), every other is
refused by its shape (logs 54, 59). -/
def namedStop (c : Instr) : Host.Outcome State Fault Refusal :=
  match c with
  | .counterClear _ => .fault .outsideBar0
  | .counterLowRead _ _ => .fault .outsideBar0
  | .registerWrite _ _ _ => .fault .outsideBar0
  | _ => .refused .illFormed

theorem namedStop_of_namesBar0Offset {c : Instr}
    (h : (∃ off, c = .counterClear off) ∨ (∃ rq off, c = .counterLowRead rq off) ∨ (∃ off w v, c = .registerWrite off w v)) :
    namedStop c = .fault .outsideBar0 := by
  obtain ⟨off, rfl⟩ | ⟨rq, off, rfl⟩ | ⟨off, w, v, rfl⟩ := h <;> rfl

theorem namedStop_of_not_namesBar0Offset {c : Instr}
    (h : ¬ ((∃ off, c = .counterClear off) ∨ (∃ rq off, c = .counterLowRead rq off) ∨ (∃ off w v, c = .registerWrite off w v))) :
    namedStop c = .refused .illFormed := by
  unfold namedStop
  split
  case h_1 off => exact absurd (.inl ⟨off, rfl⟩) h
  case h_2 rq off => exact absurd (.inr (.inl ⟨rq, off, rfl⟩)) h
  case h_3 off w v => exact absurd (.inr (.inr ⟨off, w, v, rfl⟩)) h
  case h_4 => rfl

/-- The one row whose guard is a conjunction of propositions, where `wf` has one of Booleans. -/
theorem execPowerCheck_eq_cond_wf (rails : List (Nat × Nat × Nat)) (broken : List Nat) (rep : Option (BitVec 64)) (s : State) :
    execPowerCheck rails broken rep s = bif (Instr.powerCheck rails broken rep).wf
      then .next (whenStep s 1 fun s => powerCheck s rails broken rep) else .refused .illFormed := by
  have hwf : (Instr.powerCheck rails broken rep).wf
      = (decide (rails.length = 8) && broken.all fun i => decide (i < 1000)) := rfl
  simp only [execPowerCheck, hwf, Bool.cond_eq_ite, Bool.and_eq_true, decide_eq_true_eq]

/-- `wf` is the guard that `exec` itself tests. Ten rows test their operands, each by the condition that `wf` states for it;
the others answer `.next` at once. -/
theorem exec_eq_next_or_namedStop (c : Instr) (s : State) :
    ∃ t, exec c s = bif c.wf then .next t else namedStop c := by
  cases c with
  | thermalSample raw => exact ⟨_, (Bool.cond_decide ..).symm⟩
  | railTelemetry rd => exact ⟨_, (Bool.cond_decide ..).symm⟩
  | mbxVerify img => exact ⟨_, (Bool.cond_decide ..).symm⟩
  | sqTail r v ents => exact ⟨_, (Bool.cond_decide ..).symm⟩
  | counterClear off => exact ⟨_, (Bool.cond_decide ..).symm⟩
  | counterLowRead rq off => exact ⟨_, (Bool.cond_decide ..).symm⟩
  | registerWrite off half v => exact ⟨_, (Bool.cond_decide ..).symm⟩
  | bar2Read o n => exact ⟨_, (Bool.cond_eq_ite ..).symm⟩
  | bar2Write o data ep => exact ⟨_, (Bool.cond_eq_ite ..).symm⟩
  | powerCheck rails broken rep => exact ⟨_, execPowerCheck_eq_cond_wf rails broken rep s⟩
  | _ => exact ⟨_, rfl⟩

/-- Settles O3: each clause reads off `exec_eq_next_or_namedStop` at the value of `wf`. -/
theorem wellFormedCommandsComplete : Obligations.WellFormedCommandsComplete := by
  unfold Obligations.WellFormedCommandsComplete
  intro c s
  obtain ⟨t, ht⟩ := exec_eq_next_or_namedStop c s
  refine ⟨fun hwf => ⟨t, by rw [ht, hwf, cond_true]⟩, fun hwf => ?_⟩
  have hstop : exec c s = namedStop c := by rw [ht, hwf, cond_false]
  exact ⟨fun h => hstop.trans (namedStop_of_namesBar0Offset h), fun h => hstop.trans (namedStop_of_not_namesBar0Offset h)⟩

end Sys2Proof.Machine

/-! Unit queues, the registers of a tile past a counter, the fault of a command on the execute path, and two commands of the
matrix array: a swap, and a run that finds no loaded bank (R68, R69, R73). -/

namespace Sys2Proof.Machine

/-! ### Unit queues -/

@[simp] theorem queueOf_setQueue_same (t : Tile) (u : TUnit) (q : List Cmd) : queueOf (setQueue t u q) u = q := by
  cases u <;> rfl

theorem queueOf_setQueue_ne (t : Tile) {u v : TUnit} (q : List Cmd) (h : v ≠ u) : queueOf (setQueue t u q) v = queueOf t v := by
  cases u <;> cases v <;> trivial

@[simp] theorem setQueue_garnet (t : Tile) (u : TUnit) (q : List Cmd) : (setQueue t u q).garnet = t.garnet := by
  cases u <;> rfl

@[simp] theorem stampNext_garnet (t : Tile) (u : TUnit) : (stampNext t u).garnet = t.garnet := by
  unfold stampNext
  split
  · rfl
  · exact setQueue_garnet ..

/-- The command that a queue holds first in a phase stands in that queue. -/
theorem mem_of_firstIn {t : Tile} {u : TUnit} {ph : Phase} {c : Cmd} (h : firstIn t u ph = some c) : c ∈ queueOf t u :=
  List.mem_of_find?_eq_some h

/-- A command of a queue is found by its number, or another of that number is. -/
theorem cmdBy_of_mem {t : Tile} {u : TUnit} {c : Cmd} (h : c ∈ queueOf t u) : ∃ d, cmdBy t u c.serial = some d :=
  Option.isSome_iff_exists.1 (List.find?_isSome.2 ⟨c, h, by simp⟩)

/-- A change of the commands of number `n` that keeps their number is what a search for `n` finds. -/
theorem cmdBy_onCmd_same (s : State) (p : Nat) (u : TUnit) (n : Nat) (f : Cmd → Cmd) (hf : ∀ c, (f c).serial = c.serial) :
    cmdBy (tileOf (onCmd s p u n f) p) u n = (cmdBy (tileOf s p) u n).map f := by
  simp only [onCmd, tileOf_onTile_same, cmdBy, queueOf_setQueue_same, mapIf]
  induction queueOf (tileOf s p) u with
  | nil => rfl
  | cons c q ih =>
    by_cases hc : c.serial = n
    · simp [hc, hf]
    · simpa [hc] using ih

/-- A stamp changes no command's number, phase or status. -/
theorem find?_serial_stampFirst (a n : Nat) {q : List Cmd} {c : Cmd} (h : q.find? (fun x => x.serial = n) = some c) :
    ∃ k, (stampFirst a q).find? (fun x => x.serial = n) = some { c with headAt := k } := by
  induction q with
  | nil => cases h
  | cons d q ih =>
    have hstamp : ∃ k r, stampFirst a (d :: q) = { d with headAt := k } :: r ∧ (r = q ∨ r = stampFirst a q) := by
      rw [stampFirst]
      split
      · split
        · exact ⟨_, _, rfl, .inl rfl⟩
        · exact ⟨d.headAt, _, rfl, .inl rfl⟩
      · exact ⟨d.headAt, _, rfl, .inr rfl⟩
    obtain ⟨k, r, hr, hrest⟩ := hstamp
    rw [hr]
    by_cases hd : d.serial = n
    · obtain rfl : d = c := by simpa [hd] using h
      exact ⟨k, by simp [hd]⟩
    · have hq : q.find? (fun x => x.serial = n) = some c := by simpa [hd] using h
      obtain rfl | rfl := hrest
      · exact ⟨c.headAt, by simpa [hd] using hq⟩
      · simpa [hd] using ih hq

/-- A stamp of the next command to begin keeps what a search by number finds, but for its stamp. -/
theorem cmdBy_stampNext {t : Tile} {u : TUnit} {n : Nat} {c : Cmd} (h : cmdBy t u n = some c) :
    ∃ k, cmdBy (stampNext t u) u n = some { c with headAt := k } := by
  unfold stampNext
  split
  · exact ⟨c.headAt, h⟩
  · simp only [cmdBy, queueOf_setQueue_same]
    exact find?_serial_stampFirst _ n h

/-- A command of a queue that executes to its end is found there, done, with its status. [04_tile_commands.md R100] -/
theorem finishCmd_ended {s : State} {p : Nat} {u : TUnit} {c : Cmd} (hc : c ∈ queueOf (tileOf s p) u) (ok : Bool) :
    Ended (finishCmd s p u c.serial ok) p u c ok := by
  obtain ⟨d, hd⟩ := cmdBy_of_mem hc
  have hdone : cmdBy (tileOf (onCmd s p u c.serial fun c => { c with phase := .done, ok := ok }) p) u c.serial
      = some { d with phase := .done, ok := ok } := by
    rw [cmdBy_onCmd_same (hf := by intro; rfl), hd, Option.map_some]
  obtain ⟨k, hk⟩ := cmdBy_stampNext hdone
  exact ⟨_, by rw [finishCmd, tileOf_onTile_same]; exact hk, rfl, rfl⟩

/-- A command of a queue that begins is found there, active. -/
theorem onCmd_active {s : State} {p : Nat} {u : TUnit} {c : Cmd} (hc : c ∈ queueOf (tileOf s p) u) :
    ∃ y, cmdBy (tileOf (onCmd s p u c.serial fun y => { y with phase := .active }) p) u c.serial = some y ∧ y.phase = .active := by
  obtain ⟨d, hd⟩ := cmdBy_of_mem hc
  exact ⟨{ d with phase := .active }, by rw [cmdBy_onCmd_same (hf := by intro; rfl), hd, Option.map_some], rfl⟩

@[simp] theorem onShadow_active1 (g : Garnet) (f : Bank → Bank) : (onShadow g f).active1 = g.active1 := by
  unfold onShadow
  split <;> rfl

@[simp] theorem onShadow_acc (g : Garnet) (f : Bank → Bank) : (onShadow g f).acc = g.acc := by
  unfold onShadow
  split <;> rfl

@[simp] theorem onCmd_garnet (s : State) (p : Nat) (u : TUnit) (n : Nat) (f : Cmd → Cmd) :
    (tileOf (onCmd s p u n f) p).garnet = (tileOf s p).garnet := by
  simp [onCmd]

@[simp] theorem finishCmd_garnet (s : State) (p : Nat) (u : TUnit) (n : Nat) (ok : Bool) :
    (tileOf (finishCmd s p u n ok) p).garnet = (tileOf s p).garnet := by
  simp [finishCmd]

/-! ### The registers of a tile past a counter -/

/-- `t` holds what `s` holds in every register of the tile blocks, which lie above those of the hub and the regions.
[21_register_index.md Table 21.1] -/
def TileRegsKept (s t : State) : Prop := ∀ off, 0x02000000 ≤ off → smFind t.regs off = smFind s.regs off

theorem tileRegsKept_trans {s t u : State} (h : TileRegsKept s t) (k : TileRegsKept t u) : TileRegsKept s u :=
  fun off ho => (k off ho).trans (h off ho)

theorem tileRegsKept_rset (s : State) (r : Reg) (v i j : Nat) (h : regOff r i j < 0x02000000) : TileRegsKept s (rset s r v i j) :=
  fun off ho => regs_rset_ne _ _ _ _ _ _ (by omega)

/-- The message of the event ring has a vector of 11 bits, so its pending bit stands in a register of the function.
[18_host_firmware.md R440] -/
theorem sendIrq_tileRegsKept (s : State) (v : Nat) (h : v < 2 ^ 11) : TileRegsKept s (sendIrq s v) := by
  unfold sendIrq
  split
  · split
    · exact tileRegsKept_rset _ _ _ _ _ (by simp only [regOff, MSIX_PBA]; omega)
    · exact fun _ _ => rfl
  · exact fun _ _ => rfl

theorem notePosted_tileRegsKept (s : State) (b : Bool) : TileRegsKept s (notePosted s 64 b) := by
  unfold notePosted signalRing
  extract_lets n oldest src u c v
  split
  · exact sendIrq_tileRegsKept u _ (fget_lt _ HOST_EVT_CFG__VECTOR _ _)
  · exact fun _ _ => rfl

theorem dropEvent_tileRegsKept (s : State) : TileRegsKept s (dropEvent s) := by
  unfold dropEvent
  extract_lets src r src2 src3
  have h : TileRegsKept s r.1 := tileRegsKept_rset _ HOST_EVT_DROP_COUNT _ 0 0 (by simp only [regOff, HOST_EVT_DROP_COUNT]; omega)
  split
  · exact h
  · exact h

theorem writeEvent_tileRegsKept (s : State) (e : Event) : TileRegsKept s (writeEvent s e) := by
  have hstate : ∀ (u : State) (f : Fld) (v : Nat), f.reg = HOST_EVT_STATE → TileRegsKept u (fset u f v) := fun u f v hf =>
    tileRegsKept_rset u f.reg _ 0 0 (by rw [hf]; simp only [regOff, HOST_EVT_STATE]; omega)
  unfold writeEvent
  extract_lets size tail head ph a src u v w
  have hu : TileRegsKept s u := fun _ _ => rfl
  have hv : TileRegsKept s v := tileRegsKept_trans hu (hstate u HOST_EVT_STATE__TAIL _ rfl)
  have hw : TileRegsKept s w := by
    unfold w
    split
    · exact tileRegsKept_trans hv (hstate v HOST_EVT_STATE__PHASE _ rfl)
    · exact hv
  split
  · exact dropEvent_tileRegsKept s
  · exact tileRegsKept_trans hw (notePosted_tileRegsKept w false)

/-- Posting an event leaves the registers of every tile. [18_host_firmware.md R449] -/
theorem postEvent_tileRegsKept (s : State) (code payload : Nat) : TileRegsKept s (postEvent s code payload) := by
  unfold postEvent
  extract_lets e src u
  have hu : TileRegsKept s u := fun _ _ => rfl
  split
  · split
    · exact tileRegsKept_trans hu (writeEvent_tileRegsKept u e)
    · exact hu
  · split
    · exact hu
    · exact tileRegsKept_trans hu (dropEvent_tileRegsKept u)

/-- Counting leaves every other register of a tile, also where the counter's saturation posts its event. [18_host_firmware.md R455] -/
theorem rget_bump_tile (s : State) (r r' : Reg) (i j i' j' : Nat) (ht : 0x02000000 ≤ regOff r' i' j')
    (hne : regOff r' i' j' ≠ regOff r i j) : rget (bump s r i j) r' i' j' = rget s r' i' j' := by
  apply rget_congr
  have hraw := regs_rset_ne s r (counterNext (rget s r i j) 1) i j _ hne
  unfold bump bumpN
  extract_lets x
  split
  · exact (postEvent_tileRegsKept x.1 _ _ _ ht).trans hraw
  · exact hraw

@[simp] theorem tileOf_bumpN (s : State) (r : Reg) (n i j q : Nat) : tileOf (bumpN s r n i j) q = tileOf s q := by
  obtain ⟨_, htiles, -⟩ := regsAndEvents_fields (bumpN_frame s r n i j)
  simp only [tileOf, htiles]

@[simp] theorem tileOf_bump (s : State) (r : Reg) (i j q : Nat) : tileOf (bump s r i j) q = tileOf s q := tileOf_bumpN s r 1 i j q

/-! ### What a stop leaves of a command that has ended -/

/-- Queue `u` holds commands of number `n`, and all of them have ended with status `ok`. -/
def EndedIn (t : Tile) (u : TUnit) (n : Nat) (ok : Bool) : Prop :=
  (∃ c ∈ queueOf t u, c.serial = n) ∧ ∀ c ∈ queueOf t u, c.serial = n → c.phase = .done ∧ c.ok = ok

/-- A search by number finds one of them. -/
theorem ended_of_endedIn {s : State} {p : Nat} {u : TUnit} {c : Cmd} {ok : Bool} (h : EndedIn (tileOf s p) u c.serial ok) :
    Ended s p u c ok := by
  obtain ⟨⟨d, hd, hn⟩, hall⟩ := h
  obtain ⟨y, hy⟩ := cmdBy_of_mem hd
  rw [hn] at hy
  exact ⟨y, hy, hall y (List.mem_of_find?_eq_some hy) (by simpa using List.find?_some hy)⟩

theorem endedIn_filter_serial_ne {t : Tile} {u : TUnit} {n m : Nat} {ok : Bool} (h : EndedIn t u n ok) (hm : m ≠ n) :
    EndedIn (setQueue t u ((queueOf t u).filter fun c => c.serial ≠ m)) u n ok := by
  obtain ⟨⟨d, hd, hn⟩, hall⟩ := h
  refine ⟨⟨d, ?_, hn⟩, fun c hc => hall c ?_⟩
  · rw [queueOf_setQueue_same]
    exact List.mem_filter.2 ⟨hd, by simpa [hn] using hm.symm⟩
  · rw [queueOf_setQueue_same] at hc
    exact (List.mem_filter.1 hc).1

theorem endedIn_setQueue_ne {t : Tile} {u v : TUnit} {n : Nat} {ok : Bool} (q : List Cmd) (h : EndedIn t v n ok) (hu : v ≠ u) :
    EndedIn (setQueue t u q) v n ok := by
  simpa only [EndedIn, queueOf_setQueue_ne t q hu] using h

/-- `t` has tile `p` with the fault record, active bank and accumulators of `s`, and the commands of number `n` on its execute path
have ended FAIL. -/
structure FailKept (p n : Nat) (s t : State) : Prop where
  fault : rget t TILE_FAULT p = rget s TILE_FAULT p
  bank : (tileOf t p).garnet.active1 = (tileOf s p).garnet.active1
  acc : (tileOf t p).garnet.acc = (tileOf s p).garnet.acc
  ended : EndedIn (tileOf t p) .exec n false

section
variable {p n : Nat} {s t : State}

theorem failKept_rset (h : FailKept p n s t) (r : Reg) (v i j : Nat) (hr : regOff TILE_FAULT p 0 ≠ regOff r i j) :
    FailKept p n s (rset t r v i j) := ⟨(rget_rset_ne _ _ _ _ _ _ _ _ hr).trans h.fault, h.bank, h.acc, h.ended⟩

theorem failKept_fset (h : FailKept p n s t) (f : Fld) (v i j : Nat) (hr : regOff TILE_FAULT p 0 ≠ regOff f.reg i j) :
    FailKept p n s (fset t f v i j) := failKept_rset h f.reg _ i j hr

theorem failKept_onTile (h : FailKept p n s t) (f : Tile → Tile)
    (hb : ∀ x, (f x).garnet.active1 = x.garnet.active1 := by intros; rfl)
    (ha : ∀ x, (f x).garnet.acc = x.garnet.acc := by intros; rfl)
    (he : ∀ x, EndedIn x .exec n false → EndedIn (f x) .exec n false := by exact fun _ h => h) :
    FailKept p n s (onTile t p f) := by
  refine ⟨h.fault, ?_, ?_, ?_⟩
  · rw [tileOf_onTile_same, hb, h.bank]
  · rw [tileOf_onTile_same, ha, h.acc]
  · rw [tileOf_onTile_same]; exact he _ h.ended

theorem failKept_ite {u : State} (c : Prop) [Decidable c] (h : FailKept p n s t) (k : FailKept p n s u) :
    FailKept p n s (if c then t else u) := by
  split <;> assumption

theorem failKept_forS {α : Type} (h : FailKept p n s t) (l : List α) (f : α → State → State)
    (k : ∀ x ∈ l, ∀ u, FailKept p n s u → FailKept p n s (f x u)) : FailKept p n s (forS l f t) :=
  List.foldlRecOn l _ h fun u hu x hx => k x hx u hu

/-- The status of a slot is no part of the fault record. -/
theorem failKept_slot (h : FailKept p n s t) (f : Fld) (v k : Nat) (hf : f.reg = TILE_SLOT_STATE) (hk : k < 64) :
    FailKept p n s (fset t f v p k) :=
  failKept_fset h f v p k (by rw [hf]; simp only [regOff, TILE_FAULT, TILE_SLOT_STATE]; omega)

theorem failKept_setTileState (h : FailKept p n s t) (st : Nat) : FailKept p n s (setTileState t p st) := by
  unfold setTileState
  extract_lets u v
  have hu : FailKept p n s u := failKept_fset (failKept_fset h TILE_COLLIE_STATUS__STATE _ _ _
    (by simp only [regOff, TILE_FAULT, TILE_COLLIE_STATUS__STATE, TILE_COLLIE_STATUS]; omega)) TILE_COLLIE_CTRL__RUN _ _ _
    (by simp only [regOff, TILE_FAULT, TILE_COLLIE_CTRL__RUN, TILE_COLLIE_CTRL]; omega)
  have hstream : ∀ (f : Fld) (v k : Nat) (w : State), f.reg = TILE_STREAM_STATUS → FailKept p n s w →
      FailKept p n s (fset w f v p k) := fun f v k w hf hw => failKept_fset hw f v p k
    (by rw [hf]; simp only [regOff, TILE_FAULT, TILE_STREAM_STATUS]; omega)
  have hv : FailKept p n s v := failKept_forS hu _ _ fun k _ w hw =>
    failKept_ite _ (hstream _ _ k _ rfl (hstream _ _ k _ rfl hw)) hw
  refine failKept_ite _ hu (failKept_forS (failKept_fset hv TILE_COLLIE_STATUS__BLOCK_MASK _ _ _ ?_) _ _ fun k hk w hw => ?_)
  · simp only [regOff, TILE_FAULT, TILE_COLLIE_STATUS__BLOCK_MASK, TILE_COLLIE_STATUS]; omega
  · have hk' := List.mem_range.1 hk
    exact failKept_slot (failKept_slot hw TILE_SLOT_STATE__P_WAIT _ k rfl hk') TILE_SLOT_STATE__C_WAIT _ k rfl hk'

theorem failKept_tokensFail (h : FailKept p n s t) (d : Nat) : FailKept p n s (tokensFail t p d) := by
  have hout : dOut d < 64 := bitsOf_lt d 24 6
  have hin : dIn d < 64 := bitsOf_lt d 16 6
  unfold tokensFail setSlot
  extract_lets u
  have hu : FailKept p n s u := failKept_ite _
    (failKept_slot (failKept_slot h TILE_SLOT_STATE__STATE _ _ rfl hout) TILE_SLOT_STATE__ERR _ _ rfl hout) h
  exact failKept_ite _ (failKept_slot hu TILE_SLOT_STATE__STATE _ _ rfl hin) hu

/-- A discarded command of another queue, or of another number, is not the one that failed. -/
theorem failKept_discardCmd (h : FailKept p n s t) (u : TUnit) (c : Cmd) (hc : u = .exec → c.serial ≠ n) :
    FailKept p n s (discardCmd t p u c) := by
  have hdrop : FailKept p n s (dropCmd t p u c.serial) := by
    refine failKept_onTile h _ (fun _ => by simp) (fun _ => by simp) fun x hx => ?_
    by_cases hu : u = .exec
    · subst hu; exact endedIn_filter_serial_ne hx (hc rfl)
    · exact endedIn_setQueue_ne _ hx (Ne.symm hu)
  unfold discardCmd oneOut onStream
  exact failKept_onTile (failKept_tokensFail hdrop c.desc) _

/-- The commands that a stop discards wait; those that failed have ended. -/
theorem failKept_abortQueued (h : FailKept p n s t) (u : TUnit) : FailKept p n s (abortQueued t p u) := by
  refine failKept_forS h _ _ fun c hc w hw => failKept_discardCmd hw u c fun hu hn => ?_
  subst hu
  obtain ⟨hmem, hph⟩ := List.mem_filter.1 hc
  have hdone := (h.ended.2 c hmem hn).1
  simp [hdone] at hph

theorem failKept_abortGarnet (h : FailKept p n s t) : FailKept p n s (abortGarnet t p) := by
  have hq := failKept_abortQueued (failKept_abortQueued h .load) .exec
  unfold abortGarnet
  extract_lets u v
  have hu : FailKept p n s u := hq
  have hv : FailKept p n s v := by
    unfold v
    split
    · exact failKept_discardCmd (failKept_onTile hu _ (fun _ => onShadow_active1 ..) fun _ => onShadow_acc ..)
        _ _ nofun
    · exact hu
  exact failKept_onTile hv _

theorem failKept_abortDma (h : FailKept p n s t) : FailKept p n s (abortDma t p) := by
  unfold abortDma
  extract_lets u gone v
  have hu : FailKept p n s u := failKept_onTile (failKept_abortQueued h .dma) _
  have hv : FailKept p n s v := failKept_onTile hu _
  refine failKept_forS hv _ _ fun c _ w hw => failKept_ite _ hw (failKept_ite _ ?_ ?_)
  · exact failKept_discardCmd (failKept_rset hw _ _ _ _ (by simp only [regOff, TILE_FAULT, TILE_DMA_LAST]; omega)) _ _ nofun
  · exact failKept_onTile hw _

/-- The registers of a region lie below those of its tiles. -/
theorem tileFault_ne_region (hp : p < 288) :
    regOff TILE_FAULT p 0 ≠ regOff REGION_JASPER_CTX (p / 18) (p % 18)
      ∧ regOff TILE_FAULT p 0 ≠ regOff REGION_JASPER_STATUS (p / 18) 0 := by
  have hregion : p / 18 < 16 := by omega
  have hslot : p % 18 < 18 := by omega
  simp only [regOff, TILE_FAULT, REGION_JASPER_CTX, REGION_JASPER_STATUS]
  omega

theorem failKept_abortJasper (hp : p < 288) (h : FailKept p n s t) : FailKept p n s (abortJasper t p) := by
  obtain ⟨hctx, hstatus⟩ := tileFault_ne_region hp
  unfold abortJasper
  extract_lets u v w x
  have hv : FailKept p n s v := failKept_onTile (failKept_abortQueued h .jasper) _
  have hx : FailKept p n s x :=
    failKept_ite _ (failKept_fset (failKept_rset hv _ _ _ _ hctx) REGION_JASPER_STATUS__RUN_MASK _ _ _ hstatus) hv
  split
  · exact failKept_discardCmd hx _ _ nofun
  · exact hx

theorem failKept_abortUnits (hp : p < 288) (h : FailKept p n s t) : FailKept p n s (abortUnits t p) := by
  have hunits := failKept_abortJasper hp (failKept_abortDma (failKept_abortQueued (failKept_abortGarnet h) .beryl))
  unfold abortUnits updQuiet
  exact failKept_fset hunits TILE_COLLIE_STATUS__QUIET _ _ _
    (by simp only [regOff, TILE_FAULT, TILE_COLLIE_STATUS__QUIET, TILE_COLLIE_STATUS]; omega)

theorem failKept_fillStart (h : FailKept p n s t) : FailKept p n s (fillStart t p) :=
  failKept_ite _ h (failKept_onTile h _)

/-- The stop sequence of tile `p` keeps its fault record and what has ended. [04_tile_commands.md R117] -/
theorem failKept_stopTile (hp : p < 288) (h : FailKept p n s t) : FailKept p n s (stopTile t p) := by
  have hs := failKept_setTileState (failKept_fillStart h) 2
  exact failKept_ite _ (failKept_abortUnits hp (failKept_onTile hs _)) h

end

/-! ### The fault of a command -/

@[simp] theorem tileOf_recordFault (s : State) (p code unit : Nat) (x : FaultCmd) (info q : Nat) :
    tileOf (recordFault s p code unit x info) q = tileOf s q := by
  unfold recordFault
  extract_lets u v w
  split <;> simp [u, v, w]

/-- The first fault of a tile is recorded, also where counting it posts an event. [04_tile_commands.md R117] -/
theorem rget_recordFault_first {s : State} {p : Nat} (hv : fbit s TILE_FAULT__VALID p = false) (code unit : Nat) (x : FaultCmd)
    (info : Nat) : rget (recordFault s p code unit x info) TILE_FAULT p = faultWord code unit x % 2 ^ 64 := by
  have hkept : rget (bump s TILE_FAULT_COUNT p) TILE_FAULT p = rget s TILE_FAULT p := rget_bump_tile _ _ _ _ _ _ _
    (by simp only [regOff, TILE_FAULT]; omega) (by simp only [regOff, TILE_FAULT, TILE_FAULT_COUNT]; omega)
  have hv' : fbit (bump s TILE_FAULT_COUNT p) TILE_FAULT__VALID p = false := by
    simpa only [fbit, fget, TILE_FAULT__VALID, hkept] using hv
  unfold recordFault
  extract_lets u v w
  rw [if_neg (by simp [u, hv']),
    rget_fset_ne _ _ _ _ _ _ _ _ (by simp only [regOff, TILE_FAULT, TILE_COLLIE_STATUS__FAULTED, TILE_COLLIE_STATUS]; omega),
    rget_rset_ne _ _ _ _ _ _ _ _ (by simp only [regOff, TILE_FAULT, TILE_FAULT_INFO]; omega), rget_rset_same]

/-- The fault record shows the code and the unit of the fault. [04_tile_commands.md Table 4.19] -/
theorem faultWord_code_unit {code unit : Nat} (hc : code < 2 ^ 8) (hu : unit < 2 ^ 4) (x : FaultCmd) :
    bitsOf (faultWord code unit x % 2 ^ 64) 8 8 = code ∧ bitsOf (faultWord code unit x % 2 ^ 64) 20 4 = unit := by
  have hflag : flag (classH code) ≤ 1 := by cases classH code <;> simp
  simp only [bitsOf, faultWord]
  omega

/-- A command that is made to end FAIL has ended, with every other one of its number. -/
theorem endedIn_onCmd_fail {s : State} {p : Nat} {u : TUnit} {c : Cmd} (hc : c ∈ queueOf (tileOf s p) u) :
    EndedIn (tileOf (onCmd s p u c.serial fun x => { x with phase := .done, ok := false, faulted := true }) p) u c.serial false := by
  simp only [EndedIn, onCmd, tileOf_onTile_same, queueOf_setQueue_same, mapIf, List.mem_map]
  refine ⟨⟨_, ⟨c, hc, rfl⟩, by simp⟩, ?_⟩
  rintro d ⟨e, -, rfl⟩ hn
  by_cases he : e.serial = c.serial
  · simp [he]
  · simp [he] at hn

/-- A command of the execute path that fails while no fault is recorded: the record names its code and Garnet's execute path, the
command has ended FAIL, and the stop of the tile leaves the active bank and the accumulators. [04_tile_commands.md R117] -/
theorem failCmd_exec_first {s : State} {p : Nat} (hp : p < 288) (hv : fbit s TILE_FAULT__VALID p = false) {c : Cmd}
    (hc : c ∈ queueOf (tileOf s p) .exec) {code : Nat} (hcode : code < 2 ^ 8) (info : Nat) :
    fget (failCmd s p .exec c code info) TILE_FAULT__CODE p = code ∧ fget (failCmd s p .exec c code info) TILE_FAULT__UNIT p = 2
      ∧ (tileOf (failCmd s p .exec c code info) p).garnet.active1 = (tileOf s p).garnet.active1
      ∧ (tileOf (failCmd s p .exec c code info) p).garnet.acc = (tileOf s p).garnet.acc
      ∧ Ended (failCmd s p .exec c code info) p .exec c false := by
  unfold failCmd
  extract_lets u
  have hu : EndedIn (tileOf u p) .exec c.serial false := endedIn_onCmd_fail hc
  have hgar : (tileOf u p).garnet = (tileOf s p).garnet := onCmd_garnet ..
  have hword : rget (recordFault u p code (unitCode .exec) (cmdRef c) info) TILE_FAULT p
      = faultWord code 2 (cmdRef c) % 2 ^ 64 := rget_recordFault_first (s := u) hv _ _ _ _
  have hrec : FailKept p c.serial (recordFault u p code (unitCode .exec) (cmdRef c) info)
      (recordFault u p code (unitCode .exec) (cmdRef c) info) := ⟨rfl, rfl, rfl, by rwa [tileOf_recordFault]⟩
  obtain ⟨hfault, hbank, hacc, hended⟩ : FailKept p c.serial (recordFault u p code (unitCode .exec) (cmdRef c) info)
      (raiseFault u p code (unitCode .exec) (cmdRef c) info) :=
    failKept_stopTile hp (failKept_ite _ (failKept_onTile hrec _) hrec)
  obtain ⟨hc, hu⟩ := faultWord_code_unit hcode (unit := 2) (by decide) (cmdRef c)
  refine ⟨?_, ?_, ?_, ?_, ended_of_endedIn hended⟩
  · simp only [fget, TILE_FAULT__CODE, hfault, hword, hc]
  · simp only [fget, TILE_FAULT__UNIT, hfault, hword, hu]
  · rw [hbank, tileOf_recordFault, hgar]
  · rw [hacc, tileOf_recordFault, hgar]

/-! ### The swap, and the run on a bank that is not loaded -/

/-- The banks of tile `p` have changed places, and the exchange is counted. [03_garnet_array.md R68, R92] -/
def exchanged (s : State) (p : Nat) : State :=
  bump (onGarnet s p fun g => { g with active1 := !g.active1 }) TILE_GARNET_SWAP_COUNT p

@[simp] theorem exchanged_garnet (s : State) (p : Nat) :
    (tileOf (exchanged s p) p).garnet = { (tileOf s p).garnet with active1 := !(tileOf s p).garnet.active1 } := by
  simp [exchanged, onGarnet]

@[simp] theorem exchanged_queueOf (s : State) (p : Nat) (u : TUnit) :
    queueOf (tileOf (exchanged s p) p) u = queueOf (tileOf s p) u := by
  rw [exchanged, tileOf_bump, onGarnet, tileOf_onTile_same]
  cases u <;> rfl

/-- The fault record is not the count of swaps. -/
theorem exchanged_valid (s : State) (p : Nat) : fbit (exchanged s p) TILE_FAULT__VALID p = fbit s TILE_FAULT__VALID p := by
  have hkept : rget (exchanged s p) TILE_FAULT p = rget s TILE_FAULT p := rget_bump_tile _ _ _ _ _ _ _
    (by simp only [regOff, TILE_FAULT]; omega) (by simp only [regOff, TILE_FAULT, TILE_GARNET_SWAP_COUNT]; omega)
  simp only [fbit, fget, TILE_FAULT__VALID, hkept]

/-- The bank that was shadow is active after the exchange. -/
theorem activeOf_exchanged (s : State) (p : Nat) :
    activeOf (tileOf (exchanged s p) p).garnet = shadowOf (tileOf s p).garnet := by
  rw [exchanged_garnet, activeOf, shadowOf]
  cases (tileOf s p).garnet.active1 <;> rfl

/-- A swap where the new active bank passes parity: the command ends OK or raises FLT_GARNET_NOT_LOADED by the LOADED of that bank.
[03_garnet_array.md R68, R73] -/
theorem swapTake_of_parity_ok {s : State} {p : Nat} {c : Cmd} (h : badCols (shadowOf (tileOf s p).garnet) = []) :
    swapTake s p c = if (shadowOf (tileOf s p).garnet).loaded then finishCmd (exchanged s p) p .exec c.serial true
      else garnetFault (exchanged s p) p .exec c 0x11 := by
  show (if !(activeOf (tileOf (exchanged s p) p).garnet).loaded then
      if (badCols (activeOf (tileOf (exchanged s p) p).garnet)).isEmpty then _ else _
    else if !(badCols (activeOf (tileOf (exchanged s p) p).garnet)).isEmpty then _ else _) = _
  rw [activeOf_exchanged, h]
  cases (shadowOf (tileOf s p).garnet).loaded <;> rfl

/-- GARNET_SWAP takes the swap at the head of an execute path that is not halted and waits for no load. [03_garnet_array.md R69] -/
theorem exec_garnetSwap {s : State} {p : Fin 288} {c : Cmd} (hup : tileUp s p = true) (hhalt : (tileOf s p).garnet.halted = false)
    (hfirst : firstIn (tileOf s p) .exec .queued = some c) (hop : dOp c.desc = 0x11) (hmay : swapMayBegin (tileOf s p) c = true) :
    exec (.garnetSwap p) s = .next (swapTake s p c) := by
  show Host.Outcome.next (whenRuns s p fun s => swapStep s p) = _
  rw [whenRuns_on _ (tileUp_runs hup)]
  simp [swapStep, hfirst, hop, hhalt, hmay]

/-- GARNET_RUN with parameters and operands in order raises FLT_GARNET_NOT_LOADED where the active bank is not loaded.
[03_garnet_array.md R73] -/
theorem exec_garnetRun_not_loaded {s : State} {p : Fin 288} {c : Cmd} (hup : tileUp s p = true)
    (hhalt : (tileOf s p).garnet.halted = false) (hfirst : firstIn (tileOf s p) .exec .queued = some c) (hop : dOp c.desc = 0x12)
    (hduty : 0 < fget s HUSKY_TILE__DUTY p) (hpok : runParamOk (runP c.desc) = true)
    (hload : (activeOf (tileOf s p).garnet).loaded = false)
    (hopnd : badOperand ([((runP c.desc).act, (runP c.desc).tokens * 4), ((runP c.desc).scl, ceilDiv ((runP c.desc).tokens * 2) 32)]
      ++ (if (runP c.desc).accEnd then [((runP c.desc).dst, runOutWords (runP c.desc))] else [])) = none) :
    exec (.garnetRun p) s = .next (garnetFault s p .exec c 0x11) := by
  have hbegin : runBegin s p c = garnetFault s p .exec c 0x11 := by
    simp only [runBegin, hpok, hopnd, hload, Bool.not_true, Bool.not_false, Bool.false_eq_true, if_false, if_true]
  show Host.Outcome.next (whenIssue s p fun s => runStep s p) = _
  rw [whenIssue, whenRuns_on _ (tileUp_runs hup), if_pos hduty]
  simp [runStep, hfirst, hop, hhalt, hbegin]

/-- Settles O20: a swap exchanges the banks and then ends or fails by the LOADED of the new active one, a run fails before it
changes anything; what a failure records and leaves is `failCmd_exec_first`. -/
theorem garnetSwapExchangesBanks : Obligations.GarnetSwapExchangesBanks := by
  unfold Obligations.GarnetSwapExchangesBanks
  intro s p c hup hhalt hfirst hvalid
  have hmem : c ∈ queueOf (tileOf s p) .exec := mem_of_firstIn hfirst
  constructor
  · intro hop hmay n hpar
    refine ⟨swapTake s p c, exec_garnetSwap hup hhalt hfirst hop hmay, ?_⟩
    have hmem' : c ∈ queueOf (tileOf (exchanged s p) p) .exec := by rwa [exchanged_queueOf]
    rw [swapTake_of_parity_ok hpar]
    by_cases hl : n.loaded = true
    · rw [if_pos hl, finishCmd_garnet, exchanged_garnet]
      exact ⟨rfl, fun _ => ⟨rfl, rfl, finishCmd_ended hmem' true⟩, fun h => absurd hl (by rw [h]; decide)⟩
    · obtain ⟨hcode, hunit, hbank, -, hended⟩ := failCmd_exec_first p.isLt ((exchanged_valid s p).trans hvalid) hmem'
        (code := 0x11) (by decide) (Config.noInfo 0x11 (now (exchanged s p)))
      rw [if_neg hl, garnetFault, hbank, exchanged_garnet]
      exact ⟨rfl, fun h => absurd h hl, fun _ => ⟨hcode, hunit, hended⟩⟩
  · intro hop hduty hpok hload hopnd
    obtain ⟨hcode, hunit, -, hacc, hended⟩ :=
      failCmd_exec_first p.isLt hvalid hmem (code := 0x11) (by decide) (Config.noInfo 0x11 (now s))
    exact ⟨_, exec_garnetRun_not_loaded hup hhalt hfirst hop hduty hpok hload hopnd, hcode, hunit, hacc, hended⟩

end Sys2Proof.Machine

/-! The read of a run of words, the registers that a load writes, and the two ends of a load (R63 to R67). -/

namespace Sys2Proof.Machine

/-! ### Reads of Spinel -/

@[simp] theorem leBytes_length (n x : Nat) : (leBytes n x).length = n := by
  induction n generalizing x with
  | zero => rfl
  | succ n ih => simp [leBytes, ih]

/-- A read finds word `w` uncorrectable for the first time. [06_spinel_dma.md R149, R150] -/
def foundBad (s : State) (p w : Nat) : Bool :=
  !(decide (((spDecode s p w).filter fun x => x.2 = .bad).length = 0) || spFound s p w)

/-- What a read gives. [06_spinel_dma.md R149, R150] -/
def readOf (s : State) (p w : Nat) : SpRead :=
  let data := (spDecode s p w).flatMap fun x => leBytes 8 (quarterOut x)
  if foundBad s p w then ⟨data, 3, some ((spDecode s p w).findIdx fun x => x.2 = .bad)⟩ else ⟨data, spTagOf s p w, none⟩

/-- The tags of Spinel after a read: a word first found uncorrectable is marked. [06_spinel_dma.md R149] -/
def tagsAfter (s : State) (p w : Nat) : Memory := if foundBad s p w then memSet s.spTag (spKey p w) 7 else s.spTag

/-- A read gives `readOf`, marks as `tagsAfter` says, and else changes registers and what posting events changes alone.
[06_spinel_dma.md R149] -/
theorem spRead_eq (s : State) (p w : Nat) :
    ∃ r h b, spRead s p w = ({ s with regs := r, host := h, bar4 := b, spTag := tagsAfter s p w }, readOf s p w) := by
  have hcount : ∀ (u : State) (r : Reg) (n : Nat), ∃ r' h b, bumpN u r n p = { u with regs := r', host := h, bar4 := b } := by
    intro u r n
    obtain ⟨r', h, b, e, -⟩ := bumpN_frame u r n p 0
    exact ⟨r', h, b, e⟩
  unfold spRead
  extract_lets tag qs data ce ue u q v x l1 l2 l3 y
  have hu : ∃ r h b, u = { s with regs := r, host := h, bar4 := b } := by
    unfold u
    split
    · exact ⟨_, _, _, rfl⟩
    · exact hcount ..
  obtain ⟨ru, hu, bu, eu⟩ := hu
  have hfound : spFound u p w = spFound s p w := by rw [eu]; rfl
  have hbad : foundBad s p w = !decide (ue = 0 ∨ spFound u p w) := by
    rw [hfound, foundBad, Bool.decide_or, Bool.decide_eq_true]
  split
  case isTrue hc =>
    have hno : foundBad s p w = false := by rw [hbad, decide_eq_true hc]; rfl
    exact ⟨ru, hu, bu, by simp only [readOf, tagsAfter, hno, eu]; rfl⟩
  case isFalse hc =>
    have hyes : foundBad s p w = true := by rw [hbad, decide_eq_false hc]; rfl
    obtain ⟨rv, hv, bv, ev⟩ := hcount u TILE_SPINEL_UE_COUNT ue
    have hx : x = { s with regs := rv, host := hv, bar4 := bv, spTag := memSet s.spTag (spKey p w) 7 } := by
      show { v with spTag := memSet v.spTag (spKey p w) 7 } = _
      rw [show v = _ from ev, eu]
    have hset : ∀ (u : State) (f : Fld) (n : Nat), (∃ r, u = { x with regs := r }) → ∃ r, fset u f n p = { x with regs := r } := by
      rintro _ f n ⟨r, rfl⟩
      exact ⟨_, rfl⟩
    have hx0 : ∃ r, x = { x with regs := r } := ⟨x.regs, rfl⟩
    have hy : ∃ r, y = { x with regs := r } := by
      unfold y
      split
      · exact hset _ _ _ hx0
      · exact hset _ _ _ (hset _ _ _ (hset _ _ _ (hset _ _ _ hx0)))
    obtain ⟨ry, hy⟩ := hy
    exact ⟨ry, hv, bv, by simp only [readOf, tagsAfter, hyes, hy, hx]; rfl⟩

@[simp] theorem spRead_tiles (s : State) (p w : Nat) : (spRead s p w).1.tiles = s.tiles := by
  obtain ⟨_, _, _, h⟩ := spRead_eq s p w
  rw [h]

/-- A word has 32 bytes. -/
theorem spRead_length (s : State) (p w : Nat) : (spRead s p w).2.data.length = 32 := by
  obtain ⟨_, _, _, h⟩ := spRead_eq s p w
  rw [h]
  unfold readOf
  split <;> simp [spDecode, List.range_succ]

/-- Two states with one Spinel give one answer, and leave one Spinel. [06_spinel_dma.md R149] -/
theorem spRead_congr {s t : State} (h : SpinelSame s t) (p w : Nat) :
    (spRead t p w).2 = (spRead s p w).2 ∧ SpinelSame (spRead s p w).1 (spRead t p w).1 := by
  obtain ⟨hdata, hchk, htag⟩ := h
  have hdec : spDecode t p w = spDecode s p w := by simp only [spDecode, spRaw, hdata, hchk]
  have hbad : foundBad t p w = foundBad s p w := by simp only [foundBad, hdec, spFound, htag]
  obtain ⟨_, _, _, hs⟩ := spRead_eq s p w
  obtain ⟨_, _, _, ht⟩ := spRead_eq t p w
  rw [hs, ht]
  exact ⟨by simp only [readOf, hdec, hbad, spTagOf, htag], hdata, hchk, by simp only [tagsAfter, hbad, htag]⟩

theorem spinelSame_trans {s t u : State} (h : SpinelSame s t) (k : SpinelSame t u) : SpinelSame s u :=
  ⟨k.1.trans h.1, k.2.1.trans h.2.1, k.2.2.trans h.2.2⟩

theorem spReadRun_congr {s t : State} (h : SpinelSame s t) (p : Nat) (ws : List Nat) :
    (spReadRun t p ws).2 = (spReadRun s p ws).2 ∧ SpinelSame (spReadRun s p ws).1 (spReadRun t p ws).1 := by
  induction ws generalizing s t with
  | nil => exact ⟨rfl, h⟩
  | cons w ws ih =>
    obtain ⟨hres, hsame⟩ := spRead_congr h p w
    obtain ⟨hrest, hlast⟩ := ih hsame
    simp only [spReadRun, hres]
    split
    · exact ⟨rfl, hsame⟩
    · exact ⟨by rw [hrest], hlast⟩

@[simp] theorem spReadRun_tiles (s : State) (p : Nat) (ws : List Nat) : (spReadRun s p ws).1.tiles = s.tiles := by
  induction ws generalizing s with
  | nil => rfl
  | cons w ws ih =>
    simp only [spReadRun]
    split
    · exact spRead_tiles ..
    · exact (ih _).trans (spRead_tiles ..)

@[simp] theorem tileOf_spReadRun (s : State) (p : Nat) (ws : List Nat) (q : Nat) :
    tileOf (spReadRun s p ws).1 q = tileOf s q := by
  simp only [tileOf, spReadRun_tiles]

/-- A run of reads that no word stops gives the bytes of every word. -/
theorem spReadRun_length {s : State} {p : Nat} {ws : List Nat} (h : (spReadRun s p ws).2.stop = none) :
    (spReadRun s p ws).2.bytes.length = 32 * ws.length := by
  induction ws generalizing s with
  | nil => rfl
  | cons w ws ih =>
    simp only [spReadRun] at h ⊢
    split at h
    · cases h
    · rename_i htag
      rw [if_neg htag, List.length_append, spRead_length, ih h, List.length_cons]
      omega

@[simp] theorem walkWords_length (a k n : Nat) : (walkWords a k n).length = n := by simp [walkWords]

/-! ### Beats asked of the E port -/

theorem ePort_spinelSame (s : State) (p k : Nat) (l : List (List Nat)) : SpinelSame s (ePort s p k l) := by
  unfold ePort
  split <;> exact ⟨rfl, rfl, rfl⟩

theorem tileOf_ePort_ne (s : State) (p k : Nat) (l : List (List Nat)) {q : Nat} (h : q ≠ p) :
    tileOf (ePort s p k l) q = tileOf s q := by
  unfold ePort
  split
  · rfl
  · exact tileOf_onTile_ne _ _ _ _ h

@[simp] theorem ePort_garnet (s : State) (p k : Nat) (l : List (List Nat)) :
    (tileOf (ePort s p k l) p).garnet = (tileOf s p).garnet := by
  unfold ePort
  split
  · rfl
  · rw [tileOf_onTile_same]

@[simp] theorem queueOf_ePort (s : State) (p k : Nat) (l : List (List Nat)) (u : TUnit) :
    queueOf (tileOf (ePort s p k l) p) u = queueOf (tileOf s p) u := by
  unfold ePort
  split
  · rfl
  · rw [tileOf_onTile_same]; cases u <;> rfl

/-! ### The 9-bit register of a code -/

theorem popcount_mod (w n : Nat) : popcount w (n % 2 ^ w) = popcount w n := by
  induction w generalizing n with
  | zero => rfl
  | succ w ih =>
    have hdiv : n % 2 ^ (w + 1) / 2 = n / 2 % 2 ^ w := by rw [Nat.pow_succ', Nat.mod_mul_right_div_self]
    have hbit : n % 2 ^ (w + 1) % 2 = n % 2 := Nat.mod_mod_of_dvd n ⟨2 ^ w, Nat.pow_succ'⟩
    rw [popcount, popcount, hdiv, ih, hbit]

/-- One more bit counted. -/
theorem popcount_succ_top (w n : Nat) : popcount (w + 1) n = popcount w n + n / 2 ^ w % 2 := by
  induction w generalizing n with
  | zero => simp [popcount]
  | succ w ih =>
    rw [popcount, ih, popcount, Nat.div_div_eq_div_mul, ← Nat.pow_succ']
    exact (Nat.add_assoc ..).symm

@[simp] theorem cellReg_mod (code : Nat) : cellReg code % 256 = code % 256 := by simp [cellReg]

theorem cellReg_lt (code : Nat) : cellReg code < 512 := by
  have : parityOf 8 code < 2 := Nat.mod_lt _ (by decide)
  unfold cellReg
  omega

/-- The 9 stored bits hold an even number of ones. [03_garnet_array.md R63] -/
theorem parityOf_cellReg (code : Nat) : parityOf 9 (cellReg code) = 0 := by
  have hlow : popcount 8 (cellReg code) = popcount 8 code := by
    rw [← popcount_mod, ← popcount_mod 8 code]
    exact congrArg _ (cellReg_mod code)
  have htop : cellReg code / 2 ^ 8 = popcount 8 code % 2 := by
    unfold cellReg parityOf
    omega
  rw [parityOf, popcount_succ_top, hlow, htop]
  omega

/-! ### Folds that write places -/

/-- A fold whose elements all keep what `g` reads keeps it. -/
theorem foldl_keeps {α β γ : Type} (g : β → γ) (f : β → α → β) (l : List α) (b : β)
    (hk : ∀ z ∈ l, ∀ b, g (f b z) = g b) : g (l.foldl f b) = g b :=
  List.foldlRecOn (motive := fun b' => g b' = g b) l f rfl fun b' hb z hz => (hk z hz b').trans hb

/-- In a fold whose other elements keep what `g` reads, `g` reads what an element of the list has left. -/
theorem foldl_reads_written {α β γ : Type} (g : β → γ) (f : β → α → β) {y : α} {l : List α} (b : β) (hy : y ∈ l)
    (hk : ∀ z ∈ l, z ≠ y → ∀ b, g (f b z) = g b) : ∃ b', g (l.foldl f b) = g (f b' y) := by
  induction l generalizing b with
  | nil => cases hy
  | cons z l ih =>
    rw [List.foldl_cons]
    by_cases hyl : y ∈ l
    · exact ih (f b z) hyl fun x hx => hk x (List.mem_cons_of_mem _ hx)
    · have hz : y = z := (List.mem_cons.1 hy).resolve_right hyl
      subst hz
      exact ⟨b, foldl_keeps g f l _ fun x hx => hk x (List.mem_cons_of_mem _ hx) fun hxy => hyl (hxy ▸ hx)⟩

/-- Piece `i` of a list, among its whole pieces. -/
theorem chunks_whole_getElem? {α : Type} {n m i : Nat} {l : List α} (hn : 0 < n) (hi : i < m) (hl : n * (i + 1) ≤ l.length) :
    ((chunks n m l).filter fun r => r.length = n)[i]? = some ((l.drop (n * i)).take n) := by
  induction m generalizing l i with
  | zero => cases hi
  | succ m ih =>
    have hfirst : n ≤ l.length := Nat.le_trans (Nat.le_mul_of_pos_right n (Nat.succ_pos i)) hl
    have hne : l.isEmpty = false := by
      cases l with
      | nil => simp at hfirst; omega
      | cons _ _ => rfl
    have hlen : (l.take n).length = n := by rw [List.length_take, Nat.min_eq_left hfirst]
    rw [chunks, hne, if_neg Bool.false_ne_true, List.filter_cons_of_pos (by exact decide_eq_true hlen)]
    cases i with
    | zero => simp
    | succ i =>
      rw [List.getElem?_cons_succ, ih (Nat.lt_of_succ_lt_succ hi) (by rw [List.length_drop]; rw [Nat.mul_succ] at hl; omega),
        List.drop_drop, Nat.mul_succ, Nat.add_comm n]

theorem smFind_map_range' {α : Type} (f : Nat → α) {a m k : Nat} (ha : a ≤ k) (hk : k < a + m) :
    smFind ((List.range' a m).map fun k => (k, f k)) k = some (f k) := by
  induction m generalizing a with
  | zero => omega
  | succ m ih =>
    rw [List.range'_succ, List.map_cons, smFind]
    by_cases h : a = k
    · rw [if_pos h, h]
    · rw [if_neg h, if_neg (by omega), ih (by omega) (by omega)]

/-! ### Columns and rows of a load -/

/-- A column written whole holds the registers of its block. [03_garnet_array.md R66] -/
theorem cellOf_loadCol_same (inj : Option (Nat × Nat)) (b : Nat) (bank : Bank) (c : Nat) (blk : List Byte) {k : Nat} (hk : k < 128) :
    cellOf (loadCol inj b bank c blk) c k = loadReg inj c k (packedCode b blk k) := by
  rw [cellOf, loadCol, smGet_smSet_same, smGet, List.range_eq_range', smFind_map_range' _ (Nat.zero_le k) (by omega), Option.getD_some]

theorem cellOf_loadCol_ne (inj : Option (Nat × Nat)) (b : Nat) (bank : Bank) {c c' : Nat} (blk : List Byte) (k : Nat) (h : c' ≠ c) :
    cellOf (loadCol inj b bank c blk) c' k = cellOf bank c' k := by
  rw [cellOf, loadCol, smGet_smSet_ne _ _ _ _ _ h, cellOf]

/-- Column `first + i` of a column-major load holds block `i`. [03_garnet_array.md R66] -/
theorem cellOf_loadColumns (inj : Option (Nat × Nat)) {x : LoadP} (bank : Bank) {bs : List Byte} {i k : Nat} (hprec : 1 ≤ x.prec)
    (hi : i < x.ncols) (hn : x.ncols ≤ 128) (hl : 16 * x.prec * x.ncols ≤ bs.length) (hk : k < 128) :
    cellOf (loadColumns inj x bank bs) (x.first + i) k
      = loadReg inj (x.first + i) k (packedCode x.prec ((bs.drop (16 * x.prec * i)).take (16 * x.prec)) k) := by
  have hblk : ((chunks (16 * x.prec) 128 bs).filter fun blk => blk.length = 16 * x.prec)[i]?
      = some ((bs.drop (16 * x.prec * i)).take (16 * x.prec)) :=
    chunks_whole_getElem? (by omega) (by omega) (Nat.le_trans (Nat.mul_le_mul_left _ hi) hl)
  have hcol : ∀ j, (loadCols x)[j]? = if j < x.ncols then some (x.first + j) else none := by
    intro j
    by_cases hj : j < x.ncols <;> simp [loadCols, hj]
  unfold loadColumns
  extract_lets blks
  have hmem : (x.first + i, (bs.drop (16 * x.prec * i)).take (16 * x.prec)) ∈ (loadCols x).zip blks :=
    List.mem_iff_getElem?.2 ⟨i, List.getElem?_zip_eq_some.2 ⟨by rw [hcol, if_pos hi], hblk⟩⟩
  obtain ⟨b', hb'⟩ := foldl_reads_written (fun b => cellOf b (x.first + i) k) (fun b y => loadCol inj x.prec b y.1 y.2) bank hmem
    fun z hz hne b => cellOf_loadCol_ne _ _ _ _ _ fun hc => hne (by
      obtain ⟨j, hj⟩ := List.mem_iff_getElem?.1 hz
      obtain ⟨h1, h2⟩ := List.getElem?_zip_eq_some.1 hj
      have hji : j = i := by
        rw [hcol] at h1
        split at h1
        · injection h1 with h1; omega
        · cases h1
      subst hji
      exact Prod.ext hc.symm (Option.some.inj (h2.symm.trans hblk)))
  rw [hb', cellOf_loadCol_same _ _ _ _ _ hk]

theorem cellOf_setCell_same (b : Bank) (c k v : Nat) : cellOf (setCell b c k v) c k = v := by
  rw [cellOf, setCell, smGet_smSet_same, smGet_smSet_same]

theorem cellOf_setCell_ne (b : Bank) {c k c' k' : Nat} (v : Nat) (h : c' ≠ c ∨ k' ≠ k) :
    cellOf (setCell b c k v) c' k' = cellOf b c' k' := by
  rw [cellOf, setCell, cellOf]
  by_cases hc : c' = c
  · subst hc
    rw [smGet_smSet_same, smGet_smSet_ne _ _ _ _ _ (h.resolve_left (· rfl))]
  · rw [smGet_smSet_ne _ _ _ _ _ hc]

/-- Row `k` of a row-major load holds bytes `128 k` on. [03_garnet_array.md R66] -/
theorem cellOf_loadRows (inj : Option (Nat × Nat)) (bank : Bank) {bs : List Byte} {c k : Nat} (hc : c < 128) (hk : k < 128)
    (hl : 128 * 128 ≤ bs.length) :
    cellOf (loadRows inj bank bs) c k = loadReg inj c k (bs.getD (128 * k + c) 0).toNat := by
  have hrow : ((chunks 128 128 bs).filter fun r => r.length = 128)[k]? = some ((bs.drop (128 * k)).take 128) :=
    chunks_whole_getElem? (by decide) hk (by omega)
  have hbyte : ((bs.drop (128 * k)).take 128)[c]? = some (bs.getD (128 * k + c) 0) := by
    rw [List.getElem?_take_of_lt hc, List.getElem?_drop, List.getD_eq_getElem?_getD,
      List.getElem?_eq_getElem (by omega), Option.getD_some]
  unfold loadRows
  extract_lets rows
  have hrowmem : ((bs.drop (128 * k)).take 128, k) ∈ rows.zipIdx := List.mem_zipIdx_iff_getElem?.2 hrow
  have hbytemem : (bs.getD (128 * k + c) 0, c) ∈ ((bs.drop (128 * k)).take 128).zipIdx := List.mem_zipIdx_iff_getElem?.2 hbyte
  obtain ⟨b', hb'⟩ := foldl_reads_written (fun b => cellOf b c k) (fun b (y : List Byte × Nat) =>
      y.1.zipIdx.foldl (fun b z => setCell b z.2 y.2 (loadReg inj z.2 y.2 z.1.toNat)) b) bank
    hrowmem fun y hy hne b =>
      foldl_keeps (fun b => cellOf b c k) _ _ b fun z _ b => cellOf_setCell_ne _ _ (.inr fun hky => hne (by
        have hy' := List.mem_zipIdx_iff_getElem?.1 hy
        rw [← hky] at hy'
        exact Prod.ext (Option.some.inj (hy'.symm.trans hrow)) hky.symm))
  obtain ⟨b'', hb''⟩ := foldl_reads_written (fun b => cellOf b c k)
    (fun b (z : Byte × Nat) => setCell b z.2 k (loadReg inj z.2 k z.1.toNat)) b'
    hbytemem fun z hz hne b => cellOf_setCell_ne _ _ (.inl fun hcz => hne (by
      have hz' := List.mem_zipIdx_iff_getElem?.1 hz
      rw [← hcz] at hz'
      exact Prod.ext (Option.some.inj (hz'.symm.trans hbyte)) hcz.symm))
  rw [hb', hb'', cellOf_setCell_same]


/-! ### The bank that a load changes -/

@[simp] theorem shadowOf_onShadow (g : Garnet) (f : Bank → Bank) : shadowOf (onShadow g f) = f (shadowOf g) := by
  rw [shadowOf, shadowOf, onShadow_active1, onShadow]
  split <;> rfl

@[simp] theorem activeOf_onShadow (g : Garnet) (f : Bank → Bank) : activeOf (onShadow g f) = activeOf g := by
  rw [activeOf, activeOf, onShadow_active1, onShadow]
  split <;> rfl

/-- The shadow bank after a load without an injected error has read `eb` and `db`. [03_garnet_array.md R66, R67] -/
def loadedBank (x : LoadP) (eb db : List Byte) (b : Bank) : Bank :=
  if x.rowMajor then loadRows none (loadExps (loadClear b x) x eb) db else loadColumns none x (loadExps (loadClear b x) x eb) db

/-- The code of row `k` in column `first + i` that the bytes of a load spell. [03_garnet_array.md R65, R66; 02_arithmetic.md R39] -/
def loadCode (x : LoadP) (db : List Byte) (i k : Nat) : Nat :=
  if x.rowMajor then (db.getD (128 * k + i) 0).toNat
  else bitsOf (leNat ((db.drop (16 * x.prec * i)).take (16 * x.prec))) (k * x.prec) x.prec

/-- The words of a load cover its columns. -/
theorem le_loadWords (x : LoadP) : 16 * x.prec * x.ncols ≤ 32 * loadWords x := by
  have hcomm : 16 * x.prec * x.ncols = x.ncols * 16 * x.prec := by rw [Nat.mul_comm, ← Nat.mul_assoc]
  rw [loadWords, ceilDiv, hcomm]
  omega

/-- A load in range stores every code of its columns with its parity, in either order. [03_garnet_array.md R63, R65, R66] -/
theorem cellOf_loadedBank {x : LoadP} (hok : loadParamOk x = true) (eb : List Byte) {db : List Byte}
    (hl : db.length = 32 * loadWords x) (b : Bank) {i k : Nat} (hi : i < x.ncols) (hk : k < 128) :
    cellOf (loadedBank x eb db b) (x.first + i) k = cellReg (loadCode x db i k) := by
  have hcover : 16 * x.prec * x.ncols ≤ db.length := hl ▸ le_loadWords x
  simp only [loadParamOk, Bool.and_eq_true, Bool.or_eq_true, Bool.not_eq_true', decide_eq_true_eq] at hok
  obtain ⟨⟨⟨⟨⟨⟨hprec, -⟩, -⟩, -⟩, hrow⟩, -⟩, hcols⟩ := hok
  unfold loadedBank loadCode
  split
  case isTrue hr =>
    obtain ⟨⟨hp, hf⟩, hn⟩ := hrow.resolve_left (by rw [hr]; decide)
    rw [hp, hn] at hcover
    rw [hf, Nat.zero_add, cellOf_loadRows none _ (by omega) hk (by omega)]
    rfl
  case isFalse =>
    rw [cellOf_loadColumns none _ hprec hi (by omega) hcover hk]
    rfl

/-- A code of a load fits in the 8 bits of its register. -/
theorem loadCode_lt {x : LoadP} (hok : loadParamOk x = true) (db : List Byte) (i k : Nat) : loadCode x db i k < 256 := by
  have hprec : x.prec ≤ 8 := by
    simp only [loadParamOk, Bool.and_eq_true, decide_eq_true_eq] at hok
    omega
  unfold loadCode
  split
  · exact (db.getD (128 * k + i) 0).isLt
  · exact Nat.lt_of_lt_of_le (bitsOf_lt ..) (Nat.pow_le_pow_right (by decide) hprec)

/-! ### The load and its end -/

/-- The reads of the exponents and of the codes of a load, each after its requests at the E port. [03_garnet_array.md R66] -/
def expRead (s : State) (p : Nat) (x : LoadP) : State × SpRun :=
  spReadRun (ePort s p 4 (walkBeats x.expSrc 0 (loadExpWords x))) p (walkWords x.expSrc 0 (loadExpWords x))

def codeRead (s : State) (p : Nat) (x : LoadP) : State × SpRun :=
  spReadRun (ePort (expRead s p x).1 p 4 (walkBeats x.src 0 (loadWords x))) p (walkWords x.src 0 (loadWords x))

/-- The requests at the E port do not change what the words give. -/
theorem expRead_snd (s : State) (p : Nat) (x : LoadP) :
    (expRead s p x).2 = (spReadRun s p (walkWords x.expSrc 0 (loadExpWords x))).2 :=
  (spReadRun_congr (ePort_spinelSame ..) _ _).1

theorem codeRead_snd (s : State) (p : Nat) (x : LoadP) :
    (codeRead s p x).2
      = (spReadRun (spReadRun s p (walkWords x.expSrc 0 (loadExpWords x))).1 p (walkWords x.src 0 (loadWords x))).2 := by
  have hexp : SpinelSame (spReadRun s p (walkWords x.expSrc 0 (loadExpWords x))).1 (expRead s p x).1 :=
    (spReadRun_congr (ePort_spinelSame ..) _ _).2
  exact (spReadRun_congr (spinelSame_trans hexp (ePort_spinelSame ..)) _ _).1

/-- The reads of a load change of the tile only what waits at the E port. -/
theorem codeRead_garnet (s : State) (p : Nat) (x : LoadP) : (tileOf (codeRead s p x).1 p).garnet = (tileOf s p).garnet := by
  simp only [codeRead, expRead, tileOf_spReadRun, ePort_garnet]

theorem codeRead_queueOf (s : State) (p : Nat) (x : LoadP) (u : TUnit) :
    queueOf (tileOf (codeRead s p x).1 p) u = queueOf (tileOf s p) u := by
  rw [codeRead, tileOf_spReadRun, queueOf_ePort, expRead, tileOf_spReadRun, queueOf_ePort]

theorem codeRead_tileOf_ne (s : State) (p : Nat) (x : LoadP) {q : Nat} (hq : q ≠ p) :
    tileOf (codeRead s p x).1 q = tileOf s q := by
  simp only [codeRead, expRead, tileOf_spReadRun, tileOf_ePort_ne _ _ _ _ hq]

/-- A load without an armed injection that meets no tagged word stores what it has read in the shadow bank and is active.
[03_garnet_array.md R66, R85] -/
theorem loadBegin_of_reads {s : State} {p : Nat} {c : Cmd} (hinj : fbit s TILE_GARNET_CTRL__INJ_ARM p = false)
    (hexp : (expRead s p (loadP c.desc)).2.stop = none) (hcode : (codeRead s p (loadP c.desc)).2.stop = none) :
    loadBegin s p c =
      onCmd (onGarnet (codeRead s p (loadP c.desc)).1 p fun g => onShadow g
          (loadedBank (loadP c.desc) (expRead s p (loadP c.desc)).2.bytes (codeRead s p (loadP c.desc)).2.bytes))
        p .load c.serial fun y => { y with phase := .active } := by
  unfold codeRead expRead at hcode
  unfold expRead at hexp
  simp only [loadBegin, hinj, Bool.false_and, Bool.false_eq_true, if_false, hexp, hcode]
  rfl

/-- GARNET_LOAD begins the load at the head of the weight port's queue where it may begin with parameters and operands in order.
[03_garnet_array.md R65, R66] -/
theorem exec_garnetLoad {s : State} {p : Fin 288} {c : Cmd} (hup : tileUp s p = true)
    (hfirst : firstIn (tileOf s p) .load .queued = some c) (hmay : loadMayBegin (tileOf s p) c = true)
    (hok : loadParamOk (loadP c.desc) = true)
    (hopnd : badOperand [((loadP c.desc).expSrc, loadExpWords (loadP c.desc)), ((loadP c.desc).src, loadWords (loadP c.desc))] = none) :
    exec (.garnetLoad p) s = .next (loadBegin s p c) := by
  have hstep : loadStep s p = loadBegin s p c := by
    simp only [loadStep, hfirst, hmay, hok, hopnd, Bool.not_true, Bool.false_eq_true, if_false]
  show Host.Outcome.next (whenRuns s p fun s => loadStep s p) = _
  rw [whenRuns_on _ (tileUp_runs hup), hstep]

/-- GARNET_LOAD_END of the load `c`: the attributes of the shadow bank, and its occupancy. [03_garnet_array.md R66, Table 3.1] -/
def endedBank (x : LoadP) (b : Bank) : Bank :=
  let b := { b with loaded := true, prec := x.prec, int1 := x.int1, page := x.page }
  { b with occ := (loadCols x).foldl (fun m i => smSet m i (colOcc b i)) b.occ }

theorem exec_garnetLoadEnd {s : State} {p : Fin 288} {c : Cmd} (hup : tileUp s p = true)
    (hfirst : firstIn (tileOf s p) .load .active = some c) :
    exec (.garnetLoadEnd p) s
      = .next (finishCmd (onGarnet s p fun g => onShadow g (endedBank (loadP c.desc))) p .load c.serial true) := by
  show Host.Outcome.next (whenRuns s p fun s => loadEndStep s p) = _
  rw [whenRuns_on _ (tileUp_runs hup), loadEndStep, hfirst]
  rfl

theorem queueOf_onGarnet (s : State) (p : Nat) (f : Garnet → Garnet) (u : TUnit) :
    queueOf (tileOf (onGarnet s p f) p) u = queueOf (tileOf s p) u := by
  rw [onGarnet, tileOf_onTile_same]
  cases u <;> rfl

theorem onGarnet_garnet (s : State) (p : Nat) (f : Garnet → Garnet) :
    (tileOf (onGarnet s p f) p).garnet = f (tileOf s p).garnet := by
  rw [onGarnet, tileOf_onTile_same]

/-- Settles O21: the reads of a load give what they give without its requests at the E port, the cells are `cellOf_loadedBank`;
its end changes the tile alone. -/
theorem garnetLoadFillsShadowBank : Obligations.GarnetLoadFillsShadowBank := by
  unfold Obligations.GarnetLoadFillsShadowBank
  intro s p hup
  constructor
  · intro c x e d hfirst hmay hok hopnd hinj hes hds
    have heq : (expRead s p x).2 = e.2 := expRead_snd ..
    have hdq : (codeRead s p x).2 = d.2 := codeRead_snd ..
    have hmem : c ∈ queueOf (tileOf s p) .load := mem_of_firstIn hfirst
    have hlen : d.2.bytes.length = 32 * loadWords x := by rw [spReadRun_length hds, walkWords_length]
    refine ⟨_, exec_garnetLoad hup hfirst hmay hok hopnd, ?_⟩
    rw [loadBegin_of_reads hinj (by rw [heq, hes]) (by rw [hdq, hds]), onCmd_garnet, onGarnet_garnet, shadowOf_onShadow,
      activeOf_onShadow, onShadow_acc, codeRead_garnet, heq, hdq]
    refine ⟨onCmd_active ?_, fun i k hi hk => ?_, rfl, rfl, fun q hq => ?_⟩
    · rwa [queueOf_onGarnet, codeRead_queueOf]
    · rw [cellOf_loadedBank hok _ hlen _ hi hk]
      exact ⟨(cellReg_mod _).trans (Nat.mod_eq_of_lt (loadCode_lt hok ..)), cellReg_lt _, parityOf_cellReg _⟩
    · rw [onCmd, onGarnet, tileOf_onTile_ne _ _ _ _ hq, tileOf_onTile_ne _ _ _ _ hq, codeRead_tileOf_ne _ _ _ hq]
  · intro c hfirst
    have hmem : c ∈ queueOf (tileOf (onGarnet s p fun g => onShadow g (endedBank (loadP c.desc))) p) .load := by
      rw [queueOf_onGarnet]
      exact mem_of_firstIn hfirst
    refine ⟨_, exec_garnetLoadEnd hup hfirst, finishCmd_ended hmem true, ?_⟩
    rw [finishCmd_garnet, onGarnet_garnet, shadowOf_onShadow, activeOf_onShadow]
    refine ⟨rfl, rfl, rfl, rfl, rfl, rfl, _, rfl, fun q hq => ?_⟩
    rw [finishCmd, onCmd, onGarnet, tileOf_onTile_ne _ _ _ _ hq, tileOf_onTile_ne _ _ _ _ hq, tileOf_onTile_ne _ _ _ _ hq]

end Sys2Proof.Machine
